-- ==== Sys2Proof/Word.lean ====
section
/-! DEFINITION. The word types of the model: bytes, 32-bit register and packet words, 64-bit counts. -/

namespace Sys2Proof

/-- One byte of memory, of a packet payload or of a digest. -/
abbrev Byte := BitVec 8

/-- One 32-bit word: a register, a word of a packet header, descriptor or reply (R9, R565). -/
abbrev W := BitVec 32

end Sys2Proof
end

