-- ==== Sys2Proof/Syntax.lean ====
section
/-! DEFINITION. The commands of the block: one constructor of Instr per row of spec/opcode_table.json,
with the row's operands, and the data types those operands are made of (fabric packets, command names,
write paths, observed physical inputs). -/

namespace Sys2Proof

/-- The name of an accepted command: the ring that held it and its sequence number (R97, R111). -/
structure CmdId where
  ring : Nat
  seq  : Nat
deriving DecidableEq, Repr, Inhabited

/-- The paths by which a register write reaches the device (R568). -/
inductive Path where
  | portA | portB | i3c | perturb | command
deriving DecidableEq, Repr, Inhabited

/-- A decision record (R104): the check outcome (0 when every check passes), the status code, the expected sequence number
afterwards, and the CRC-64 of the work descriptors released. -/
structure Decision where
  outcome  : Nat
  status   : Nat
  expected : Nat
  crc      : BitVec 64
deriving DecidableEq, Repr

/-- What a part of a contribution carries (R389): dense elements at an offset, elements of an embedding row from an
element on, or the end marker with its element or row count. -/
inductive Part where
  | elems (off : Nat) (vals : List W)
  | row   (row off : Nat) (vals : List W)
  | fin   (count : Nat)
deriving DecidableEq, Repr

/-- The verdict of a transfer reply (R452). -/
inductive XVerdict where
  | go | busy | formatDiffers | countDiffers
deriving DecidableEq, Repr

/-- A manifest entry (R527), with its payload's place in the holder's Deep Cellar. -/
structure CkEntry where
  type : Nat
  item : Nat
  off  : Nat
  len  : Nat
  addr : Nat := 0
  sha  : List Byte
deriving DecidableEq, Repr

/-- The contents a packet's sink defines (R429 word 5 and after, and the payload). The bit places of most
sink words are not in the spec; the contents are. -/
inductive Body where
  /-- Transfer request (R452 step 1). -/
  | xferReq   (tag : W) (fmt bytes : Nat)
  /-- Transfer reply (R452 step 2). -/
  | xferReply (tag : W) (v : XVerdict)
  /-- Transfer data (R452 step 3). -/
  | xferData  (tag : W) (off : Nat) (bytes : List Byte)
  /-- Contribution to a Reduction Engine (R389). -/
  | contrib   (step shard rank : Nat) (part : Part)
  /-- Twin update digest (R482). -/
  | digest    (step shard : Nat) (d : BitVec 64)
  /-- Remote row request with its layer's stamp and the requesting operation and index entry (R195, R244). -/
  | rowReq    (handle row stamp op entry : Nat)
  /-- A row record returned unconverted (R195); `known` is false when the stamped version has retired (R244). -/
  | rowResp   (handle row op entry fmt : Nat) (known : Bool) (rec : List Byte)
  /-- A forwarded row write, or a migrated guest row when `guest` is set (R202, R209). -/
  | rowWrite  (handle row fmt : Nat) (guest : Bool) (rec : List Byte)
  /-- Working-copy values of one apply segment (R413). -/
  | segment   (step seg : Nat) (bytes : List Byte)
  /-- The four payload words of a notice (R453, R404). -/
  | notice    (w0 w1 w2 w3 : W)
  /-- Acknowledgement with its count (R447). -/
  | ack       (count : Nat)
  | cmapReq
  | cmapResp  (bytes : List Byte)
  /-- One checkpoint segment's bytes (R526): number, type, item and offset within the item. -/
  | ckptSeg   (seg type item off : Nat) (bytes : List Byte)
  /-- The manifest that ends a stream (R526, R527). -/
  | manifest  (job gen step nextMb : Nat) (stime : BitVec 64) (entries : List CkEntry)
  | buddyQuery
  | buddyAnswer (ward pdom : Nat)
  /-- A restore read: segment 0 is the manifest (R528). -/
  | restoreReq  (ward : Nat) (step : W) (seg : Nat)
  /-- The holder's answer; `found` is false when no committed manifest names the step. -/
  | restoreResp (seg : Nat) (found : Bool) (bytes : List Byte)
deriving DecidableEq, Repr

/-- The packet types of R429 word 0. -/
inductive PType where
  | write | mcast | request | response | ack | notice
  /-- A reserved type code. -/
  | reserved (code : Nat)
deriving DecidableEq, Repr

/-- The reserved bits of a header (R429): word 0 [22:12], word 2 [7:0], word 3 [15:12] and word 14. -/
structure Resv where
  w0  : Nat := 0
  w2  : Nat := 0
  w3  : Nat := 0
  w14 : Nat := 0
deriving DecidableEq, Repr

/-- A fabric packet: the header fields of R429 and its contents. -/
structure Pkt where
  type  : PType
  cls   : Nat
  phase : Nat := 1
  epoch : Nat := 0
  fence : Bool := false
  len   : Nat := 0
  dst   : Nat
  src   : Nat
  via   : Nat := 0
  hops  : Nat := 0
  job   : Nat := 0
  ring  : Nat := 0
  seq   : Nat := 0
  group : Nat := 0
  sink  : Nat := 0
  resv  : Resv := {}
  crc   : W := 0
  /-- STIME at the event that a notice reports (R10; assumption 78). -/
  stime : Nat := 0
  /-- Of an unreachable or delivery-error notice: the destination of the packet that it answers, and the header word that
  breaks the protocol (R442, R461; assumption 78); none where that packet is itself an answer. -/
  about : Option (Nat × Nat) := none
  /-- Where in the payload of its contents this packet's bytes begin: contents of more than 2,048 bytes travel in several
  packets (R429). -/
  off   : Nat := 0
  body  : Body
deriving DecidableEq, Repr

/-- A physical fault an operation meets while it runs (R471): the unit it strikes (0 East, 1 West, 2 Drain,
3 Sparse Engine, 4 Vector Engine, 5 an adder of a chain accumulator), whether the first attempt and the retry mismatch, and the rows and columns
the check unit reports. -/
structure OpFault where
  unit   : Nat
  first  : Bool
  second : Bool
  rows   : W
  cols   : W
deriving DecidableEq, Repr

/-- The credit that the next hops have returned since the latest packet was routed (R425), at place 8 times the port plus the
virtual channel, in 64-byte units; nothing at the places that the list does not reach. -/
structure RouteSight where
  returned : List Nat
deriving DecidableEq, Repr

/-- The IEEE 1588 messages of a master that the device acts on (R74), with sequence numbers and the master's times in ns: a Sync
carries its sending time when the master is one-step; the Follow_Up of a two-step master; a Delay_Resp with the arrival of the
device's Delay_Req. -/
inductive PtpMsg where
  | sync      (seq : Nat) (origin : Option Nat)
  | followUp  (seq origin : Nat)
  | delayResp (seq receive : Nat)
deriving DecidableEq, Repr

/-- The head of an Ethernet frame at the management port (R555): its addresses, and whether it carries a VLAN tag. -/
structure FrameHead where
  dst    : BitVec 48
  src    : BitVec 48
  tagged : Bool := false
deriving DecidableEq, Repr

/-- A message of a master in its frame (R74). `ip`: over UDP to that IPv4 address, or none over Layer 2 Ethernet. -/
structure PtpFrame where
  head : FrameHead
  ip   : Option W
  msg  : PtpMsg
deriving DecidableEq, Repr

/-- A PCIe configuration request of a port (R549, R554): the offset of a word in configuration space, and what is written, or
none for a read. -/
structure ConfigReq where
  port  : Nat
  off   : Nat
  value : Option W
deriving DecidableEq, Repr

/-- What MOD_RESET_N does (R501, R539): a low pulse of so many ns; low for 1 µs and still low; high again. -/
inductive ResetPin where
  | pulse (ns : Nat)
  | held
  | released
deriving DecidableEq, Repr

/-- How a dynamic address reaches the I3C target (R557): SETDASA names it by its static address; ENTDAA does not. -/
inductive I3cAssign where
  | setdasa (static dynamic : BitVec 7)
  | entdaa  (dynamic : BitVec 7)
deriving DecidableEq, Repr

/-- An access to the 4 KiB page of a ring in BAR2 (R94): the offset in the page, and what is written, or none for a read. -/
structure PageAccess where
  off   : Nat
  value : Option W
deriving DecidableEq, Repr

/-- What the checks of an add at a Cellar line show: the code of the request fails (R42), or the two adders differ (R201), or
neither. -/
inductive AddCheck where
  | good | badRequest | addersDiffer
deriving DecidableEq, Repr

/-- Something the Reduction Engine forms values for, and whether its two datapaths differ on one of them (R398). -/
structure Compared (α : Type) where
  of     : α
  differ : Bool
deriving DecidableEq, Repr

/-- Where a packet stands that a Landing routes (R432 to R434): it comes over the link of a Stair port now, it waits in that
port's input buffer, or it waits for injection at a Landing of this package, named by 20 times its Hall plus its gallery. -/
inductive RouteSource where
  | arrives (port : Nat)
  | waits   (port : Nat)
  | injected (landing : Nat)
deriving DecidableEq, Repr

/-- What the check of R560 finds in a firmware image: the SHA-384 hash of the key that signed it, whether the signature
verifies, its security version. ECDSA itself is outside the spec. -/
structure FwImage where
  key   : BitVec 384 := 0
  sigOk : Bool
  svn   : Nat
deriving DecidableEq, Repr

/-- The commands: one constructor per row of spec/opcode_table.json, in the table's order. A row that runs an
accepted Noleug command names it by `CmdId`; a row that is an event carries what the outside world supplies. -/
inductive Instr where
  | commandRingDoorbell (ring : Nat) (access : PageAccess)
  | completionRingDoorbell (ring : Nat) (access : PageAccess)
  /-- `b`: Control Die B's decision record, or none where it equals Control Die A's (R104); `hostErr` is a host bus
  address whose read completes with an error (R583, R124). -/
  | packetDecode (b : Option Decision) (hostErr : Option Nat)
  | ledgerProgressUpdate (ring : Nat)
  | nop (c : CmdId)
  | waitRing (c : CmdId)
  | waitRingSatisfied (c : CmdId)
  | waitRingTimeout (c : CmdId)
  | abortRing (c : CmdId)
  | timeLoad (c : CmdId)
  | copy (c : CmdId)
  | fill (c : CmdId)
  | sample (c : CmdId)
  | graphVerify (c : CmdId)
  | samplerJobStart (c : CmdId) (op : Nat)
  | samplerJobEnd (c : CmdId) (op : Nat)
  | tableOpen (c : CmdId)
  | tableClose (c : CmdId)
  | tableCloseComplete (c : CmdId)
  | gatherRun (c : CmdId)
  | tierPass (c : CmdId)
  | logMerge (c : CmdId)
  | logMergeAutoStart
  | rowWriteLogResume
  | migrate (c : CmdId)
  | migrateSwitch (c : CmdId)
  | migrationWindowClose (window : Nat)
  | remoteRowRequest (p : Pkt)
  | remoteRequestStampRelease
  | remoteRowResponse (p : Pkt)
  /-- An add request for the 64-byte Cellar line at `addr` (R201). -/
  | nearMemoryAdd (c : CmdId) (addr : Nat) (isInt : Bool) (vals : List W) (check : AddCheck)
  | ermLoadWindow
  | tableWrite (c : CmdId)
  | tableStage (c : CmdId)
  | tableRebuild (c : CmdId)
  | tableSwitch (c : CmdId)
  | tableSwitchLockPoint (c : CmdId)
  | tableVersionRetire (c : CmdId)
  | rebuildMeterWindow
  | programRun (c : CmdId)
  | matmul (c : CmdId)
  | encode (c : CmdId)
  | sparseVerify (c : CmdId)
  | chainRun (c : CmdId)
  | genLoad (c : CmdId)
  | genSave (c : CmdId)
  /-- `space`: the output space of R137 item 2 is reserved; `idle`: the engine idle time in µs since the last
  presentation of the operation (R140). -/
  | operationIssue (c : CmdId) (op : Nat) (space : Bool) (idle : Nat)
  | operationComplete (c : CmdId) (op : Nat) (fault : Option OpFault)
  /-- `hall`: the Hall whose Weight Streamer fetched it (R258); `layer`: the layer's place in the program (0 for a MATMUL);
  `tensor`: the operand's index in the tensor table, or 0 and 1 for A and B;
  `tile`: its row and column. -/
  | weightTileFetch (c : CmdId) (hall layer tensor : Nat) (tile : Nat × Nat)
  | predictorRowBlock (c : CmdId) (layer mb : Nat)
  | slotLaunch (c : CmdId)
  /-- With the compare of the values formed as buffered contributions are added. -/
  | commit (c : Compared CmdId)
  | poison (c : CmdId)
  /-- With the compare of the values that this packet lets the Reduction Engine form. -/
  | contributionPacket (p : Compared Pkt)
  | commitLockPoint (c : CmdId)
  /-- `idx`: the shard's place in the command, with the compare of its new values. -/
  | twinTrialPassEnd (c : CmdId) (idx : Compared Nat)
  | twinDigestPacket (p : Pkt)
  | launchTimerFire
  /-- `differ`: how many of the two attempts at the segment had differing datapaths (R412). -/
  | applySegment (h : Nat) (differ : Nat)
  | efUpdate
  | parameterSegment (p : Pkt)
  | commitCompletion (c : CmdId)
  | timePpsInEdge
  | timePpsOutPulse
  | timeTransferTick (port : Nat)
  | timeTransferWord (port : Nat) (words : List W)
  | ptpMessage (m : PtpFrame)
  | tbReferenceLoss
  | holdoverLimitExpiry
  /-- `drift`: what Control Die B's oscillator has gained on Control Die A's since the latest compare, in ns; `present`:
  a reference is present; `off`: the reference minus STIME then (R87). -/
  | tbCopyCompare (drift : Int) (present : Bool) (off : Int)
  | tbCfgWrite (path : Path) (value : W)
  | tbStimeLoRead (path : Path)
  | ppCtlWrite (path : Path) (h : Nat) (value : W)
  | supplySlewDone (h : Nat)
  | thermalHoldEntry (h : Nat)
  | thermalHoldExit (h : Nat)
  | rateMonitorWindow (h : Nat) (rates : List Nat)
  | rateCtlClrMin (path : Path) (h : Nat) (value : W)
  /-- `tier` 3 or 4; `line`: the line number; `write`: a write reached the controller between the scrub's read
  and its write-back (R47); `last`: the line ends a pass over both stacks of its pair (R580). -/
  | scrubLine (tier line : Nat) (write last : Bool)
  | cellarZeroingLine (k : Nat)
  | ringCfgWrite (path : Path) (ring : Nat) (value : W)
  | cqCfgWrite (path : Path) (ring : Nat) (value : W)
  | cqStatusWrite (path : Path) (ring : Nat) (value : W)
  | hsStallCtlClr (path : Path) (h : Nat) (value : W)
  | smpCtlClr (path : Path) (h : Nat) (value : W)
  | ermLogCfgWrite (path : Path) (value : W)
  | ermCtlClr (path : Path) (value : W)
  | poolCfgWrite (path : Path) (pool : Nat) (value : W)
  | poolDisableComplete (pool : Nat)
  | ermVerCtlClr (path : Path) (value : W)
  | chkCtlClr (path : Path) (h : Nat) (value : W)
  | sprCtlClr (path : Path) (h : Nat) (value : W)
  | veCtlClr (path : Path) (h : Nat) (value : W)
  | redCtlClr (path : Path) (value : W)
  | fabCtlClr (path : Path) (value : W)
  | ckptCtlClr (path : Path) (value : W)
  | hallCtlClrTemp (path : Path) (h : Nat) (value : W)
  | hallCtlClrEcc (path : Path) (h : Nat) (value : W)
  | memCtlClr (path : Path) (value : W)
  | fabIdWrite (path : Path) (value : W)
  | portCfgWrite (path : Path) (port : Nat) (value : W)
  | hmLogCfgWrite (path : Path) (value : W)
  | rstCtlWarm (path : Path) (value : W)
  | testUnlockWrite (path : Path) (value : W)
  | testUnlockTimeout
  | testHallDelayWrite (path : Path) (h : Nat) (value : W)
  | testBpWrite (path : Path) (value : W)
  | testLaneErrWrite (path : Path) (value : W)
  | testEccInjWrite (path : Path) (value : W)
  | testChkInjWrite (path : Path) (value : W)
  | testTbOffsetWrite (path : Path) (value : W)
  /-- `img`: what the check of R560 finds in the image that host memory holds at BOOT.FW_ADDR. -/
  | fwCtlGo (path : Path) (value : W) (img : FwImage)
  | firmwareProgramDone (flashFailed : Bool)
  | fwCtlRaiseSvn (path : Path) (value : W)
  | registerWrite (path : Path) (off : Nat) (value : W)
  | bar0BadAccess (off : Nat) (isWrite : Bool)
  /-- `port` 0 or 1; `bytes`: the bytes written, or empty for a read of `len` bytes. -/
  | bar4Access (port off : Nat) (isWrite : Bool) (bytes : List Byte) (len : Nat)
  | configRequestInBoot (req : ConfigReq)
  | perstAssert (port : Nat)
  | functionLevelReset (port : Nat)
  | routeLoad (c : CmdId)
  | routeBankLoaded (bank : Nat)
  | routeSwitch (c : CmdId)
  | routeSwitchLockPoint (c : CmdId)
  | routeBankIdle (bank : Nat)
  | quench (c : CmdId)
  | xferSend (c : CmdId)
  | xferRecv (c : CmdId)
  | xferRequestPacket (p : Pkt)
  | xferReplyPacket (p : Pkt)
  | xferBusyRetry (c : CmdId)
  | xferWritePacket (p : Pkt)
  | cmapRead (c : CmdId)
  | cmapRequestPacket (p : Pkt)
  /-- With the credit that the next hops have returned (R459). -/
  | cmapWindow (sight : RouteSight)
  | portFence (c : CmdId)
  | packetRoute (p : Pkt) (source : RouteSource) (sight : RouteSight)
  | ackPacket (p : Pkt)
  | ackTimer (dst : Nat)
  | stepNotice (p : Pkt) (inPort : Option Nat)
  | tableVetoNotice (p : Pkt) (inPort : Option Nat)
  | routeVetoNotice (p : Pkt) (inPort : Option Nat)
  | jobAbortNotice (p : Pkt) (inPort : Option Nat)
  | quenchNotice (p : Pkt) (inPort : Option Nat)
  | pruneNotice (p : Pkt)
  | unreachableNotice (p : Pkt)
  | deliveryErrorNotice (p : Pkt)
  | fecUncorrectableCodeword (port flit : Nat)
  | flitReplayRequest (port flit : Nat)
  /-- `codewords`, `bad`: codewords received and uncorrectable ones in the window (R426). -/
  | linkErrorWindow (port codewords bad corrected : Nat)
  | opticalSignalChange (port : Nat) (present : Bool)
  | portTrainingDone (port : Nat) (lanes : BitVec 8) (peer peerPort : Nat)
  | portTrainingTimeout (port : Nat)
  | peerFenceSignal (port : Nat) (fenced : Bool)
  | modeSet (c : CmdId)
  | twinSet (c : CmdId)
  | hmSnapshot (c : CmdId)
  | perturb (c : CmdId)
  | healthMonitorEvaluation
  | buddySet (c : CmdId)
  | ckptPlan (c : CmdId)
  | ckptStart (c : CmdId)
  | ckptSegmentSend
  | ckptSegmentReceive (p : Pkt)
  | ckptGenerationCommit (p : Pkt)
  | restore (c : CmdId)
  | pkgReset (c : CmdId)
  | readmit (c : CmdId)
  | quiesce (c : CmdId)
  | resume (c : CmdId)
  | abortJob (c : CmdId)
  | quiesceTimeout
  | modResetNAssert (pin : ResetPin)
  | warmResetActionsDone
  | watchdogExpiry
  /-- `lost`: the die and slot of each flash slot that does not return what was programmed into it. -/
  | bootComplete (lost : List (Nat × Nat))
  | operatingSecondTick
  | aux3v3InRange
  | auxPgAssert
  | main48vAccept (volts10mV : Nat)
  | modPgRelease
  | main48vLoss
  | aux3v3Loss
  | thermalTrip (sensor : Nat)
  | thermalTripClear
  | overcurrentLatch
  /-- `volts`, `amps` in the units of R557, `watts` the 100 ms mean, `joules` the energy added, `sensors` the 44
  readings in 1/16 °C. -/
  | telemetryRefresh (volts amps watts joules : Nat) (sensors : List Int)
  | i3cDynamicAddress (a : I3cAssign)
  | i3cPrivateWrite (off : Nat) (bytes : List Byte)
  | i3cPrivateRead (len : Nat)
  | i3cIndirectGo (control : W)
  /-- `die` 0 or 1 of the chain; `code` 0 BYPASS, 1 IDCODE, 2 SAMPLE/PRELOAD, 3 EXTEST, 4 CLAMP, 5 HIGHZ, others
  private; `scan` the boundary-scan contents shifted in. -/
  | jtagInstruction (die code : Nat) (scan : List Bool)
  | noleugFrame (head : FrameHead) (packets : List (List W))
  | arpRequest (ip : W) (head : FrameHead)
  | mgmtFrameDrop
  | slotTriggerTimeout (c : CmdId)
  | buddyQueryRequest (p : Pkt)
  | buddyQueryResponse (p : Pkt)
  | restoreSegmentRequest (p : Pkt)
  | restoreSegmentResponse (p : Pkt)
  | cmapResponsePacket (p : Pkt)
  | remoteRowWrite (p : Pkt)
  /-- `entry`: the index entry of a table's row, or the row of the tensor that the operation reads rows of. -/
  | gatherRowFetchDone (c : CmdId) (op entry : Nat)
  /-- As WEIGHT_TILE_FETCH, within one Hall (R259). -/
  | tileMoveDone (c : CmdId) (hall layer tensor : Nat) (tile : Nat × Nat)
  | railOutOfRange
  | faultNRelease
  | perstDeassert (port : Nat)
deriving DecidableEq, Repr

end Sys2Proof
end

