-- ==== Sys2Proof/Machine/Flags.lean ====
section
/-! DEFINITION. The arithmetic flags of R70 and how they gather over a command (R70, R106). -/

namespace Sys2Proof.Machine

/-- The six sticky flags of R70, in the order of R106. -/
structure Flags where
  invalid   : Bool := false
  overflow  : Bool := false
  saturate  : Bool := false
  flush     : Bool := false
  nonFinite : Bool := false
  wrap      : Bool := false
deriving DecidableEq, Repr, Inhabited

/-- No flag set. -/
def Flags.zero : Flags := {}

/-- The flags of two pieces of work taken together (R70: the flags are sticky). -/
def Flags.or (a b : Flags) : Flags :=
  { invalid := a.invalid || b.invalid, overflow := a.overflow || b.overflow,
    saturate := a.saturate || b.saturate, flush := a.flush || b.flush,
    nonFinite := a.nonFinite || b.nonFinite, wrap := a.wrap || b.wrap }

def Flags.onlyInvalid   : Flags := { invalid := true }
def Flags.onlyOverflow  : Flags := { overflow := true }
def Flags.onlySaturate  : Flags := { saturate := true }
def Flags.onlyFlush     : Flags := { flush := true }
def Flags.onlyNonFinite : Flags := { nonFinite := true }
def Flags.onlyWrap      : Flags := { wrap := true }

/-- The six bits of the arith field: invalid is bit 5, wrap is bit 0 (R106, R111). -/
def Flags.bits (f : Flags) : Nat :=
  f.invalid.toNat * 32 + f.overflow.toNat * 16 + f.saturate.toNat * 8 + f.flush.toNat * 4 +
    f.nonFinite.toNat * 2 + f.wrap.toNat

/-- The flags gathered over a list. -/
def Flags.all : List Flags → Flags
  | [] => .zero
  | f :: fs => f.or (Flags.all fs)

end Sys2Proof.Machine
end

