-- ==== Sys2Proof/Machine/Fp.lean ====
section
/-! DEFINITION. The number formats of the device and their arithmetic (R48 to R70): exact values, rounding,
conversion, FP32 and BF16 operations, MXFP4 blocks, and the accumulation order of R63. -/

namespace Sys2Proof.Machine

/-- A number as the arithmetic rules see it: a NaN, an infinity, or (-1)^neg * m * 2^e with both zeros kept. -/
inductive Val where
  | nan
  | inf (neg : Bool)
  | fin (neg : Bool) (m : Nat) (e : Int)
deriving DecidableEq, Repr, Inhabited

namespace Fp

/-- m * 2^k, rounded toward zero where k is negative. -/
def scale (m : Nat) (k : Int) : Nat :=
  if 0 ≤ k then m * 2 ^ k.toNat else m / 2 ^ (-k).toNat

/-- Compares m1 * 2^e1 with m2 * 2^e2. -/
def cmpMag (m1 : Nat) (e1 : Int) (m2 : Nat) (e2 : Int) : Ordering :=
  let e := min e1 e2
  compare (scale m1 (e1 - e)) (scale m2 (e2 - e))

/-- How a rounding decides: to nearest with ties to even (R66), or by a 16-bit draw (R67). -/
inductive Mode where
  | nearest
  | stoch (r : Nat)
deriving DecidableEq, Repr

/-- Rounds m * 2^e to a multiple of 2^q by the mode (R66, R67). -/
def roundAt (mode : Mode) (q : Int) (m : Nat) (e : Int) : Nat × Int :=
  if q ≤ e then (m, e) else
    let k := (q - e).toNat
    let f := m / 2 ^ k
    let rem := m % 2 ^ k
    let up : Bool := match mode with
      | .nearest => decide (2 * rem > 2 ^ k) || (decide (2 * rem = 2 ^ k) && decide (f % 2 = 1))
      | .stoch r => decide (rem * 65536 / 2 ^ k + r ≥ 65536)
    (if up then f + 1 else f, q)

/-- The spacing exponent of a format with p significant bits at m * 2^e; `emin` is its smallest normal exponent,
none where the exponent has no lower bound (R57). -/
def spacing (p : Nat) (emin : Option Int) (m : Nat) (e : Int) : Int :=
  let q := e + Nat.log2 m - (p - 1 : Int)
  match emin with
  | none => q
  | some x => max q (x - (p - 1 : Int))

/-- The magnitude rounded in the precision of a format (R56). -/
def roundMag (mode : Mode) (p : Nat) (emin : Option Int) (m : Nat) (e : Int) : Nat × Int :=
  if m = 0 then (0, 0) else roundAt mode (spacing p emin m e) m e

/-- The parameters of a binary format: significant bits, smallest normal exponent, largest finite magnitude. -/
structure Shape where
  ebits : Nat
  mbits : Nat
  maxM  : Nat
  maxE  : Int
deriving Repr

def Shape.bias (s : Shape) : Int := 2 ^ (s.ebits - 1) - 1
def Shape.emin (s : Shape) : Int := 1 - s.bias
def Shape.prec (s : Shape) : Nat := s.mbits + 1

def fp32 : Shape := ⟨8, 23, 2 ^ 24 - 1, 104⟩
def bf16 : Shape := ⟨8, 7, 2 ^ 8 - 1, 120⟩
def fp16 : Shape := ⟨5, 10, 2 ^ 11 - 1, 5⟩
def e4m3 : Shape := ⟨4, 3, 14, 5⟩
def e5m2 : Shape := ⟨5, 2, 7, 13⟩

/-- Rounds an exact value to the precision and range of FP32, BF16 or FP16 (R54, R56, R66): a rounded magnitude
above the largest finite value becomes an infinity with the overflow flag. -/
def roundTo (s : Shape) (mode : Mode) : Val → Val × Flags
  | .fin neg m e =>
    let (m', e') := roundMag mode s.prec (some s.emin) m e
    if cmpMag m' e' s.maxM s.maxE = .gt then (.inf neg, .onlyOverflow) else (.fin neg m' e', .zero)
  | v => (v, .zero)

/-- The bits of a value that is exact in the shape (sign, exponent field, mantissa). -/
def pack (s : Shape) (neg : Bool) (m : Nat) (e : Int) : Nat :=
  let sgn := neg.toNat * 2 ^ (s.ebits + s.mbits)
  if m = 0 then sgn else
    let l : Int := Nat.log2 m
    if s.emin ≤ e + l then
      sgn + (e + l + s.bias).toNat * 2 ^ s.mbits + (scale m (s.mbits - l) - 2 ^ s.mbits)
    else sgn + scale m (e - (s.emin - s.mbits))

/-- The value of the bits of FP32, BF16 or FP16 (R48). -/
def unpack (s : Shape) (bits : Nat) : Val :=
  let neg := decide (bits / 2 ^ (s.ebits + s.mbits) % 2 = 1)
  let ex := bits / 2 ^ s.mbits % 2 ^ s.ebits
  let man := bits % 2 ^ s.mbits
  if ex = 2 ^ s.ebits - 1 then (if man = 0 then .inf neg else .nan)
  else if ex = 0 then .fin neg man (s.emin - s.mbits)
  else .fin neg (2 ^ s.mbits + man) (ex - s.bias - s.mbits)

/-- E4M3 has no infinity, one NaN mantissa, and reads a zero exponent field as zero (R48, R55). -/
def unpackE4M3 (bits : Nat) : Val :=
  let neg := decide (bits / 128 % 2 = 1)
  let ex := bits / 8 % 16
  let man := bits % 8
  if ex = 15 ∧ man = 7 then .nan
  else if ex = 0 then .fin neg 0 0
  else .fin neg (8 + man) (ex - 10)

/-- E5M2 reads a zero exponent field as zero (R55). -/
def unpackE5M2 (bits : Nat) : Val :=
  if bits / 4 % 32 = 0 then .fin (decide (bits / 128 % 2 = 1)) 0 0 else unpack e5m2 bits

/-- The E2M1 magnitudes in halves: 0, 0.5, 1, 1.5, 2, 3, 4, 6 (R48). -/
def e2m1Halves (code : Nat) : Nat :=
  match code % 8 with
  | 0 => 0 | 1 => 1 | 2 => 2 | 3 => 3 | 4 => 4 | 5 => 6 | 6 => 8 | _ => 12

/-- A decoded MXFP4 element: element * 2^(scale byte - 127), NaN under scale 0xFF (R48, R60). -/
def unpackMx (code scaleByte : Nat) : Val :=
  if scaleByte = 255 then .nan
  else .fin (decide (code / 8 % 2 = 1)) (e2m1Halves code) ((scaleByte : Int) - 128)

/-- A two's complement integer of w bits as a value. -/
def ofInt (i : Int) : Val := .fin (decide (i < 0)) i.natAbs 0

def signed (w bits : Nat) : Int :=
  let b := bits % 2 ^ w
  if b < 2 ^ (w - 1) then (b : Int) else (b : Int) - (2 ^ w : Nat)

/-- The width in bits of a format code's element (R48). -/
def width (fmt : Nat) : Nat :=
  match fmt with
  | 0 => 32 | 1 => 16 | 2 => 16 | 3 => 8 | 4 => 8 | 5 => 4 | 6 => 8 | _ => 32

/-- Decodes an element of a format; `sc` is the block's scale byte for MXFP4 (R48, R54, R55, R60). -/
def decode (fmt bits sc : Nat) : Val :=
  match fmt with
  | 0 => unpack fp32 bits
  | 1 => unpack bf16 bits
  | 2 => unpack fp16 bits
  | 3 => unpackE4M3 bits
  | 4 => unpackE5M2 bits
  | 5 => unpackMx bits sc
  | 6 => ofInt (signed 8 bits)
  | _ => ofInt (signed 32 bits)

/-- The canonical NaN of FP32, BF16 and FP16 (R48). -/
def canonNaN (s : Shape) : Nat := (2 ^ s.ebits - 1) * 2 ^ s.mbits + 2 ^ (s.mbits - 1)

/-- The bits of a value already rounded to FP32, BF16 or FP16 (R52: a NaN is canonical). -/
def encodeIeee (s : Shape) : Val → Nat
  | .nan => canonNaN s
  | .inf neg => neg.toNat * 2 ^ (s.ebits + s.mbits) + (2 ^ s.ebits - 1) * 2 ^ s.mbits
  | .fin neg m e => pack s neg m e

/-- Conversion to FP32, BF16 or FP16 (R56). -/
def toIeee (s : Shape) (mode : Mode) (v : Val) : Nat × Flags :=
  let (r, f) := roundTo s mode v
  (encodeIeee s r, f)

/-- Conversion to E4M3 or E5M2: rounded as if the exponent had no lower bound, then flushed or saturated
(R56, R57). -/
def toFp8 (isE4 : Bool) (mode : Mode) (v : Val) : Nat × Flags :=
  let s := if isE4 then e4m3 else e5m2
  match v with
  | .nan => (if isE4 then 0x7F else 0x7E, .zero)
  | .inf neg => if isE4 then (0x7F, .onlyInvalid) else (neg.toNat * 128 + 0x7C, .zero)
  | .fin neg m e =>
    let (m', e') := roundMag mode s.prec none m e
    if m' = 0 then (neg.toNat * 128, .zero)
    else if cmpMag m' e' 1 s.emin = .lt then (neg.toNat * 128, .onlyFlush)
    else if cmpMag m' e' s.maxM s.maxE = .gt then (pack s neg s.maxM s.maxE, .onlySaturate)
    else (pack s neg m' e', .zero)

/-- Conversion to a two's complement integer of w bits (R56, R61). -/
def toInt (w : Nat) (mode : Mode) (v : Val) : Nat × Flags :=
  let top := 2 ^ (w - 1) - 1
  let bot := 2 ^ (w - 1)
  match v with
  | .nan => (0, .onlyNonFinite)
  | .inf neg => (if neg then bot else top, .onlyNonFinite)
  | .fin neg m e =>
    let (m', e') := roundAt mode 0 m e
    let a := scale m' e'
    if neg then (if a > bot then (bot, .onlySaturate) else ((2 ^ w - a) % 2 ^ w, .zero))
    else if a > top then (top, .onlySaturate) else (a, .zero)

/-- The E2M1 code of a magnitude given in halves that E2M1 holds. -/
def e2m1Code (halves : Nat) : Nat :=
  match halves with
  | 0 => 0 | 1 => 1 | 2 => 2 | 3 => 3 | 4 => 4 | 6 => 5 | 8 => 6 | _ => 7

/-- One MXFP4 element for a block scale exponent: rounded to E2M1 and saturated to 6.0 (R56, R58). -/
def toE2M1 (mode : Mode) (se : Int) (neg : Bool) (m : Nat) (e : Int) : Nat × Flags :=
  let (m', e') := roundMag mode 2 (some 0) m (e - se)
  if cmpMag m' e' 6 0 = .gt then (neg.toNat * 8 + 7, .onlySaturate)
  else (neg.toNat * 8 + e2m1Code (scale m' (e' + 1)), .zero)

/-- floor(log2 (m * 2^e)). -/
def floorLog2 (m : Nat) (e : Int) : Int := e + Nat.log2 m

/-- The scale exponent of R58 for the block's largest magnitude. -/
def mxScaleExp (m : Nat) (e : Int) : Int := max (-127) (min 127 (floorLog2 m e - 2))

/-- The largest finite magnitude of a block. -/
def amax : List Val → Nat × Int
  | [] => (0, 0)
  | .fin _ m e :: vs => let (a, x) := amax vs; if cmpMag m e a x = .gt then (m, e) else (a, x)
  | _ :: vs => amax vs

def isNaN : Val → Bool
  | .nan => true
  | _ => false

def isInf : Val → Bool
  | .inf _ => true
  | _ => false

def isFinite : Val → Bool
  | .fin _ _ _ => true
  | _ => false

/-- Neither +0 nor -0. -/
def isZero : Val → Bool
  | .fin _ m _ => m == 0
  | _ => false

def isNeg : Val → Bool
  | .nan => false
  | .inf n => n
  | .fin n _ _ => n

/-- Encodes a block of MXFP4 elements with their rounding modes: element codes, scale byte, flags (R58). -/
def toMxBlock (vs : List (Val × Mode)) : List Nat × Nat × Flags :=
  let vals := vs.map (·.1)
  if vals.any isNaN then (vs.map fun _ => 0, 255, .zero)
  else if vals.any isInf then (vs.map fun _ => 0, 255, .onlyInvalid)
  else
    let (m, e) := amax vals
    if m = 0 then (vals.map fun v => (isNeg v).toNat * 8, 0, .zero)
    else
      let se := mxScaleExp m e
      let out := vs.map fun (v, mode) => match v with
        | .fin neg m e => toE2M1 mode se neg m e
        | _ => (0, .zero)
      (out.map (·.1), (se + 127).toNat, Flags.all (out.map (·.2)))

/-- Conversion to every format but MXFP4, which converts by blocks (R56). -/
def convert (fmt : Nat) (mode : Mode) (v : Val) : Nat × Flags :=
  match fmt with
  | 0 => toIeee fp32 mode v
  | 1 => toIeee bf16 mode v
  | 2 => toIeee fp16 mode v
  | 3 => toFp8 true mode v
  | 4 => toFp8 false mode v
  | 6 => toInt 8 mode v
  | _ => toInt 32 mode v

/-! ### Exact operations and FP32 (R62, R63, R69) -/

/-- The exact product; 0 times an infinity is NaN with the invalid flag (R62, R69). -/
def mulExact : Val → Val → Val × Flags
  | .nan, _ => (.nan, .zero)
  | _, .nan => (.nan, .zero)
  | .inf a, .inf b => (.inf (a != b), .zero)
  | .inf a, .fin b m _ => if m = 0 then (.nan, .onlyInvalid) else (.inf (a != b), .zero)
  | .fin a m _, .inf b => if m = 0 then (.nan, .onlyInvalid) else (.inf (a != b), .zero)
  | .fin a m e, .fin b n f => (.fin (a != b) (m * n) (e + f), .zero)

/-- A signed integer m as sign and magnitude, with the sign a zero takes. -/
def ofSigned (i : Int) (e : Int) (zeroNeg : Bool) : Val :=
  if i = 0 then .fin zeroNeg 0 0 else .fin (decide (i < 0)) i.natAbs e

/-- The exact sum: opposite infinities give NaN with the invalid flag; -0 is an identity (R63, R69). -/
def addExact : Val → Val → Val × Flags
  | .nan, _ => (.nan, .zero)
  | _, .nan => (.nan, .zero)
  | .inf a, .inf b => if a = b then (.inf a, .zero) else (.nan, .onlyInvalid)
  | .inf a, .fin _ _ _ => (.inf a, .zero)
  | .fin _ _ _, .inf b => (.inf b, .zero)
  | .fin a m e, .fin b n f =>
    let x := min e f
    let i : Int := (if a then -1 else 1) * (scale m (e - x) : Int)
    let j : Int := (if b then -1 else 1) * (scale n (f - x) : Int)
    (ofSigned (i + j) x (a && b), .zero)

/-- Rounds an exact result to a shape and joins the flags of both stages. -/
def rnd (s : Shape) (r : Val × Flags) : Val × Flags :=
  let (v, f) := roundTo s .nearest r.1
  (v, r.2.or f)

def addAt (s : Shape) (a b : Val) : Val × Flags := rnd s (addExact a b)
def mulAt (s : Shape) (a b : Val) : Val × Flags := rnd s (mulExact a b)

/-- a * b + c with one rounding; 0 times an infinity gives NaN whatever c is (R69). -/
def fmaAt (s : Shape) (a b c : Val) : Val × Flags :=
  let (p, f) := mulExact a b
  if isNaN c then (.nan, .zero) else
    let (r, g) := addExact p c
    rnd s (r, f.or g)

def add (a b : Val) : Val × Flags := addAt fp32 a b
def mul (a b : Val) : Val × Flags := mulAt fp32 a b
def fma (a b c : Val) : Val × Flags := fmaAt fp32 a b c

def neg : Val → Val
  | .nan => .nan
  | .inf n => .inf (!n)
  | .fin n m e => .fin (!n) m e

def abs : Val → Val
  | .nan => .nan
  | .inf _ => .inf false
  | .fin _ m e => .fin false m e

def sub (a b : Val) : Val × Flags := add a (neg b)

/-- The quotient of two finite values with a sticky last bit, enough for one later rounding of at most 40 bits. -/
def quoSticky (m : Nat) (e : Int) (n : Nat) (f : Int) : Nat × Int :=
  let k := 64 + Nat.log2 n
  let num := m * 2 ^ k
  (2 * (num / n) + (if num % n = 0 then 0 else 1), e - f - k - 1)

/-- Division before its rounding (R70: division by zero sets no flag of its own). -/
def divExact : Val → Val → Val × Flags
  | .nan, _ => (.nan, .zero)
  | _, .nan => (.nan, .zero)
  | .inf _, .inf _ => (.nan, .onlyInvalid)
  | .inf a, .fin b _ _ => (.inf (a != b), .zero)
  | .fin a _ _, .inf b => (.fin (a != b) 0 0, .zero)
  | .fin a m e, .fin b n f =>
    if n = 0 then (if m = 0 then (.nan, .onlyInvalid) else (.inf (a != b), .zero))
    else
      let (q, x) := quoSticky m e n f
      (.fin (a != b) q x, .zero)

def div (a b : Val) : Val × Flags := rnd fp32 (divExact a b)

/-- Integer square root, one bit at a time from bit k downward. -/
def isqrtFrom (n : Nat) : Nat → Nat → Nat
  | 0, r => r
  | k + 1, r => let c := r + 2 ^ k; isqrtFrom n k (if c * c ≤ n then c else r)

def isqrt (n : Nat) : Nat := isqrtFrom n (Nat.log2 n / 2 + 1) 0

/-- The square root of a positive m * 2^e with a sticky last bit. -/
def sqrtSticky (m : Nat) (e : Int) : Nat × Int :=
  let k : Int := 128 + (e % 2)
  let n := scale m k
  let r := isqrt n
  (2 * r + (if r * r = n then 0 else 1), (e - k) / 2 - 1)

/-- Square root before its rounding, correct to nearest even after it (R410). -/
def sqrtExact : Val → Val × Flags
  | .nan => (.nan, .zero)
  | .inf true => (.nan, .onlyInvalid)
  | .inf false => (.inf false, .zero)
  | .fin n m e =>
    if m = 0 then (.fin n 0 0, .zero)
    else if n then (.nan, .onlyInvalid)
    else let (r, x) := sqrtSticky m e; (.fin false r x, .zero)

def sqrt (a : Val) : Val × Flags := rnd fp32 (sqrtExact a)

/-- 1 / sqrt a before its rounding, with the special cases of R352. -/
def rsqrtExact : Val → Val × Flags
  | .nan => (.nan, .zero)
  | .inf true => (.nan, .onlyInvalid)
  | .inf false => (.fin false 0 0, .zero)
  | .fin n m e =>
    if m = 0 then (.inf n, .zero)
    else if n then (.nan, .onlyInvalid)
    else
      let k := 256 + Nat.log2 m
      let num := 2 ^ (2 * k)
      let mm := if e % 2 = 0 then m else 2 * m
      let ee := if e % 2 = 0 then e else e - 1
      let r := isqrt (num / mm)
      (.fin false (2 * r + (if r * r * mm = num then 0 else 1)) (-(ee / 2) - k - 1), .zero)

/-- The order of two values that are not NaN; -0 equals +0. -/
def cmp : Val → Val → Ordering
  | .inf a, .inf b => if a = b then .eq else if a then .lt else .gt
  | .inf a, _ => if a then .lt else .gt
  | _, .inf b => if b then .gt else .lt
  | .fin a m e, .fin b n f =>
    let x := min e f
    let i : Int := (if a then -1 else 1) * (scale m (e - x) : Int)
    let j : Int := (if b then -1 else 1) * (scale n (f - x) : Int)
    compare i j
  | _, _ => .eq

def lt (a b : Val) : Bool := !isNaN a && !isNaN b && cmp a b == .lt
def gt (a b : Val) : Bool := lt b a
def le (a b : Val) : Bool := !isNaN a && !isNaN b && cmp a b != .gt
def eq (a b : Val) : Bool := !isNaN a && !isNaN b && cmp a b == .eq

/-- minimum and maximum: a NaN in either operand gives NaN; -0 is less than +0 (R69). -/
def minV (a b : Val) : Val :=
  if isNaN a || isNaN b then .nan
  else match cmp a b with
    | .lt => a
    | .gt => b
    | .eq => if isNeg a then a else b

def maxV (a b : Val) : Val :=
  if isNaN a || isNaN b then .nan
  else match cmp a b with
    | .lt => b
    | .gt => a
    | .eq => if isNeg a then b else a

def negZero : Val := .fin true 0 0
def posZero : Val := .fin false 0 0
def one : Val := .fin false 1 0

/-- Row max of R69: NaN when any element is NaN; of no element, NaN. -/
def rowMax : List Val → Val
  | [] => .nan
  | [v] => v
  | v :: vs => maxV v (rowMax vs)

/-- The bits of a value held in FP32. -/
def bits32 (v : Val) : W := BitVec.ofNat 32 (encodeIeee fp32 v)

/-- The FP32 value of a word. -/
def of32 (w : W) : Val := unpack fp32 w.toNat

/-! ### The accumulation order of R63 -/

/-- One level of the pairwise tree. -/
def treeLevel : List Val → List Val × Flags
  | a :: b :: rest =>
    let (s, f) := add a b
    let (t, g) := treeLevel rest
    (s :: t, f.or g)
  | l => (l, .zero)

/-- n levels of the tree. -/
def treeLevels : Nat → List Val → List Val × Flags
  | 0, l => (l, .zero)
  | n + 1, l =>
    let (l', f) := treeLevel l
    let (r, g) := treeLevels n l'
    (r, f.or g)

/-- A list made 32 long with -0. -/
def pad32 (l : List Val) : List Val := (l ++ List.replicate (32 - l.length) negZero).take 32

/-- The sum of one chunk of at most 32 values by the fixed five-level tree (R63). -/
def chunkSum (l : List Val) : Val × Flags :=
  let (r, f) := treeLevels 5 (pad32 l)
  (r.headD negZero, f)

/-- The chunks of 32 of a list; the first argument is the number of chunks at most. -/
def chunks32 : Nat → List α → List (List α)
  | 0, _ => []
  | n + 1, l => if l.isEmpty then [] else l.take 32 :: chunks32 n (l.drop 32)

/-- Chunk sums added in ascending order onto an accumulator (R63). -/
def accChunks (acc : Val) : List (List Val) → Val × Flags
  | [] => (acc, .zero)
  | c :: cs =>
    let (s, f) := chunkSum c
    let (a, g) := add acc s
    let (r, h) := accChunks a cs
    (r, (f.or g).or h)

/-- The sum of a list in the order of R63, from a starting value. -/
def sumFrom (acc : Val) (l : List Val) : Val × Flags := accChunks acc (chunks32 (l.length / 32 + 1) l)

/-- Element products with their flags. -/
def products (a b : List Val) : List Val × Flags :=
  let ps := List.zipWith mulExact a b
  (ps.map (·.1), Flags.all (ps.map (·.2)))

/-- One output element: the dot product of a and b in the order of R63, from c. -/
def dotFrom (c : Val) (a b : List Val) : Val × Flags :=
  let (ps, f) := products a b
  let (s, g) := sumFrom c ps
  (s, f.or g)

/-- Sequential addition in ascending order, as R192 and R198 use. -/
def seqSum (acc : Val) : List Val → Val × Flags
  | [] => (acc, .zero)
  | v :: vs =>
    let (s, f) := add acc v
    let (r, g) := seqSum s vs
    (r, f.or g)

end Fp
end Sys2Proof.Machine
end

