-- ==== Sys2Proof/Config.lean ====
section
/-! DEFINITION. What the spec leaves open: constants without a body, so that no proof can see a value of one. Each is
named in the assumption log. -/

namespace Sys2Proof.Config

/-- Whether a unit whose error lies beyond the code's guarantee is found all the same (R43, R44): the unit's key and
its count of symbols or bits in error (assumption 7). -/
opaque eccFound : Nat → Nat → Bool

/-- What a byte of such a unit reads as when the error is not found (assumption 7). -/
opaque eccByte : Nat → Nat → Byte

/-- A value the spec calls undefined or does not state, drawn with the state's free counter (assumption 2). -/
opaque freeWord : Nat → W

/-- Whether an access to a host address goes through port B (assumption 28). -/
opaque hostPortB : Nat → Bool

/-- The via a Landing picks among those R441 allows (assumption 2). -/
opaque pick : Nat → Nat

/-- The bytes of the work descriptors that a command of these packet words releases (R104); their layout is internal to the
device (assumption 79). -/
opaque workBytes : List W → List Byte

/-- The INT32 word that an FP32 value adds into an INT32 destination where it is no integer: R198 widens the source exactly
and states no such sum (assumption 2). -/
opaque intWord : W → W

end Sys2Proof.Config
end

