-- ==== Sys2Proof/Machine/Codes.lean ====
section
/-! DEFINITION. The codes over bytes: CRC-32C of sparse metadata (R310), CRC-64 of twin digests (R481), SHA-256 of
checkpoint payloads (R524), and little-endian bytes (R9). -/

namespace Sys2Proof.Machine

/-- n little-endian bytes of a number (R9). -/
def leBytes : Nat → Nat → List Byte
  | 0, _ => []
  | n + 1, v => BitVec.ofNat 8 v :: leBytes n (v / 256)

/-- The number whose little-endian bytes these are (R9). -/
def ofLe : List Byte → Nat
  | [] => 0
  | b :: bs => b.toNat + 256 * ofLe bs

/-- The bytes of 32-bit words, word 0 at the lowest address (R9). -/
def wordBytes : List W → List Byte
  | [] => []
  | w :: ws => leBytes 4 w.toNat ++ wordBytes ws

/-- The 32-bit words of bytes; the first argument is how many. -/
def bytesWords : Nat → List Byte → List W
  | 0, _ => []
  | n + 1, bs => BitVec.ofNat 32 (ofLe (bs.take 4)) :: bytesWords n (bs.drop 4)

/-- Eight shifts of a reflected CRC-32 register. -/
def crcStep (poly : W) : Nat → W → W
  | 0, c => c
  | n + 1, c => crcStep poly n (if c &&& 1 = 0 then c >>> 1 else (c >>> 1) ^^^ poly)

/-- CRC-32C of RFC 3720: reflected 0x1EDC_6F41, initial value and final XOR all ones (R310). -/
def crc32c (bs : List Byte) : W :=
  ~~~(bs.foldl (fun c b => crcStep 0x82F63B78 8 (c ^^^ b.setWidth 32)) 0xFFFFFFFF)

/-- CRC-32 of IEEE 802.3: reflected, initial value and final XOR all ones (R431). -/
def crc32 (bs : List Byte) : BitVec 32 :=
  ~~~(bs.foldl (fun c b => crcStep 0xEDB88320 8 (c ^^^ b.setWidth 32)) 0xFFFFFFFF)

/-- Eight shifts of the CRC-64 register. -/
def crc64Step : Nat → BitVec 64 → BitVec 64
  | 0, c => c
  | n + 1, c => crc64Step n (if c.msb then (c <<< 1) ^^^ 0x42F0E1EBA9EA3693 else c <<< 1)

/-- CRC-64 of ECMA-182: initial value 0, no reflection, no final XOR (R481), folded onto a running value. -/
def crc64From (c : BitVec 64) (bs : List Byte) : BitVec 64 :=
  bs.foldl (fun c b => crc64Step 8 (c ^^^ ((b.setWidth 64 : BitVec 64) <<< (56 : Nat)))) c

/-- The two 32-bit words of a number, low word first. -/
def words64 (v : Nat) : List Nat := [v % 2 ^ 32, v / 2 ^ 32 % 2 ^ 32]

/-! ### SHA-256 and SHA-384 (R524 and R560 name them; FIPS 180-4 gives them, assumption 13) -/

/-- The primes below 410: FIPS 180-4 takes its constants from the roots of the first 64, and of the first 80. -/
def shaPrimes : List Nat :=
  (List.range 410).filter fun n => decide (1 < n) && (List.range 21).all fun d => decide (d < 2) || decide (n < d * d) || n % d != 0

/-- The largest number below 2^b beyond r whose k-th power is at most n times 2^(wk), bit by bit from the top. -/
def rootBits (w k n : Nat) : Nat → Nat → Nat
  | 0, r => r
  | b + 1, r => rootBits w k n b (if (r + 2 ^ b) ^ k ≤ n * 2 ^ (w * k) then r + 2 ^ b else r)

/-- The first w bits of the fractional part of the k-th root of a number below 512. -/
def rootWord (w k n : Nat) : BitVec w := BitVec.ofNat w (rootBits w k n (w + 5) 0)

/-- What the two hashes differ in: the number of rounds, the rotations of each of their four functions (of a schedule's
function the third is a shift), the constants of the rounds, and the first chaining value. -/
structure Sha (w : Nat) where
  rounds : Nat
  sum0   : Nat × Nat × Nat
  sum1   : Nat × Nat × Nat
  sig0   : Nat × Nat × Nat
  sig1   : Nat × Nat × Nat
  k      : List (BitVec w)
  h0     : List (BitVec w)

/-- SHA-256: cube roots of the first 64 primes, square roots of the first 8. -/
def shaSmall : Sha 32 :=
  { rounds := 64, sum0 := (2, 13, 22), sum1 := (6, 11, 25), sig0 := (7, 18, 3), sig1 := (17, 19, 10)
    k := (shaPrimes.take 64).map (rootWord 32 3), h0 := (shaPrimes.take 8).map (rootWord 32 2) }

/-- SHA-384: cube roots of the first 80 primes, square roots of the ninth to the sixteenth. -/
def shaLarge : Sha 64 :=
  { rounds := 80, sum0 := (28, 34, 39), sum1 := (14, 18, 41), sig0 := (1, 8, 7), sig1 := (19, 61, 6)
    k := shaPrimes.map (rootWord 64 3), h0 := ((shaPrimes.drop 8).take 8).map (rootWord 64 2) }

def shaSum {w : Nat} (r : Nat × Nat × Nat) (x : BitVec w) : BitVec w :=
  x.rotateRight r.1 ^^^ x.rotateRight r.2.1 ^^^ x.rotateRight r.2.2

def shaSig {w : Nat} (r : Nat × Nat × Nat) (x : BitVec w) : BitVec w :=
  x.rotateRight r.1 ^^^ x.rotateRight r.2.1 ^^^ (x >>> r.2.2)

/-- The message schedule: `n` more words after the 16 latest, oldest first. -/
def shaSchedule {w : Nat} (c : Sha w) : Nat → List (BitVec w) → List (BitVec w)
  | 0, _ => []
  | n + 1, l =>
    let x := l.getD 0 0 + shaSig c.sig0 (l.getD 1 0) + l.getD 9 0 + shaSig c.sig1 (l.getD 14 0)
    x :: shaSchedule c n (l.drop 1 ++ [x])

/-- One round over the eight working words. -/
def shaRound {w : Nat} (z : Sha w) (st : List (BitVec w)) (kw : BitVec w × BitVec w) : List (BitVec w) :=
  match st with
  | [a, b, c, d, e, f, g, h] =>
    let t1 := h + shaSum z.sum1 e + ((e &&& f) ^^^ (~~~e &&& g)) + kw.1 + kw.2
    let t2 := shaSum z.sum0 a + ((a &&& b) ^^^ (a &&& c) ^^^ (b &&& c))
    [t1 + t2, a, b, c, d + t1, e, f, g]
  | _ => st

/-- n words from bytes, the highest byte first. -/
def beWords (w : Nat) : Nat → List Byte → List (BitVec w)
  | 0, _ => []
  | n + 1, bs => BitVec.ofNat w (ofLe (bs.take (w / 8)).reverse) :: beWords w n (bs.drop (w / 8))

/-- One block of 16 words. -/
def shaBlock {w : Nat} (c : Sha w) (h : List (BitVec w)) (blk : List Byte) : List (BitVec w) :=
  let l := beWords w 16 blk
  let ws := l ++ shaSchedule c (c.rounds - 16) l
  List.zipWith (· + ·) h ((c.k.zip ws).foldl (shaRound c) h)

/-- `n` blocks. -/
def shaBlocks {w : Nat} (c : Sha w) : Nat → List (BitVec w) → List Byte → List (BitVec w)
  | 0, h, _ => h
  | n + 1, h, bs => shaBlocks c n (shaBlock c h (bs.take (2 * w))) (bs.drop (2 * w))

/-- A message filled to whole blocks of 2w bytes, with its length in bits in w / 4 bytes at the end. -/
def shaFill (w : Nat) (bs : List Byte) : List Byte :=
  bs ++ (0x80 : Byte) :: List.replicate ((4 * w - 1 - w / 4 - bs.length % (2 * w)) % (2 * w)) 0 ++
    (leBytes (w / 4) (8 * bs.length)).reverse

/-- The bytes of a message's digest. -/
def shaOf {w : Nat} (c : Sha w) (bs : List Byte) : List Byte :=
  let m := shaFill w bs
  (shaBlocks c (m.length / (2 * w)) c.h0 m).flatMap fun x => (leBytes (w / 8) x.toNat).reverse

/-- The 32-byte SHA-256 digest. -/
def sha256 (bs : List Byte) : List Byte := shaOf shaSmall bs

/-- The 48-byte SHA-384 digest. -/
def sha384 (bs : List Byte) : BitVec 384 := BitVec.ofNat 384 (ofLe ((shaOf shaLarge bs).take 48).reverse)

end Sys2Proof.Machine
end

