-- ==== Sys2Proof/Machine/Tab.lean ====
section
/-! DEFINITION. Sparse maps from numbers, kept in one canonical form: keys strictly rising, and no entry equal to what
an unlisted key reads as (the default, given as a function of the key). Memory, the register file and the other large
arrays of the machine are held this way. -/

namespace Sys2Proof.Machine

abbrev Tab (α : Type) := List (Nat × α)

/-- The entry of a key, or its default. -/
def Tab.get (d : Nat → α) : Tab α → Nat → α
  | [], k => d k
  | (j, a) :: t, k => if j = k then a else Tab.get d t k

/-- Entries of other keys only. -/
def Tab.del : Tab α → Nat → Tab α
  | [], _ => []
  | (j, a) :: t, k => if j = k then Tab.del t k else (j, a) :: Tab.del t k

/-- Puts an entry before the first larger key. -/
def Tab.ins : Tab α → Nat → α → Tab α
  | [], k, v => [(k, v)]
  | (j, a) :: t, k, v => if k < j then (k, v) :: (j, a) :: t else (j, a) :: Tab.ins t k v

/-- Sets a key: a value equal to the default removes the entry, so that equal maps are equal lists. -/
def Tab.put [DecidableEq α] (d : Nat → α) (t : Tab α) (k : Nat) (v : α) : Tab α :=
  if v = d k then Tab.del t k else Tab.ins (Tab.del t k) k v

/-- Every key of the list lies above `lo`, the keys rise strictly, and no entry is the default. -/
def Tab.above [DecidableEq α] (d : Nat → α) : Nat → Tab α → Bool
  | _, [] => true
  | lo, (j, a) :: t => decide (lo ≤ j) && decide (a ≠ d j) && Tab.above d (j + 1) t

/-- The canonical form. -/
def Tab.wf [DecidableEq α] (d : Nat → α) (t : Tab α) : Bool := Tab.above d 0 t

/-- Sets n keys from k on, in order, to the values of a list. -/
def Tab.puts [DecidableEq α] (d : Nat → α) (t : Tab α) (k : Nat) : List α → Tab α
  | [] => t
  | v :: vs => Tab.puts d (Tab.put d t k v) (k + 1) vs

/-- The n entries from k on. -/
def Tab.gets (d : Nat → α) (t : Tab α) (k : Nat) : Nat → List α
  | 0 => []
  | n + 1 => Tab.get d t k :: Tab.gets d t (k + 1) n

end Sys2Proof.Machine
end

