-- ==== Sys2Proof/Machine/State.lean ====
section
/-! DEFINITION. The state of the block: every register, memory, ring, table, engine and pin the spec gives the device,
as plain data, with the queue of waiting commands; the reasons a step can stop; the state right after reset. -/

namespace Sys2Proof.Machine

/-- Why the machine stops with a fault. -/
inductive Fault where
  /-- An access of the device to an address that its tier does not have (R39, R40, R127); `tier` is a code of R127.
  Raised where no rule checks the base register the address comes from. Safe: the spec gives no effect. -/
  | noSuchAddress (tier addr : Nat)
deriving DecidableEq, Repr

/-- Why a command has no meaning. -/
inductive Refusal where
  /-- The arm of a command that is not modelled. Raised by `exec` alone. Safe. -/
  | notModelled (mnemonic : String)
  /-- A private JTAG instruction while the test registers are unlocked (R559: the spec says that it acts and not what
  it does). Raised by `execJtagInstruction`. Safe. -/
  | privateJtag
deriving DecidableEq, Repr

/-- A flit (R424): its link sequence number of 12 bits, and which 64-byte part of a packet it carries. -/
structure Flit where
  num  : Nat
  pkt  : Pkt
  part : Nat
deriving DecidableEq, Repr

/-- What the device sends out of its pins and ports, newest first in the state. -/
inductive Out where
  /-- An MSI-X message (R98, R549, R550). -/
  | msix (port vector : Nat)
  /-- A status reply in a frame of the management port (R118). -/
  | replyFrame (dst : BitVec 48) (reply : List W)
  | arpReply (ip : W) (asker : BitVec 48)
  /-- A time-transfer word (R76). -/
  | timeWord (port : Nat) (words : List W)
  /-- A Delay_Req to the IEEE 1588 master (R74): over UDP or Layer 2, and its sequence number. -/
  | delayReq (udp : Bool) (seq : Nat)
  /-- A rising edge of TIME_PPS_OUT (R75). -/
  | ppsPulse (stime : Nat)
  /-- The value a register read returns (R565). -/
  | readData (value : W)
  /-- The completion of a BAR4 read (R553); `poisoned` is the EP bit. -/
  | bar4Data (port : Nat) (bytes : List Byte) (poisoned : Bool)
  /-- A BAR4 access completed with Unsupported Request (R553, R554). -/
  | unsupported (port : Nat)
  | configRetry (port : Nat)
  /-- A configuration request completes: a read's word, 0 for a write (R549, R554). -/
  | configDone (port : Nat) (value : W)
  /-- An in-band interrupt of the I3C target (R558). -/
  | ibi (code : Nat)
  | i3cData (bytes : List Byte)
  /-- A packet sent on a Stair port (R440). -/
  | packet (port : Nat) (p : Pkt)
  /-- A replay request or a replayed flit of a Stair link (R424). -/
  | flitRequest (port flit : Nat)
  /-- The flits sent again, from the one asked for to the latest (R424). -/
  | flitReplay (port : Nat) (flits : List Flit)
  /-- Credit that a Landing returns to the peer of a port, for a virtual channel, in 64-byte units (R425). -/
  | credit (port vc units : Nat)
  /-- The fence signal to the peer of a port (R426). -/
  | fenceSignal (port : Nat) (fenced : Bool)
  /-- What a JTAG instruction connects between TDI and TDO: the die and its data register. -/
  | jtagData (die : Nat) (bits : List Bool)
deriving DecidableEq, Repr

/-- What manufacture fuses into the part (R1, R2, R18 to R21, R564, R582). -/
structure Fuses where
  gradeB   : Bool := false
  stepping : Nat := 0
  /-- GALLERY_MAP.enable of each Hall (R21). -/
  galleryEnable : List Nat := List.replicate 16 0xFFFFF
  mac      : BitVec 48 := 0
  /-- Huaroth's manufacturer identity in IDCODE (R559). -/
  jtagId   : Nat := 0
  /-- The fused minimum security version (R560, R564). -/
  minSvn   : Nat := 0
  /-- The fused SHA-384 hash of the signing key (R560). -/
  keyHash  : BitVec 384 := 0
  /-- Huaroth's PCI vendor identity (R549). -/
  vendorId : Nat := 0
deriving DecidableEq, Repr

/-- A firmware image in a slot of a boot flash (R560): what its check finds, and its SHA-384 digest. -/
structure FlashImage where
  image  : FwImage
  digest : BitVec 384 := 0
deriving DecidableEq, Repr

/-- One block of memory the Command Processor read at acceptance (R124, R125): `pointer` is false for a block named by
a plain address; `failed` when the read met an error (R45, R124). -/
structure CapBlock where
  tier   : Nat
  addr   : Nat
  bytes  : List Byte
  failed : Bool := false
deriving DecidableEq, Repr

/-- The phases of an accepted command: at the checks of its chapter (R584), within a step alone; not yet run; waiting for its
instant with a launch timer (R85); run and not yet complete. -/
inductive Phase where
  | checking | accepted | armed | running
deriving DecidableEq, Repr

/-- The status of a reply with its two details (R109). -/
structure Status where
  code : Nat
  d0   : Nat := 0
  d1   : Nat := 0
deriving DecidableEq, Repr

/-- The engine of an operation (R12 level 3) or the unit that does it. -/
inductive EngineKind where
  | array | sparse | drain | vector | gather | sampler
  /-- The Hall Scheduler itself. -/
  | scheduler
deriving DecidableEq, Repr

/-- The work of one operation (R137): one engine's work on one output tile, named by its layer's place in the program
and its block numbers. -/
inductive OpKind where
  /-- A dense forward tile with its Drain pass: row block, column block (R251, R265). -/
  | fwd (layer mb nb : Nat)
  /-- A recompute operation of one saved tile (R274, R317). -/
  | recompute (layer mb nb : Nat)
  /-- A chunk operation of the recompute operation of a sparse layer (R317). -/
  | rechunk (layer mb nb kb : Nat)
  /-- The Drain pre-pass of dmode 2 over one dy tile (R279). -/
  | pre (layer mb nb : Nat)
  /-- A dense pair operation: dx tile (mb, ib) and the chunks mb of the dw tiles (ib, ·) (R276). -/
  | pair (layer mb ib : Nat)
  /-- A chunk operation of a sparse layer's forward tile (R317). -/
  | chunk (layer mb nb kb : Nat)
  /-- The Drain pass of a sparse layer's forward tile (R316). -/
  | drain (layer mb nb : Nat)
  /-- A backward triple's operation on the engine its weight tile's tag names (R318). -/
  | triple (layer mb ib nb : Nat)
  /-- A dw chunk that dw_full adds (R318). -/
  | dwFull (layer mb ib nb : Nat)
  /-- The Drain pass of a sparse layer's dx tile. -/
  | drainDx (layer mb ib : Nat)
  /-- What a walk of a layer does before its first output: dw starts from −0 (R280, R318), or y's zero map is cleared
  (R335). -/
  | init (layer : Nat) (bwd : Bool)
  /-- Operation n of a vector chain layer (R368). -/
  | chain (layer n : Nat) (bwd : Bool)
  /-- A gather layer's batch (R190), or its gradient rows (R196). -/
  | gather (layer : Nat) (bwd : Bool)
  /-- A scatter layer (R197): its batches one after another (R200). -/
  | scatter (layer : Nat) (bwd : Bool)
  | sample (layer : Nat)
  /-- One part of a contribution layer (R388). -/
  | contribution (layer : Nat)
  /-- One output tile of a MATMUL (R296). -/
  | matmul (mb nb : Nat)
deriving DecidableEq, Repr

inductive OpStage where
  | waiting | issued | done
deriving DecidableEq, Repr

/-- A row record fetched for a gather (R191): index entry, row, format, record bytes, accumulator aside. -/
structure Fetched where
  entry : Nat
  row   : Nat
  fmt   : Nat
  bytes : List Byte
deriving DecidableEq, Repr

/-- One operation of a running command. -/
structure Op where
  kind  : OpKind
  hall  : Nat := 0
  /-- The executing tile. -/
  tile  : Nat := 0
  unit  : EngineKind := .array
  /-- East 0, West 1, both 2. -/
  side  : Nat := 0
  stage : OpStage := .waiting
  /-- It has ended without its outputs (R473, R287). -/
  failed : Bool := false
  /-- Operand tiles that are not yet resident (R137 item 1): tensor index, tile row, tile column; and the mask bits of a
  row block (R332). -/
  needs : List (Nat × Nat × Nat) := []
  /-- Index entries of a gather whose rows are in the Store Room (R191). -/
  got   : List Fetched := []
  /-- The stamp of a gather layer (R243). -/
  stamp : Option Nat := none
  /-- Next source row of a scatter or of a gather's gradients (R200); the step of a contribution layer (R386). -/
  pos   : Nat := 0
  /-- Source rows of the batch in flight (R200). -/
  batch : Nat := 0
  /-- It draws from the generators of its tile (R363). -/
  draws : Bool := false
  /-- The unit of its command's progress marker that it belongs to. -/
  part  : Nat := 0
  /-- Its outputs lie on die, so that its unit does not count before the command completes (R113). -/
  onDie : Bool := false
  /-- Results that stay on die: chunk sums of dw that wait for an earlier chunk (R254), a result that a later operation of the
  walk takes (R274, R279, R316), or elements of an MXFP4 block that other operations complete (R586); a key and words. -/
  held  : List (Nat × List W) := []
  /-- Bytes reserved for its output in the Store Room and in the Banked Accumulator Buffer of its tile (R137 item 2). -/
  room  : Nat × Nat := (0, 0)
  /-- The index tensors of its gather or scatter layer have been read (R45). -/
  checked : Bool := false
  /-- Operand tiles that have arrived for it, which take space until their last reader completes (R138). -/
  tiles : List (Nat × Nat × Nat) := []
  /-- The sampler of its Hall that runs it (R159, R177). -/
  sampler : Nat := 0
deriving DecidableEq, Repr

/-- An accepted, uncompleted command. -/
structure Cmd where
  id     : CmdId
  opcode : Nat
  flags  : Nat := 0
  job    : Nat := 0
  /-- Words 0 to len of the packet (R99). -/
  words  : List W := []
  /-- Its place in the order of acceptance. -/
  order  : Nat := 0
  cap    : List CapBlock := []
  phase  : Phase := .accepted
  /-- STIME at acceptance. -/
  accAt  : Nat := 0
  /-- STIME at which its first work issued; 0 until then (R111). -/
  start  : Nat := 0
  /-- The instant in force for a scheduled command: T, moved by deferrals or slips (R382, R405). -/
  t      : Nat := 0
  total  : Nat := 1
  done   : Nat := 0
  arith  : Flags := {}
  ops    : List Op := []
  /-- A failure met while issued operations run on (R473, R287). -/
  failure : Option Status := none
  /-- A success status other than OK met on the way (R109, R167). -/
  result : Option Status := none
  /-- Numbers that the command's own chapter keeps while it runs, in the order its meaning states. -/
  aux    : List Nat := []
  /-- The source of a management-port packet (R118). -/
  frame  : Option (BitVec 48) := none
deriving DecidableEq, Repr

/-- What a command ring holds beside its registers (R93, R95, R101, R118). -/
structure RingX where
  expSet    : Bool := false
  prod      : W := 0
  /-- Accepted doorbells not yet consumed: arrival number and producer value. -/
  bells     : List (Nat × W) := []
  /-- Packets waiting from the management port with their frame's source. -/
  mgmt      : List (BitVec 48 × List W) := []
  /-- Sequence number of the command that completed most recently since enable (R103). -/
  lastDone  : Option Nat := none
deriving DecidableEq, Repr

/-- What a completion ring holds beside its registers (R93, R587). -/
structure CqX where
  prod : W := 0
  cons : W := 0
deriving DecidableEq, Repr

/-- The Command Processor's arbitration (R96) and lockstep compare (R105). -/
structure Arb where
  decodes  : Nat := 0
  /-- The ring served last in each class. -/
  last     : List Nat := List.replicate 8 4095
  arrivals : Nat := 0
  accepted : Nat := 0
  /-- STIME of the latest lockstep mismatch. -/
  mismatch : Option Nat := none
deriving DecidableEq, Repr

/-- What a Stair port keeps for time transfer (R76 to R78). -/
structure TimePort where
  /-- hops last reported by the peer; 15 when it has no time. -/
  hops   : Nat := 15
  txSeq  : Nat := 0
  /-- Departure times of the words sent, newest first. -/
  sent   : List (Nat × Nat) := []
  rxSeq  : Nat := 0
  rxAt   : Nat := 0
deriving DecidableEq, Repr

/-- The delay request-response exchange in progress (R74): sequence number, sending time and arrival of the latest Sync, and
departure and sequence number of the latest Delay_Req. -/
structure PtpX where
  syncSeq : Nat := 0
  t1      : Option Nat := none
  t2      : Nat := 0
  t3      : Option Nat := none
  reqSeq  : Nat := 0
deriving DecidableEq, Repr

/-- The time base (R71 to R91) beside TB.CFG and TB.STATUS. -/
structure Tb where
  /-- Control Die A's STIME, in ns. -/
  stime    : Nat := 0
  /-- Control Die B's copy (R72). -/
  bStime   : Nat := 0
  epoch    : Bool := false
  /-- ns by which STIME still leads its reference under the hold of R71. -/
  hold     : Option Nat := none
  /-- A value loaded for role 1 that waits for the next edge (R73). -/
  loaded   : Option Nat := none
  /-- A STIME has been loaded in the present role (R73). -/
  given    : Bool := false
  /-- Correction still to be made by rate (R79), in ns. -/
  slew     : Int := 0
  /-- The part of TEST.TB_OFFSET still to be made by rate (R494). -/
  skew     : Int := 0
  /-- ns since the latest 1 ns correction. -/
  slewClock : Nat := 0
  /-- The same two of Control Die B's copy. -/
  bSlew    : Int := 0
  bClock   : Nat := 0
  /-- What R87 still brings Control Die A's copy to Control Die B's, and Control Die B's to A's, and the ns left of the 1 ms
  that it has for it. -/
  pull     : Int := 0
  bPull    : Int := 0
  pullNs   : Nat := 0
  /-- The whole second of the latest TIME_PPS_OUT edge (R75). -/
  pps      : Option Nat := none
  /-- The exchange with the master in role 2 (R74). -/
  ptp      : PtpX := {}
  /-- Consecutive intervals within ±1 ns, and beyond ±3 ns (R80). -/
  good     : Nat := 0
  bad      : Nat := 0
  /-- The latest offsets, newest first, at most 16 (R79). -/
  offs     : List Int := []
  /-- STIME at the entry into HOLDOVER. -/
  holdoverAt : Nat := 0
  /-- The epoch base in use (R91). -/
  epochBase : Nat := 0
  ports    : List TimePort := List.replicate 48 {}
deriving DecidableEq, Repr

/-- One record of Safety state: Health Monitor windows, test sequence (R486 to R493). -/
structure Safe where
  /-- Corrected errors, retrains, mismatches and fault events of the window in progress (inputs 0, 1, 4, 6). -/
  win0 : Nat := 0
  win1 : Nat := 0
  win4 : Nat := 0
  win6 : Nat := 0
  /-- The same four over the latest completed 1 s window. -/
  lat0 : Nat := 0
  lat1 : Nat := 0
  lat4 : Nat := 0
  lat6 : Nat := 0
  winAt : Nat := 0
  /-- STIME at which input 5 restarted. -/
  ckptAt : Nat := 0
  /-- A checkpoint request waits for the next COMMIT's completion (R488). -/
  ckptReq : Bool := false
  unlockPath : Option Path := none
  unlockAt : Nat := 0
  /-- The scores of the latest evaluation (R486, R495). -/
  scores : List Nat := List.replicate 8 0
  /-- Consecutive slips of each slot stream since the last launch (R146): stream and count. -/
  slips : List (Nat × Nat) := []
deriving DecidableEq, Repr

/-- What an entry to QUIESCED or RESETTING that R513 holds will be. -/
inductive HeldEntry where
  /-- Quiesce with its qcause code (R533) and the QUIESCE command that waits. -/
  | quiesce (qcause : Nat) (cmd : Option CmdId)
  /-- Warm reset with its cause code. -/
  | reset (cause : Nat)
  /-- Abort of a job by an ABORT_JOB. -/
  | abort (job : Nat) (cmd : CmdId)
deriving DecidableEq, Repr

/-- An entry of the abort record: the job, and the package and STIME of the abort (R510). -/
structure AbortRec where
  job    : Nat
  origin : Nat
  at_    : Nat
deriving DecidableEq, Repr

/-- Reset, retirement and job aborts (R499 to R513). -/
structure Rst where
  /-- The abort record (R510, R512). -/
  jobs     : List AbortRec := []
  retired  : Bool := false
  /-- The operating-second counts of the counted resets, newest first (R507). -/
  history  : List Nat := []
  opsec    : Nat := 0
  /-- The count as last written to the system area (R507, R544). -/
  opsecSaved : Nat := 0
  held     : List HeldEntry := []
  /-- The watchdogs of R506: Control Die B's, then Control Die A's. -/
  wdB      : Bool := false
  wdA      : Bool := false
  /-- The operating-second count at which the armed watchdog's period is over. -/
  wdDue    : Nat := 0
  /-- STIME of the entry to QUIESCED. -/
  quiesceAt : Nat := 0
  /-- The entry to QUIESCED set the quench of scope 0. -/
  ownQuench : Bool := false
  /-- Issue is stopped in every Hall Scheduler (R502). -/
  stopped  : Bool := false
  /-- The BOOT in progress follows a warm reset. -/
  warmBoot : Bool := false
  /-- The Hall power stages are disabled (R506, R542). -/
  hallsOff : Bool := false
  /-- STIME at which a pin reset began to wait (R513). -/
  pinHeld  : Option Nat := none
  /-- HM.LOG_BASE, LOG_CFG, LOG_PROD and LOG_CONS as the warm reset in progress found them (R504). -/
  log      : List W := []
deriving DecidableEq, Repr

/-- The module's supplies, pins, host ports, management and I3C (R539 to R564). -/
structure Board where
  auxOk    : Bool := true
  auxPg    : Bool := true
  accepted : Bool := true
  modPg    : Bool := true
  railsOk  : Bool := true
  trip     : Bool := false
  tripSensor : Nat := 255
  faultN   : Bool := false
  /-- MAIN_48V latched off by the input stage (R547). -/
  latchedOff : Bool := false
  resetN   : Bool := true
  /-- PERST_x_N of each port is deasserted (R550, R561). -/
  perst    : List Bool := [true, true]
  /-- The link of each port is up. -/
  linkUp   : List Bool := [true, true]
  /-- Configuration space of both ports, keyed by port times 4,096 plus offset (R549 to R551). -/
  config   : Tab W := []
  /-- Configuration requests are served (R554). -/
  configOk : Bool := false
  /-- no_image was set in a BOOT after a power-on (R554, R560). -/
  romServes : Bool := false
  i3cAddr  : Option (BitVec 7) := none
  i3cOff   : Nat := 0
  /-- The telemetry bytes at 0x004 to 0x077 and the indirect words at 0x100 (R557). -/
  telem    : Tab Byte := []
  energy   : Nat := 0
  /-- The hottest junction has reached 100 °C and has not been below 95 °C since (R558). -/
  hot      : Bool := false
  /-- The latest readings of the 44 sensors in 1/16 °C. -/
  sensors  : List (Option Int) := List.replicate 44 none
  /-- The instruction loaded in each die's TAP. -/
  jtag     : List Nat := [1, 1]
  /-- The boundary registers' contents: die and bits. -/
  boundary : List (Nat × List Bool) := []
  /-- The two firmware slots of each die's boot flash as last programmed (R560). -/
  flash    : List (List (Option FlashImage)) := List.replicate 2 [some ⟨⟨0, true, 0⟩, 0⟩, none]
  /-- The image being programmed, its slot. -/
  staged   : Option (FlashImage × Nat) := none
deriving DecidableEq, Repr

/-- A Hall's parts that no register shows. -/
structure HallX where
  /-- The supply in mV (R27, R29). -/
  supply : Nat := 720
  /-- Edge entries read below one unit of SMP.EDGES_READ (R179). -/
  edgeRem : Nat := 0
deriving DecidableEq, Repr

/-- What a Stair port keeps beside its registers (R424, R426). -/
structure PortX where
  signal     : Bool := false
  peerFenced : Bool := false
  /-- The latest 1,024 flits sent, oldest first (R424). -/
  kept       : List Flit := []
  /-- Replays of the flits not yet through: flit number and count. -/
  replays    : List (Nat × Nat) := []
  /-- STIME of the retrains of the latest 10 s. -/
  retrains   : List Nat := []
  /-- Corrected codewords below one unit of PORT_FEC_CORR. -/
  fecCorr    : Nat := 0
  /-- The link sequence number of the next flit sent (R424). -/
  flits      : Nat := 0
  /-- Of the congestion-map window in progress (R459): bytes sent and received, the peak of the pool in 64-byte units, and via
  routes begun here. -/
  sent       : Nat := 0
  recv       : Nat := 0
  peak       : Nat := 0
  vias       : Nat := 0
  /-- Of the same window: the ns that a packet of class 0, 1, 2, 3 has waited for credit. -/
  wait       : List Nat := [0, 0, 0, 0]
deriving DecidableEq, Repr

/-- A transfer request held for its receive (R452): sender, tag, format, byte count, and the sending command. -/
structure HeldXfer where
  src   : Nat
  tag   : W
  fmt   : Nat
  bytes : Nat
  ring  : Nat
  seq   : Nat
  job   : Nat
deriving DecidableEq, Repr

/-- The record a port Landing latches at the end of a congestion-map window (R459 words 1 to 7). -/
structure CmapRec where
  state   : Nat
  sentKiB : Nat
  recvKiB : Nat
  wait    : List Nat
  peak    : Nat
  vias    : Nat
deriving DecidableEq, Repr, Inhabited

/-- A WRITE or RESPONSE sent and not yet acknowledged (R448): its destination, its command, and how many fenced packets to
that destination it has gone ahead of. -/
structure Unacked where
  dst   : Nat
  cmd   : CmdId
  after : Nat := 0
deriving DecidableEq, Repr

/-- The package's fabric (R423 to R461) beside its registers. -/
structure Fab where
  ports     : List PortX := List.replicate 48 {}
  /-- Port sets and unicast entries of both banks as held on die (R439): the image's first 8,768 bytes. -/
  banks     : List (List Byte) := [[], []]
  /-- Packets waiting for injection, first in, first out. -/
  outq      : List Pkt := []
  /-- Packets in the input buffers of the Stair ports, in the order of their arrival: port and packet (R432). -/
  inq       : List (Nat × Pkt) := []
  /-- The weighted round robin of each output (R434): the class whose turn it is and the packets left in the turn. -/
  turns     : Tab (Nat × Nat) := []
  /-- Packets delivered in this package that their receiver has not yet taken. -/
  inbox     : List Pkt := []
  /-- Flooded notices lately received: source, notice number, STIME (R454, assumption 33). -/
  seen      : List (Nat × Nat × Nat) := []
  noticeSeq : Nat := 0
  /-- STIME of the notices injected in the latest 10 µs (R455). -/
  noticeAt  : List Nat := []
  /-- Deliveries not yet acknowledged: source, count, STIME of the first (R447). -/
  ackDue    : List (Nat × Nat × Nat) := []
  /-- WRITE and RESPONSE packets sent and not acknowledged, oldest first (R448). -/
  unacked   : List Unacked := []
  held      : List HeldXfer := []
  /-- Pruned branches of a command's multicast: command, package, port (R451). -/
  prunes    : List (CmdId × Nat × Nat) := []
  /-- Prune notices this package has returned: source, ring, seq and port (R450). -/
  pruneSent : List (Nat × Nat × Nat × Nat) := []
  /-- The candidate-via counter of each Landing (R441). -/
  vias      : Tab Nat := []
  /-- The credit of each virtual channel of each link (R425), keyed by 8 times the port plus the channel: what is free, and what
  the packets sent hold, in 64-byte units. -/
  credit    : Tab (Nat × Nat) := []
  /-- Copies of flooded notices that wait for credit of a port (R433, R454). -/
  floods    : List (Nat × Pkt) := []
  /-- Buffers of the input ports that are free again and whose credit the Landing withholds (R494): port and packet. -/
  owed      : List (Nat × Pkt) := []
  /-- Packets delivered whose contents are not yet complete (R429). -/
  pieces    : List Pkt := []
  /-- A packet waits for credit (R459): port, class, STIME since when. -/
  waits     : List (Nat × Nat × Nat) := []
  /-- Each routing bank's lock (R446). -/
  locks     : List Bool := [false, false]
  cmap      : List CmapRec := List.replicate 48 default
  cmapAt    : Nat := 0
  cmapLen   : Nat := 0
  /-- The package fences its own ports (R426, R502). -/
  selfFence : Bool := false
  /-- Route vetoes lately sent or received (R446): job tag, bank and STIME. -/
  vetoes    : List (Nat × Nat × Nat) := []
  /-- Quenched in scope 0, and in scope 2 (R456). -/
  quench0   : Bool := false
  quench2   : Bool := false
deriving DecidableEq, Repr

/-- One step of a job entry (R406): its poison events as STIME and package, its defers, its outcome. -/
structure StepRec where
  step      : Nat
  poisons   : List (Nat × Nat) := []
  reason    : Nat := 0
  defers    : Nat := 0
  committed : Bool := false
deriving DecidableEq, Repr

/-- A job entry of the poison and defer state (R407). -/
structure JobEntry where
  job   : Nat
  steps : List StepRec := []
  /-- STIME of its latest step notice, and of its latest use. -/
  noticeAt : Option Nat := none
  usedAt   : Nat := 0
deriving DecidableEq, Repr

/-- A buffered part of a contribution (R396). Its elements lie in the buffer region, or are kept here where the region has no
room for the lowest rank not yet added. -/
structure PartRec where
  job   : Nat
  step  : Nat
  shard : Nat
  rank  : Nat
  part  : Part
  /-- Where its elements lie, from the region's base on. -/
  place : Option Nat := none
deriving DecidableEq, Repr

/-- The reduction of one shard of an accepted COMMIT (R395 to R398). The running sum of a dense shard lies in memory; the
row table of an embedding shard, whose layout the spec does not give, is kept here. -/
structure ShardRun where
  job   : Nat
  step  : Nat
  shard : Nat
  /-- The COMMIT, and the position in its shard table. -/
  cmd   : CmdId
  pos   : Nat
  /-- Expected ranks dealt with so far, from the lowest. -/
  added : Nat := 0
  /-- How many of them nf_policy 1 left out. -/
  skipped : Nat := 0
  /-- The row table, in order of creation: row and elements. -/
  rows  : List (Nat × List W) := []
  /-- Every expected contribution has been added and the sum checked. -/
  formed : Bool := false
  /-- Records received of rows that have moved to another package. -/
  got   : List Fetched := []
  /-- The owner's digest, and the partner's (R481, R482). -/
  own   : Option (BitVec 64) := none
  peer  : Option (BitVec 64) := none
  /-- The bytes of the new values the apply has written, by segment or row-table entry (R484). -/
  written : Tab (List Byte) := []
deriving DecidableEq, Repr

/-- A pending error-feedback update (R393). -/
structure EfRec where
  job   : Nat
  step  : Nat
  shard : Nat
  /-- The ef tensor's descriptor. -/
  ef    : List W
  mbuf  : Nat
  rlog  : Nat
  ks    : Nat
  ns    : Nat
  /-- The generator seed that its sketch was formed from (R391). -/
  seed  : BitVec 64 := 0
  /-- Its step has committed, so the update is due. -/
  due   : Bool := false
deriving DecidableEq, Repr

/-- A multicast copy that has an outstanding writer (R413): job, step, group, address, segments arrived, segments expected. -/
structure CopyWait where
  job   : Nat
  step  : Nat
  group : Nat
  addr  : Nat
  got   : List Nat := []
  want  : Nat
deriving DecidableEq, Repr

/-- An apply a Reduction Engine carries out (R409 to R412): the COMMIT it belongs to as captured, and how far it is. -/
structure ApplyRun where
  engine : Nat
  cmd    : Cmd
  /-- Shard table positions this engine still applies, in order; the segment in progress of the first. -/
  todo   : List Nat
  seg    : Nat := 0
  /-- Address of its apply record; the slot follows. -/
  recAt  : Nat
  /-- The slot holds the new values of the segment, of which so many rows are in place. -/
  slot   : Bool := false
  at_    : Nat := 0
  /-- The row write at that place waits for log space, and ERM.LOG_STALL has counted it (R223). -/
  stalled : Bool := false
  /-- The generator seed at T, from which the sketch of a ctype 1 shard comes (R391, R411). -/
  seed   : BitVec 64 := 0
deriving DecidableEq, Repr

/-- Reduction, commit and slot streams (R376 to R414). -/
structure Red where
  /-- STIME and package of the poison event that RED.LAST_POISON shows (R10, R418). -/
  lastPoison : Nat × Nat := (0, 0)
  jobs    : List JobEntry := []
  parts   : List PartRec := []
  /-- Digests received ahead of their shard's run: job, step, shard, digest (R482). -/
  digests : List (Nat × Nat × Nat × BitVec 64) := []
  shards  : List ShardRun := []
  efs     : List EfRec := []
  copies  : List CopyWait := []
  /-- The shift of each slot stream, in ns (R380), and the T of the latest slot accepted in it (R379). -/
  shifts  : Tab Nat := []
  slotT   : Tab Nat := []
  applies : List ApplyRun := []
deriving DecidableEq, Repr

/-- What a table handle is (R228, R242). -/
inductive HRole where
  | main
  | staging (main : Nat)
  | follow (main : Nat)
deriving DecidableEq, Repr

/-- An open table handle (R180, R228). -/
structure Handle where
  n       : Nat
  /-- The table descriptor's copy; of a following handle, its main handle's counts. -/
  desc    : List W
  role    : HRole := .main
  /-- A staging handle's TABLE_STAGE has completed (R237). -/
  built   : Bool := false
  /-- A staging handle locked by the scheduled TABLE_SWITCH of a ring (R239). -/
  locked  : Option Nat := none
  /-- STIME from which the version is in force. -/
  since   : Nat := 0
deriving DecidableEq, Repr

/-- A retiring version of a main handle (R242, R245): its descriptor, the STIMEs between which it was in force, and the
TABLE_SWITCH that waits for its retirement. -/
structure Retiring where
  main  : Nat
  desc  : List W
  since : Nat
  until_ : Nat
  cmd   : CmdId
deriving DecidableEq, Repr

/-- An open migration window (R209 to R213). -/
structure Win where
  /-- The MIGRATE. -/
  cmd     : CmdId
  /-- The main handle, and the directory's base of the version it belongs to. -/
  handle  : Nat
  dir     : Nat
  row     : Nat
  /-- The target package of a remote target. -/
  remote  : Option Nat := none
  /-- Tier code and address of the new copy of a local target. -/
  tier    : Nat := 3
  addr    : Nat := 0
  fmt     : Nat := 0
  /-- The MIGRATE_SWITCH that has switched the pointer; tier code and address of the old copy. -/
  moved   : Option CmdId := none
  oldTier : Nat := 3
  oldAddr : Nat := 0
deriving DecidableEq, Repr

/-- A guest row held for another package (R209). -/
structure Guest where
  handle : Nat
  row    : Nat
  version : Nat
  fmt    : Nat
  bytes  : List Byte
  /-- Its heat (R194, R195). -/
  heat   : Nat := 0
deriving DecidableEq, Repr

/-- A table veto sent or received (R240): job tag, main handle, new version and STIME. -/
structure Veto where
  job     : Nat
  main    : Nat
  version : Nat
  at_     : Nat
deriving DecidableEq, Repr

/-- An add request on its way to a near-memory add unit (R201). -/
structure AddReq where
  cmd  : CmdId
  op   : Nat
  addr : Nat
  isInt : Bool
  vals : List W
deriving DecidableEq, Repr

/-- The Embedding Row Manager beside its registers (R180 to R250). -/
structure Erm where
  handles  : List Handle := []
  retiring : List Retiring := []
  wins     : List Win := []
  guests   : List Guest := []
  /-- Bytes appended to the log and freed from it, free running; records pending; next log sequence number. -/
  logHead  : Nat := 0
  logTail  : Nat := 0
  logCount : Nat := 0
  lseq     : Nat := 0
  adds     : List AddReq := []
  /-- Remote requests held for their stamp (R244). -/
  heldReq  : List Pkt := []
  /-- Forwarded row writes that wait for log space or a record (R202, R206), each with whether its wait for log space has been
  counted (R223). -/
  heldRows : List (Pkt × Bool) := []
  /-- Descriptors of closed tables: the entries of their directories still name their records (R186). -/
  closed   : List (List W) := []
  /-- Table vetoes lately sent or received (R240). -/
  vetoes   : List Veto := []
  /-- Requests served for other packages in the load window in progress (R222), and the STIME at which it began. -/
  served   : Nat := 0
  loadAt   : Nat := 0
  /-- STIME at which the meter window in progress began (R236). -/
  meterAt  : Nat := 0
  /-- Rebuild bytes left in this meter window for each resource held under R236. -/
  budget   : List (Nat × Nat) := []
  /-- Pools whose disabling waits (R225). -/
  closing  : List Nat := []
deriving DecidableEq, Repr

/-- A checkpoint plan as CKPT_PLAN copied it (R521). -/
structure CkPlan where
  words  : List W
  shards : List (List W)
  efs    : List (List W)
deriving DecidableEq, Repr

/-- One segment of a stream (R523, R527): type, item, offset and length in bytes; for type 4 the offset is the first
local row and the length the number of rows. -/
structure CkSeg where
  type : Nat
  item : Nat
  off  : Nat
  len  : Nat
deriving DecidableEq, Repr

/-- A committed generation, as its holder keeps it (R526, R527). -/
structure CkGen where
  job    : Nat
  gen    : Nat
  step   : Nat
  ward   : Nat
  nextMb : Nat
  stime  : Nat
  entries : List CkEntry
  /-- Address of its manifest in the holder's Deep Cellar (R526). -/
  at_    : Nat := 0
deriving DecidableEq, Repr

/-- A running checkpoint stream (R522 to R526). -/
structure CkStream where
  cmd   : Option CmdId
  full  : Bool
  step  : Nat
  job   : Nat
  nextMb : Nat
  stime : Nat
  /-- The share of resource 0x0020 it claims (R520). -/
  share : Nat
  /-- Segments not yet read. -/
  todo  : List CkSeg
  /-- Entries sent, newest first. -/
  sent  : List CkEntry := []
  /-- Records received of rows that have moved to another package. -/
  got    : List Fetched := []
  /-- The manifest has been sent. -/
  closed : Bool := false
deriving DecidableEq, Repr

/-- A RESTORE in progress (R528, R529). -/
structure CkRestore where
  cmd    : CmdId
  ward   : Nat
  holder : Nat
  man    : Option CkGen := none
  /-- Segments not yet received, in the order in which they are asked for. -/
  todo   : List Nat := []
  plan   : Option CkPlan := none
  /-- The boundary slot as received (R529). -/
  boundary : List Byte := []
deriving DecidableEq, Repr

/-- Checkpoints (R514 to R530) beside the CKPT registers. -/
structure Ck where
  plan    : Option CkPlan := none
  stream  : Option CkStream := none
  /-- Generations this package has made as a ward. -/
  gens    : Nat := 0
  /-- The latest generation's entries, which a range that is not sent keeps (R523). -/
  last    : List CkEntry := []
  restore : Option CkRestore := none
  /-- A BUDDY_SET that waits for its answer (R519). -/
  asking  : Option CmdId := none
  /-- As a holder: the committed generations of the ward, newest first, and the entries of the one in progress. -/
  held    : List CkGen := []
  coming  : List CkEntry := []
deriving DecidableEq, Repr

structure State where
  /-- The commands waiting at the block's outside, first in, first out. -/
  pending  : List Instr := []
  /-- A fault an operation of this step met; `none` between steps. -/
  trap     : Option Fault := none
  /-- The model's own counter of free values drawn (assumption 2). -/
  free     : Nat := 0
  out      : List Out := []
  fuses    : Fuses := {}
  /-- The register file, keyed by BAR0 offset (R572). -/
  regs     : Tab W := []
  /-- Per-port registers (R570), keyed by port times 2^26 plus offset. -/
  portRegs : Tab W := []
  /-- Every byte of the tiers of R39, keyed by tier code times 2^64 plus the address in the form of R127. -/
  mem      : List Host.Cell := []
  /-- Bits or symbols in error of each protected unit (R43, R44), keyed as memory by the unit's first byte. -/
  errs     : Tab Nat := []
  /-- Next line to zero of each Cellar stack (R562); 2^31 when the stack is done. -/
  zeroAt   : Tab Nat := []
  /-- Bytes written to each Deep Cellar stack (R579). -/
  wear     : Tab Nat := []
  /-- Seconds since the latest complete scrub pass of each pair (R580). -/
  scrubAge : Tab Nat := []
  /-- Lines the Embedding Row Manager read or wrote on each stack in the load window in progress (R194, R222). -/
  loads    : Tab Nat := []
  /-- Bytes moved on each resource of R236 in the meter window in progress. -/
  moved    : Tab Nat := []
  cmds     : List Cmd := []
  /-- Completed commands with operations that run on (R138, R502). -/
  spent    : List Cmd := []
  /-- The completed command whose operation the present step runs; `none` between steps. -/
  spentRun : Option CmdId := none
  rings    : Tab RingX := []
  cqs      : Tab CqX := []
  arb      : Arb := {}
  tb       : Tb := {}
  halls    : List HallX := List.replicate 16 {}
  safe     : Safe := {}
  rst      : Rst := {}
  board    : Board := {}
  fab      : Fab := {}
  /-- The generator seed, the counters and last_mb of every lane, keyed by 64 times the tile id plus the lane (R358,
  R516). -/
  seed     : BitVec 64 := 0
  gens     : Tab (BitVec 64) := []
  lastMb   : Tab W := []
  red      : Red := {}
  erm      : Erm := {}
  ck       : Ck := {}
deriving DecidableEq, Repr

/-- The machine right after reset: in BOOT (R501, R533), every register at its reset value, memory with nothing listed,
no command accepted, the queue empty; the supplies are up, since BOOT follows MOD_PG (R561). -/
def State.reset : State := {}

end Sys2Proof.Machine
end

