-- ==== Sys2Proof/Machine/Regs.lean ====
section
/-! DEFINITION. The register file: the layout of every BAR0 register (R572, R573 and the register tables of each
chapter), its reset value and the access type of its bits (R7), and the named fields. -/

namespace Sys2Proof.Machine

/-- A register's layout: reset value, bits that a write sets (RW), bits it sets outside Attested mode (RWL, R479), and
bits that a 1 clears (W1C). Every other bit is read-only, reserved, or write-only with its own command. -/
structure RegSpec where
  off   : Nat
  reset : Nat := 0
  rw    : Nat := 0
  rwl   : Nat := 0
  w1c   : Nat := 0
deriving DecidableEq, Repr

def allOnes : Nat := 0xFFFFFFFF

/-! ### Windows: offsets are relative to the window -/

/-- R2, R552, R577, R578. -/
def ctlRegs : List RegSpec :=
  [{ off := 0 }, { off := 4 }, { off := 8, rw := 0x7FF }, { off := 0xC, w1c := 0x80000000 }]

/-- R88 to R91. -/
def tbRegs : List RegSpec :=
  [{ off := 0, reset := 0x000A0010, rw := 0x10, rwl := 0xFFFF0007 },
   { off := 4, reset := 0x00FFF000, w1c := 0xC00 }, { off := 8 }, { off := 0xC },
   { off := 0x10, rwl := allOnes }, { off := 0x14, rwl := allOnes }]

/-- R496 to R498. -/
def safetyRegs : List RegSpec :=
  [{ off := 0 }, { off := 4, w1c := 0xC0000000 }, { off := 8 }, { off := 0x10, reset := 0xFFFF },
   { off := 0x20 }, { off := 0x24, reset := 0x0010C060, rwl := 0xFFFFFF }, { off := 0x28, rw := 0xFFFF },
   { off := 0x30, reset := 0x10408002, rwl := allOnes }, { off := 0x34, reset := 0xFFFF10FF, rwl := allOnes },
   { off := 0x40 }, { off := 0x44 }, { off := 0x48 }, { off := 0x4C },
   { off := 0x50 }, { off := 0x54 }, { off := 0x58 }, { off := 0x5C },
   { off := 0x60, rw := 0xFFFFF000 }, { off := 0x64, rw := allOnes },
   { off := 0x68, reset := 16, rw := 0x8000001F }, { off := 0x6C }, { off := 0x70, rw := allOnes }, { off := 0x74 },
   { off := 0x100 }, { off := 0x104 }, { off := 0x108, rw := 0xF3F }, { off := 0x10C, rw := 0x001FF1FF },
   { off := 0x110, rw := 0xFF000000 }, { off := 0x114, rw := allOnes }, { off := 0x118, rw := allOnes },
   { off := 0x11C, rw := 0xFFFE3FFF }, { off := 0x120, rw := allOnes }] ++
  (List.range 16).map fun h => { off := 0x140 + 4 * h, rw := 0xFF }

/-- R533, R535. -/
def rstRegs : List RegSpec :=
  [{ off := 0, reset := 2 }, { off := 4, reset := 0x040A000A, rwl := allOnes },
   { off := 8, reset := 86400, rwl := allOnes }, { off := 0xC }, { off := 0x10, reset := 0xFFFF, rwl := 0xFFFF },
   { off := 0x14 }, { off := 0x18 }, { off := 0x1C }]

/-- R534, R536. -/
def ckptRegs : List RegSpec :=
  [{ off := 0, reset := 0xFFFF }, { off := 4, reset := 0xFFFF, rw := 0xFFFF },
   { off := 8, reset := 0xC0000000, rw := 0xF0000000 }, { off := 0xC, reset := 0x60000000 },
   { off := 0x10, rw := 0xC0000000 }, { off := 0x14, rw := allOnes }, { off := 0x18, rw := 0xFFFF },
   { off := 0x1C, rw := 0xFF800000 }, { off := 0x20, rw := allOnes }, { off := 0x24 }, { off := 0x28 }, { off := 0x2C },
   { off := 0x30 }, { off := 0x34 }, { off := 0x38 }]

/-- R564. The two bits of FW_CTL read 0 and act in their own commands. -/
def bootRegs : List RegSpec :=
  [{ off := 0 }, { off := 8, rw := 0xFFFFF000 }, { off := 0xC, rw := allOnes }, { off := 0x10, rw := allOnes },
   { off := 0x14 }, { off := 0x18 }]

/-- R556, R582. -/
def mgmtRegs : List RegSpec :=
  [{ off := 0, reset := 0xC0000000, rw := 0xC0000000 }, { off := 4, rw := allOnes }, { off := 8 }, { off := 0xC },
   { off := 0x10 }]

/-- R579 to R581: twelve blocks and MEM.CTL. -/
def memRegs : List RegSpec :=
  ((List.range 12).flatMap fun k => [0, 4, 8, 0xC, 0x10, 0x14].map fun o => { off := 0x40 * k + o }) ++ [{ off := 0x400 }]

/-- R217 to R225, R247 to R250. -/
def ermRegs : List RegSpec :=
  [{ off := 0, rw := 0xFFFFF000 }, { off := 4, rw := allOnes }, { off := 8, reset := 0x1E008000, rw := 0x3F00F000 },
   { off := 0xC, w1c := 0x80000000 }, { off := 0x10, rw := 0xFFFFF000 }, { off := 0x14, rw := allOnes },
   { off := 0x18, reset := 1000, rw := 0xFFFF }, { off := 0x1C }] ++
  ((List.range 14).map fun i => { off := 0x40 + 4 * i }) ++ ((List.range 8).map fun i => { off := 0x80 + 4 * i }) ++
  ((List.range 16).flatMap fun n =>
    [{ off := 0x100 + 0x20 * n, rw := 0xFFFFFFF0 }, { off := 0x104 + 0x20 * n, rw := allOnes },
     { off := 0x108 + 0x20 * n, rw := 0xE7FF0000 }, { off := 0x10C + 0x20 * n, rw := allOnes },
     { off := 0x110 + 0x20 * n }]) ++
  [{ off := 0x300, reset := 0x03E80032, rw := 0xFFFF00FF }, { off := 0x304, reset := 0x808, rw := 0xF3F },
   { off := 0x308 }, { off := 0x30C }, { off := 0x310 }]

/-- R416 to R420, R422. -/
def redRegs : List RegSpec :=
  [{ off := 0, rw := 0x0FFF0000, rwl := 3 }, { off := 4, reset := 50, rwl := 0xFF }, { off := 8 }, { off := 0xC },
   { off := 0x10, rw := 0xFFFFF000 }, { off := 0x14, rw := allOnes }, { off := 0x18, rw := allOnes },
   { off := 0x20, rw := 0xFFFFF000 }, { off := 0x24, rw := allOnes },
   { off := 0x28, rw := 0xFFFFF000 }, { off := 0x2C, rw := allOnes }, { off := 0x30 }] ++
  (List.range 10).map fun i => { off := 0x40 + 4 * i }

/-- R458, R463 to R467, R469. -/
def fabRegs : List RegSpec :=
  [{ off := 0, reset := 0xFFFF, rw := 0xFFFF }, { off := 4, reset := 0x421, rw := 0x7FFF },
   { off := 8, reset := 0x32080001, rw := 0xFFFF0001 }, { off := 0xC, reset := 0x444, rw := 0xFFF }, { off := 0x10 },
   { off := 0x14 }, { off := 0x18 }, { off := 0x20, rw := 0xFFE00000 }, { off := 0x24, rw := allOnes }, { off := 0x28 },
   { off := 0x2C, reset := 100, rw := 0xFFFF }, { off := 0x3C }] ++
  ((List.range 6).map fun i => { off := 0x40 + 4 * i }) ++ (List.range 16).map fun i => { off := 0x80 + 4 * i }

/-- A port block (R468, R469). -/
def portRegSpecs : List RegSpec :=
  [{ off := 0, reset := 0x30000000, rw := 0xFFFFFC00 }, { off := 4, rw := 0xFFFF }, { off := 8 }, { off := 0xC },
   { off := 0x10 }, { off := 0x14 }, { off := 0x18 }]

/-- A command ring's block (R119 to R121). -/
def ringRegs : List RegSpec :=
  [{ off := 0, rw := 0xFFFFFFC0 }, { off := 4, rw := allOnes }, { off := 8, reset := 0x00C60000, rw := 0xFFFF0FFF },
   { off := 0xC, reset := 0x8000, w1c := 0x6000 }, { off := 0x10 }, { off := 0x14, rw := 0x1FFFFFFF }]

/-- A completion ring's block (R122, R123). -/
def cqRegs : List RegSpec :=
  [{ off := 0, rw := 0xFFFFFFE0 }, { off := 4, rw := allOnes }, { off := 8, reset := 0x18000000, rw := 0xFF800FFF },
   { off := 0xC, w1c := 0xE0000000 }]

/-- A Hall window (R573): R21, R28, R34 to R36, R146 to R149, R177 to R179, R298 to R301, R339 to R341, R372 to R375,
R574 to R576. -/
def hallRegs : List RegSpec :=
  [{ off := 0 }, { off := 4 }, { off := 8 }, { off := 0xC }, { off := 0x10, reset := 0x11, rw := 3 },
   { off := 0x14, reset := 0x80008000 }, { off := 0x20 }, { off := 0x24, reset := 0xFFFF0000 }] ++
  ((List.range 20).map fun g => { off := 0x100 + 4 * g, reset := 0xFFFF0000 }) ++
  [{ off := 0x200, reset := 0x64000404, rw := 0xFF00, rwl := 0xFF00003F }] ++
  ((List.range 9).map fun i => { off := 0x204 + 4 * i }) ++
  [{ off := 0x240, reset := 0x02000000, rw := 0x03FF03FF }] ++
  ((List.range 8).map fun i => { off := 0x300 + 4 * i }) ++
  [{ off := 0x400, reset := 0xE00E0000, rwl := 0xE01F0000 }] ++ ((List.range 7).map fun i => { off := 0x404 + 4 * i }) ++
  [{ off := 0x500, reset := 0xC0000000, rwl := 0xC0000000 }, { off := 0x504, reset := 225, rw := 0x7FF }] ++
  ((List.range 10).map fun i => { off := 0x508 + 4 * i }) ++
  [{ off := 0x600, reset := 0x80000000, rwl := 0x80000000 }] ++ (List.range 9).map fun i => { off := 0x604 + 4 * i }

def findSpec (l : List RegSpec) (o : Nat) : Option RegSpec := l.find? fun r => r.off == o

/-- The layout of the register at a BAR0 offset; none where no register lies (R567, R572). The MSI-X table and PBA
are the PCI Express Base Specification's: a masked entry at reset (assumption 6). -/
def regSpec (o : Nat) : Option RegSpec :=
  if o % 4 ≠ 0 then none else
  let w := o / 0x10000
  let r := o % 0x10000
  match w with
  | 0x0 => findSpec ctlRegs r
  | 0x1 => findSpec tbRegs r
  | 0x2 => findSpec safetyRegs r
  | 0x3 => findSpec rstRegs r
  | 0x4 => findSpec ckptRegs r
  | 0x5 => findSpec bootRegs r
  | 0x6 => findSpec mgmtRegs r
  | 0x7 => findSpec memRegs r
  | 0x8 => if 0x400 ≤ r ∧ r < 0x800 then some { off := r } else findSpec ermRegs r
  | 0x9 => if 0x400 ≤ r ∧ r < 0x800 then some { off := r } else findSpec redRegs r
  | 0xA => if 0x1000 ≤ r ∧ r < 0x1600 then findSpec portRegSpecs (r % 0x20) else findSpec fabRegs r
  | 0x10 =>
    if r < 0x8000 then
      if r % 16 = 12 then some { off := r, reset := 1, rw := 1 } else some { off := r, rw := allOnes }
    else if r < 0x8100 then some { off := r } else none
  | 0x20 => findSpec ringRegs (r % 0x20)
  | 0x21 => findSpec ringRegs (r % 0x20)
  | 0x22 => findSpec cqRegs (r % 0x10)
  | _ => if 0x100 ≤ w ∧ w < 0x110 then findSpec hallRegs r else none

/-- The reset value of a register (0 where none lies). -/
def regReset (o : Nat) : W :=
  match regSpec o with
  | some r => BitVec.ofNat 32 r.reset
  | none => 0

/-! ### Fields -/

/-- A field of a register: BAR0 offset and bit range [hi:lo]. -/
structure Fld where
  off : Nat
  hi  : Nat
  lo  : Nat
deriving DecidableEq, Repr

/-- Bits [hi:lo] of a word. -/
def bits (w : W) (hi lo : Nat) : Nat := w.toNat / 2 ^ lo % 2 ^ (hi + 1 - lo)

/-- A word with bits [hi:lo] set to a value. -/
def setBits (w : W) (hi lo v : Nat) : W :=
  BitVec.ofNat 32 (w.toNat / 2 ^ (hi + 1) * 2 ^ (hi + 1) + v % 2 ^ (hi + 1 - lo) * 2 ^ lo + w.toNat % 2 ^ lo)

/-- A word's bits under a mask replaced by those of another. -/
def merge (mask : Nat) (old new : W) : W :=
  (old &&& ~~~(BitVec.ofNat 32 mask)) ||| (new &&& BitVec.ofNat 32 mask)

/-- The stored word of a register. -/
def State.reg (s : State) (o : Nat) : W := Tab.get regReset s.regs o

def State.setReg (s : State) (o : Nat) (v : W) : State := { s with regs := Tab.put regReset s.regs o v }

def State.fld (s : State) (f : Fld) : Nat := bits (s.reg f.off) f.hi f.lo

def State.setFld (s : State) (f : Fld) (v : Nat) : State := s.setReg f.off (setBits (s.reg f.off) f.hi f.lo v)

def State.flag (s : State) (f : Fld) : Bool := s.fld f == 1

/-- Adds to a count that saturates at its field's largest value (R569, and each count's own rule). -/
def State.bump (s : State) (f : Fld) (n : Nat := 1) : State :=
  s.setFld f (min (s.fld f + n) (2 ^ (f.hi + 1 - f.lo) - 1))

/-- Sets whole registers to 0: the clr fields. -/
def State.clear (s : State) : List Nat → State
  | [] => s
  | o :: os => (s.setReg o 0).clear os

/-- A 64-bit value held in a LO and a HI register. -/
def State.reg64 (s : State) (lo hi : Nat) : Nat := (s.reg lo).toNat + 2 ^ 32 * (s.reg hi).toNat

/-- A whole-register count. -/
def cnt (o : Nat) : Fld := ⟨o, 31, 0⟩

/-! ### Named offsets and fields -/

namespace Reg
def ctlAccStatus := 0xC
def bar4Base := 0x8
def tbCfg := 0x10000
def tbStatus := 0x10004
def safeMode := 0x20000
def safeStatus := 0x20004
def safeRwlLast := 0x20008
def safeTwin := 0x20010
def hmRisk := 0x20020
def hmThresh := 0x20024
def hmRateRef := 0x20028
def hmWeight0 := 0x20030
def hmWeight1 := 0x20034
def hmInput (i : Nat) := 0x20040 + 4 * i
def hmLogBaseLo := 0x20060
def hmLogBaseHi := 0x20064
def hmLogCfg := 0x20068
def hmLogProd := 0x2006C
def hmLogCons := 0x20070
def hmLogLost := 0x20074
def testUnlock := 0x20100
def testStatus := 0x20104
def testBp := 0x20108
def testLaneErr := 0x2010C
def testEccInj := 0x20110
def testEccAddrLo := 0x20114
def testEccAddrHi := 0x20118
def testChkInj := 0x2011C
def testTbOffset := 0x20120
def testHallDelay (h : Nat) := 0x20140 + 4 * h
def rstState := 0x30000
def rstCfg := 0x30004
def rstWindow := 0x30008
def rstCtl := 0x3000C
def rstPdom := 0x30010
def rstOpsecLo := 0x30014
def rstOpsecHi := 0x30018
def rstAbort := 0x3001C
def ckptBuddy := 0x40000
def ckptWard := 0x40004
def ckptCfg := 0x40008
def ckptStatus := 0x4000C
def ckptImgLo := 0x40010
def ckptImgHi := 0x40014
def ckptImgSize := 0x40018
def ckptBndLo := 0x4001C
def ckptBndHi := 0x40020
def ckptLastStep := 0x40024
def ckptBndStep := 0x40028
def ckptCtl := 0x4002C
def ckptDone := 0x40030
def ckptEnded := 0x40034
def ckptHolds := 0x40038
def bootStatus := 0x50000
def fwAddrLo := 0x50008
def fwAddrHi := 0x5000C
def fwLen := 0x50010
def fwCtl := 0x50014
def fwResult := 0x50018
def mgmtCfg := 0x60000
def mgmtIp := 0x60004
def mgmtDrop := 0x60010
def memBlock (k : Nat) := 0x70000 + 0x40 * k
def memCtl := 0x70400
def erm (o : Nat) := 0x80000 + o
def ermPool (n : Nat) := 0x80100 + 0x20 * n
def red (o : Nat) := 0x90000 + o
def lchShift (n : Nat) := 0x90400 + 4 * n
def fab (o : Nat) := 0xA0000 + o
def port (p : Nat) := 0xA1000 + 0x20 * p
def ring (n : Nat) := 0x200000 + 0x20 * n
def cq (n : Nat) := 0x220000 + 0x10 * n
def hall (h o : Nat) := 0x1000000 + 0x10000 * h + o
end Reg

namespace F
def accBad : Fld := ⟨Reg.ctlAccStatus, 31, 31⟩
def accOffset : Fld := ⟨Reg.ctlAccStatus, 25, 0⟩
def tbHoldover : Fld := ⟨Reg.tbCfg, 31, 16⟩
def tbPpsEn : Fld := ⟨Reg.tbCfg, 4, 4⟩
def tbRole : Fld := ⟨Reg.tbCfg, 2, 0⟩
def tbLastOffset : Fld := ⟨Reg.tbStatus, 31, 24⟩
def tbUpstream : Fld := ⟨Reg.tbStatus, 23, 16⟩
def tbHops : Fld := ⟨Reg.tbStatus, 15, 12⟩
def tbMismatch : Fld := ⟨Reg.tbStatus, 11, 11⟩
def tbRefused : Fld := ⟨Reg.tbStatus, 10, 10⟩
def tbState : Fld := ⟨Reg.tbStatus, 2, 0⟩
def attested : Fld := ⟨Reg.safeMode, 31, 31⟩
def rwlRefused : Fld := ⟨Reg.safeStatus, 31, 31⟩
def testRefused : Fld := ⟨Reg.safeStatus, 30, 30⟩
def rwlLast : Fld := ⟨Reg.safeRwlLast, 25, 0⟩
def twinEnable : Fld := ⟨Reg.safeTwin, 31, 31⟩
def twinShare : Fld := ⟨Reg.safeTwin, 19, 16⟩
def twinPartner : Fld := ⟨Reg.safeTwin, 15, 0⟩
def hmQFired : Fld := ⟨Reg.hmRisk, 9, 9⟩
def hmCFired : Fld := ⟨Reg.hmRisk, 8, 8⟩
def hmRiskVal : Fld := ⟨Reg.hmRisk, 7, 0⟩
def hmHyst : Fld := ⟨Reg.hmThresh, 23, 16⟩
def hmQuiesce : Fld := ⟨Reg.hmThresh, 15, 8⟩
def hmCkpt : Fld := ⟨Reg.hmThresh, 7, 0⟩
def hmRate : Fld := ⟨Reg.hmRateRef, 15, 0⟩
def logEnable : Fld := ⟨Reg.hmLogCfg, 31, 31⟩
def logSize : Fld := ⟨Reg.hmLogCfg, 4, 0⟩
def unlocked : Fld := ⟨Reg.testStatus, 31, 31⟩
def unlockStage : Fld := ⟨Reg.testStatus, 1, 0⟩
def eccArm : Fld := ⟨Reg.testEccInj, 31, 31⟩
def eccTier : Fld := ⟨Reg.testEccInj, 30, 28⟩
def eccN : Fld := ⟨Reg.testEccInj, 27, 24⟩
def chkArm : Fld := ⟨Reg.testChkInj, 31, 31⟩
def chkBoth : Fld := ⟨Reg.testChkInj, 30, 30⟩
def chkUnit : Fld := ⟨Reg.testChkInj, 29, 27⟩
def chkRow : Fld := ⟨Reg.testChkInj, 26, 22⟩
def chkCol : Fld := ⟨Reg.testChkInj, 21, 17⟩
def chkTile : Fld := ⟨Reg.testChkInj, 13, 0⟩
def qcause : Fld := ⟨Reg.rstState, 27, 24⟩
def counted : Fld := ⟨Reg.rstState, 23, 16⟩
def cause : Fld := ⟨Reg.rstState, 11, 8⟩
def devState : Fld := ⟨Reg.rstState, 3, 0⟩
def resetLimit : Fld := ⟨Reg.rstCfg, 31, 24⟩
def resetTimeout : Fld := ⟨Reg.rstCfg, 23, 16⟩
def quiesceTimeout : Fld := ⟨Reg.rstCfg, 15, 0⟩
def abortOverflow : Fld := ⟨Reg.rstAbort, 31, 31⟩
def abortCount : Fld := ⟨Reg.rstAbort, 4, 0⟩
def pdom : Fld := ⟨Reg.rstPdom, 15, 0⟩
def buddyValid : Fld := ⟨Reg.ckptBuddy, 31, 31⟩
def buddyOverride : Fld := ⟨Reg.ckptBuddy, 30, 30⟩
def buddy : Fld := ⟨Reg.ckptBuddy, 15, 0⟩
def ward : Fld := ⟨Reg.ckptWard, 15, 0⟩
def ckptShare : Fld := ⟨Reg.ckptCfg, 31, 28⟩
def ckptActive : Fld := ⟨Reg.ckptStatus, 31, 31⟩
def fullNext : Fld := ⟨Reg.ckptStatus, 30, 30⟩
def restoreOk : Fld := ⟨Reg.ckptStatus, 29, 29⟩
def holding : Fld := ⟨Reg.ckptStatus, 28, 28⟩
def bootCode : Fld := ⟨Reg.bootStatus, 31, 16⟩
def bootSvn : Fld := ⟨Reg.bootStatus, 15, 8⟩
def bootZeroing : Fld := ⟨Reg.bootStatus, 5, 5⟩
def noImage : Fld := ⟨Reg.bootStatus, 4, 4⟩
def bootSlot : Fld := ⟨Reg.bootStatus, 0, 0⟩
def fwCode : Fld := ⟨Reg.fwResult, 31, 16⟩
def fwSvn : Fld := ⟨Reg.fwResult, 15, 8⟩
def fwBusy : Fld := ⟨Reg.fwResult, 0, 0⟩
def mgmtEnable : Fld := ⟨Reg.mgmtCfg, 31, 31⟩
def mgmtPtp : Fld := ⟨Reg.mgmtCfg, 30, 30⟩
def selfRefresh (k : Nat) : Fld := ⟨Reg.memBlock k, 31, 31⟩
def zeroing (k : Nat) : Fld := ⟨Reg.memBlock k, 30, 30⟩
def celCorr (k : Nat) : Fld := cnt (Reg.memBlock k + 4)
def celUncorr (k : Nat) : Fld := cnt (Reg.memBlock k + 8)
def deepCorr (k : Nat) : Fld := cnt (Reg.memBlock k + 0xC)
def deepUncorr (k : Nat) : Fld := cnt (Reg.memBlock k + 0x10)
def logMergeAt : Fld := ⟨Reg.erm 8, 15, 12⟩
def logSizeLog2 : Fld := ⟨Reg.erm 8, 29, 24⟩
def loadWindow : Fld := ⟨Reg.erm 0x18, 15, 0⟩
def logCfgRefused : Fld := ⟨Reg.erm 0xC, 31, 31⟩
def logMerging : Fld := ⟨Reg.erm 0xC, 30, 30⟩
def logPending : Fld := ⟨Reg.erm 0xC, 29, 0⟩
def poolEnable (n : Nat) : Fld := ⟨Reg.ermPool n + 8, 31, 31⟩
def poolTier (n : Nat) : Fld := ⟨Reg.ermPool n + 8, 30, 29⟩
def poolRec16 (n : Nat) : Fld := ⟨Reg.ermPool n + 8, 26, 16⟩
def poolFree (n : Nat) : Fld := cnt (Reg.ermPool n + 0x10)
def grace : Fld := ⟨Reg.erm 0x300, 31, 16⟩
def verLead : Fld := ⟨Reg.erm 0x300, 7, 0⟩
def verThreshold : Fld := ⟨Reg.erm 0x304, 11, 8⟩
def verShare : Fld := ⟨Reg.erm 0x304, 5, 0⟩
def verEarly : Fld := cnt (Reg.erm 0x308)
def verVetoed : Fld := cnt (Reg.erm 0x30C)
def redRank : Fld := ⟨Reg.red 0, 27, 16⟩
def nfPolicy : Fld := ⟨Reg.red 0, 1, 0⟩
def cmtLead : Fld := ⟨Reg.red 4, 7, 0⟩
def poisonReason : Fld := ⟨Reg.red 8, 31, 28⟩
def poisonPackage : Fld := ⟨Reg.red 8, 15, 0⟩
def poisonStep : Fld := cnt (Reg.red 0xC)
def package : Fld := ⟨Reg.fab 0, 15, 0⟩
def dimX : Fld := ⟨Reg.fab 4, 4, 0⟩
def dimY : Fld := ⟨Reg.fab 4, 9, 5⟩
def dimZ : Fld := ⟨Reg.fab 4, 14, 10⟩
def routeLead : Fld := ⟨Reg.fab 8, 31, 24⟩
def routeBias : Fld := ⟨Reg.fab 8, 23, 16⟩
def adaptive : Fld := ⟨Reg.fab 8, 0, 0⟩
def rtLock : Fld := ⟨Reg.fab 0x10, 7, 7⟩
def rtActive : Fld := ⟨Reg.fab 0x10, 0, 0⟩
/-- The state of a routing bank (R443, R466). -/
def rtBank (b : Nat) : Fld := ⟨Reg.fab 0x10, 3 + 3 * b, 1 + 3 * b⟩
def rtInflight (b : Nat) : Fld := cnt (Reg.fab (0x14 + 4 * b))
def quenchPackage : Fld := ⟨Reg.fab 0x28, 31, 31⟩
def quenchOverflow : Fld := ⟨Reg.fab 0x28, 30, 30⟩
def quenchJobs : Fld := ⟨Reg.fab 0x28, 4, 0⟩
def cmapWindow : Fld := ⟨Reg.fab 0x2C, 15, 0⟩
def crcErr : Fld := cnt (Reg.fab 0x40)
def protoErr : Fld := cnt (Reg.fab 0x44)
def unreach : Fld := cnt (Reg.fab 0x48)
def lateEpoch : Fld := cnt (Reg.fab 0x4C)
def pruned : Fld := cnt (Reg.fab 0x50)
def nonMin : Fld := cnt (Reg.fab 0x54)
def portEnable (p : Nat) : Fld := ⟨Reg.port p, 31, 31⟩
def portFence (p : Nat) : Fld := ⟨Reg.port p, 30, 30⟩
def portDim (p : Nat) : Fld := ⟨Reg.port p, 29, 28⟩
def portPeer (p : Nat) : Fld := ⟨Reg.port p, 27, 16⟩
def portPeerPort (p : Nat) : Fld := ⟨Reg.port p, 15, 10⟩
def portAsym (p : Nat) : Fld := ⟨Reg.port p + 4, 15, 0⟩
def portState (p : Nat) : Fld := ⟨Reg.port p + 8, 31, 28⟩
def portLanes (p : Nat) : Fld := ⟨Reg.port p + 8, 27, 20⟩
def portSeen (p : Nat) : Fld := ⟨Reg.port p + 8, 19, 8⟩
def portSeenPort (p : Nat) : Fld := ⟨Reg.port p + 8, 7, 2⟩
def portFecCorr (p : Nat) : Fld := cnt (Reg.port p + 0xC)
def portFecUncorr (p : Nat) : Fld := cnt (Reg.port p + 0x10)
def portReplay (p : Nat) : Fld := cnt (Reg.port p + 0x14)
def portRetrain (p : Nat) : Fld := cnt (Reg.port p + 0x18)
def ringEnable (n : Nat) : Fld := ⟨Reg.ring n + 8, 31, 31⟩
def ringPrio (n : Nat) : Fld := ⟨Reg.ring n + 8, 30, 28⟩
def ringSource (n : Nat) : Fld := ⟨Reg.ring n + 8, 27, 26⟩
def ringLog2 (n : Nat) : Fld := ⟨Reg.ring n + 8, 25, 21⟩
def ledgerLog2 (n : Nat) : Fld := ⟨Reg.ring n + 8, 20, 16⟩
def ringCq (n : Nat) : Fld := ⟨Reg.ring n + 8, 11, 0⟩
def ringExpected (n : Nat) : Fld := ⟨Reg.ring n + 0xC, 31, 16⟩
def ringIdle (n : Nat) : Fld := ⟨Reg.ring n + 0xC, 15, 15⟩
def ringBadDoorbell (n : Nat) : Fld := ⟨Reg.ring n + 0xC, 14, 14⟩
def ringCfgErr (n : Nat) : Fld := ⟨Reg.ring n + 0xC, 13, 13⟩
def ringLedgerWait (n : Nat) : Fld := ⟨Reg.ring n + 0xC, 12, 12⟩
def ringMalformed (n : Nat) : Fld := ⟨Reg.ring n + 0xC, 11, 0⟩
def ringCons (n : Nat) : Fld := cnt (Reg.ring n + 0x10)
def ledgerBase (n : Nat) : Fld := ⟨Reg.ring n + 0x14, 28, 0⟩
def cqEnable (n : Nat) : Fld := ⟨Reg.cq n + 8, 31, 31⟩
def cqLog2 (n : Nat) : Fld := ⟨Reg.cq n + 8, 30, 26⟩
def cqTier (n : Nat) : Fld := ⟨Reg.cq n + 8, 25, 24⟩
def cqPort (n : Nat) : Fld := ⟨Reg.cq n + 8, 23, 23⟩
def cqIrqEn (n : Nat) : Fld := ⟨Reg.cq n + 8, 11, 11⟩
def cqVector (n : Nat) : Fld := ⟨Reg.cq n + 8, 10, 0⟩
def cqOverflow (n : Nat) : Fld := ⟨Reg.cq n + 0xC, 31, 31⟩
def cqCfgErr (n : Nat) : Fld := ⟨Reg.cq n + 0xC, 30, 30⟩
def cqBadDoorbell (n : Nat) : Fld := ⟨Reg.cq n + 0xC, 29, 29⟩
def cqLost (n : Nat) : Fld := ⟨Reg.cq n + 0xC, 19, 0⟩
def eccCorr (h : Nat) : Fld := cnt (Reg.hall h 4)
def eccUncorr (h : Nat) : Fld := cnt (Reg.hall h 8)
def thermalHold (h : Nat) : Fld := ⟨Reg.hall h 0x10, 9, 9⟩
def slewing (h : Nat) : Fld := ⟨Reg.hall h 0x10, 8, 8⟩
def ppCurrent (h : Nat) : Fld := ⟨Reg.hall h 0x10, 5, 4⟩
def ppTarget (h : Nat) : Fld := ⟨Reg.hall h 0x10, 1, 0⟩
def tempMax (h : Nat) : Fld := ⟨Reg.hall h 0x14, 31, 16⟩
def tempCur (h : Nat) : Fld := ⟨Reg.hall h 0x14, 15, 0⟩
def minRate (h g : Nat) : Fld := ⟨Reg.hall h (0x100 + 4 * g), 31, 16⟩
def curRate (h g : Nat) : Fld := ⟨Reg.hall h (0x100 + 4 * g), 15, 0⟩
def floorRate (h : Nat) : Fld := ⟨Reg.hall h 0x200, 31, 24⟩
def slipLimit (h : Nat) : Fld := ⟨Reg.hall h 0x200, 15, 8⟩
def margin (h : Nat) : Fld := ⟨Reg.hall h 0x200, 5, 0⟩
def slotOver (h : Nat) : Fld := ⟨Reg.hall h 0x204, 31, 31⟩
def slotEst (h : Nat) : Fld := ⟨Reg.hall h 0x204, 30, 0⟩
def slipCount (h : Nat) : Fld := cnt (Reg.hall h 0x20C)
/-- The stall counter of cause i, from 1 to 5 (R140, R149). -/
def stall (h i : Nat) : Fld := cnt (Reg.hall h (0x20C + 4 * i))
def atticFallback (h : Nat) : Fld := cnt (Reg.hall h 0x224)
def atticSize (h : Nat) : Fld := ⟨Reg.hall h 0x240, 25, 16⟩
def atticBase (h : Nat) : Fld := ⟨Reg.hall h 0x240, 9, 0⟩
def smpQueued (h : Nat) : Fld := ⟨Reg.hall h 0x300, 23, 16⟩
def smpBusy (h : Nat) : Fld := ⟨Reg.hall h 0x300, 7, 0⟩
def smp (h o : Nat) : Fld := cnt (Reg.hall h o)
def chkEnable (h : Nat) : Fld := ⟨Reg.hall h 0x400, 31, 31⟩
def drainDup (h : Nat) : Fld := ⟨Reg.hall h 0x400, 30, 30⟩
def chkRetry (h : Nat) : Fld := ⟨Reg.hall h 0x400, 29, 29⟩
def tolShift (h : Nat) : Fld := ⟨Reg.hall h 0x400, 20, 16⟩
def chkLastUnit (h : Nat) : Fld := ⟨Reg.hall h 0x41C, 31, 30⟩
def chkLastTile (h : Nat) : Fld := ⟨Reg.hall h 0x41C, 13, 0⟩
def crcCheck (h : Nat) : Fld := ⟨Reg.hall h 0x500, 31, 31⟩
def rsCheck (h : Nat) : Fld := ⟨Reg.hall h 0x500, 30, 30⟩
def maxNnz (h : Nat) : Fld := ⟨Reg.hall h 0x504, 10, 0⟩
def veDup (h : Nat) : Fld := ⟨Reg.hall h 0x600, 31, 31⟩
def veLastRetry (h : Nat) : Fld := ⟨Reg.hall h 0x60C, 31, 31⟩
def veLastTile (h : Nat) : Fld := ⟨Reg.hall h 0x60C, 13, 0⟩
def hallCnt (h o : Nat) : Fld := cnt (Reg.hall h o)
end F

end Sys2Proof.Machine
end

