-- ==== Sys2Proof/Machine/Memory.lean ====
section
/-! DEFINITION. The memory tiers (R39, R40, R127), their error-correcting codes (R42 to R47, R585), the event log
(R84, R490, R491), and reads and writes as the device makes them. -/

namespace Sys2Proof.Machine

/-! ### Addresses -/

def cellarEnd : Nat := 0x018000000000
def deepEnd : Nat := 0x0C0000000000

/-- Galleries enabled per Hall (R1). -/
def State.galleries (s : State) : Nat := if s.fuses.gradeB then 18 else 20

/-- R22. -/
def State.validTile (s : State) (t : Nat) : Bool := decide (t / 640 < 16) && decide (t % 640 / 32 < s.galleries)

/-- The number of valid tile ids. -/
def State.tileCount (s : State) : Nat := 16 * 32 * s.galleries

/-- The i-th valid tile id, counting from tile 0 of Hall 0 (R22, R129). -/
def State.nthTile (s : State) (i : Nat) : Nat := i / (32 * s.galleries) * 640 + i % (32 * s.galleries)

/-- How many valid tile ids lie below an id. -/
def State.tileRank (s : State) (t : Nat) : Nat := t / 640 * (32 * s.galleries) + min (t % 640) (32 * s.galleries)

/-- Whether a tier has a byte at an address (R39, R40, R127). -/
def State.hasAddr (s : State) (tier addr : Nat) : Bool :=
  match tier with
  | 0 => decide (addr < 2 ^ 32) && s.validTile (addr / 2 ^ 18)
  | 1 => decide (addr < 2 ^ 30) && s.validTile (addr / 2 ^ 16)
  | 2 => decide (addr < 2 ^ 30) && decide (addr % 2 ^ 26 < 0x03000000)
  | 3 => decide (addr < cellarEnd)
  | 4 => decide (addr < deepEnd)
  | 5 => decide (addr < 2 ^ 64)
  | _ => false

/-- The size of the block that an address form's offset runs over: a tile's memory, a Hall's Attic field, or the whole
tier (R127). -/
def tierBlock : Nat → Nat
  | 0 => 2 ^ 18
  | 1 => 2 ^ 16
  | 2 => 2 ^ 26
  | _ => 2 ^ 64

/-- Whether a tier has every byte of a range; an empty range lies everywhere. On die a range stays in one tile's or one
Hall's memory (assumption 8). -/
def State.hasRange (s : State) (tier addr n : Nat) : Bool :=
  n == 0 || (s.hasAddr tier addr && s.hasAddr tier (addr + n - 1) &&
    addr / tierBlock tier == (addr + n - 1) / tierBlock tier)

def memKey (tier addr : Nat) : Nat := tier * 2 ^ 64 + addr

/-- Bytes under one code word: a 64-byte line or a 64-bit word (R42, R44); none for host memory. -/
def unitSize (tier : Nat) : Nat := if tier = 3 ∨ tier = 4 then 64 else if tier < 3 then 8 else 0

/-- The stack that holds a Cellar or Deep Cellar address (R40). -/
def stackOf (tier addr : Nat) : Nat := if tier = 3 then addr / 2 ^ 37 else addr / 2 ^ 40

/-- The Hall of an on-die address (R127). -/
def hallOf (tier addr : Nat) : Nat :=
  match tier with
  | 0 => addr / 2 ^ 18 / 640
  | 1 => addr / 2 ^ 16 / 640
  | _ => addr / 2 ^ 26

/-- The Hall that carries a stack pair (R14). -/
def pairHall (k : Nat) : Nat := [0, 1, 2, 3, 7, 11, 15, 14, 13, 12, 8, 4].getD k 0

/-! ### Plain bytes -/

/-- What a byte nothing has written reads as (assumption 3; R562 gives it for the Cellar). -/
def memDefault (_ : Nat) : Byte := 0

/-- The canonical form of memory. -/
def memWf (m : List Host.Cell) : Bool := Tab.wf memDefault m

def State.byte (s : State) (tier addr : Nat) : Byte := Tab.get memDefault s.mem (memKey tier addr)

def State.bytes (s : State) (tier addr n : Nat) : List Byte := Tab.gets memDefault s.mem (memKey tier addr) n

def State.poke (s : State) (tier addr : Nat) (bs : List Byte) : State :=
  { s with mem := Tab.puts memDefault s.mem (memKey tier addr) bs }

def noErr (_ : Nat) : Nat := 0

def State.setErr (s : State) (key n : Nat) : State := { s with errs := Tab.put noErr s.errs key n }

/-! ### Codes -/

inductive EccVerdict where
  | clean | corrected | uncorrectable | silent
deriving DecidableEq, Repr

/-- What the decoder of a unit answers (R43, R44). -/
def eccVerdict (tier key n : Nat) : EccVerdict :=
  let good := if tier < 3 then 1 else 3
  let found := if tier < 3 then 2 else 5
  if n = 0 then .clean else if n ≤ good then .corrected else if n ≤ found then .uncorrectable
  else if Config.eccFound key n then .uncorrectable else .silent

/-- The units in error that overlap a range, ascending: address and count. -/
def State.errUnits (s : State) (tier addr n : Nat) : List (Nat × Nat) :=
  (s.errs.filter fun p =>
    decide (memKey tier addr < p.1 + unitSize tier) && decide (p.1 < memKey tier (addr + n))
      && decide (p.1 / 2 ^ 64 = tier)).map fun p => (p.1 % 2 ^ 64, p.2)

/-- The bytes a read returns, without its effects: corrected, or unknown where an error beyond the code's guarantee
is not found. -/
def State.peek (s : State) (tier addr n : Nat) : List Byte :=
  let bad := (s.errUnits tier addr n).filter fun u => eccVerdict tier (memKey tier u.1) u.2 == .silent
  if bad.isEmpty then s.bytes tier addr n else
  (List.range n).map fun i =>
    match bad.find? fun u => decide (u.1 ≤ addr + i) && decide (addr + i < u.1 + unitSize tier) with
    | some u => Config.eccByte (memKey tier (addr + i)) u.2
    | none => s.byte tier (addr + i)

/-- No unit of a range is found uncorrectable: its bytes may be used (R45). -/
def State.good (s : State) (tier addr n : Nat) : Bool :=
  (s.errUnits tier addr n).all fun u => eccVerdict tier (memKey tier u.1) u.2 != .uncorrectable

/-! ### Metering, and what a write does to its units -/

/-- The resource of R236 of a host port and direction: 48 and 49 are port A's from and to the host, 50 and 51 port B's. -/
def portResource (port : Nat) (toHost : Bool) : Nat := 48 + 2 * port + toHost.toNat

/-- The resource of R236 that an access uses, if one is metered: Cellar stack k is k, Deep Cellar reads and writes of
stack k are 16 + k and 32 + k; of host memory the port that carries the access (assumption 28). -/
def resource (tier addr : Nat) (isWrite : Bool) : Option Nat :=
  match tier with
  | 3 => some (stackOf 3 addr)
  | 4 => some ((if isWrite then 32 else 16) + stackOf 4 addr)
  | 5 => some (portResource (if Config.hostPortB addr then 1 else 0) isWrite)
  | _ => none

/-- Counts bytes moved on a resource in the meter window. -/
def State.addMoved (s : State) (k n : Nat) : State := { s with moved := Tab.put noErr s.moved k (Tab.get noErr s.moved k + n) }

/-- Bytes of one stack of the Cellar or the Deep Cellar (R40). -/
def stackSize (tier : Nat) : Nat := if tier = 3 then 2 ^ 37 else 2 ^ 40

/-- The lines that a range meets on each stack: the stack, and how many. -/
def linesByStack (tier addr n : Nat) : List (Nat × Nat) :=
  if n = 0 then [] else
  let z := stackSize tier
  (List.range ((addr + n - 1) / z - addr / z + 1)).map fun i =>
    let k := addr / z + i
    let lo := max addr (k * z)
    let hi := min (addr + n) ((k + 1) * z)
    (k, (hi - 1) / 64 - lo / 64 + 1)

/-- Counts the bytes of an access, by whole lines on each stack, in the meter window (R236). -/
def State.meter (s : State) (tier addr n : Nat) (isWrite : Bool := false) : State :=
  if tier = 3 ∨ tier = 4 then
    (linesByStack tier addr n).foldl (fun s q => match resource tier (q.1 * stackSize tier) isWrite with
      | some k => s.addMoved k (64 * q.2)
      | none => s) s
  else match resource tier addr isWrite with
    | none => s
    | some k => s.addMoved k n

/-- Notes an access to an address the tier does not have. -/
def State.noAddr (s : State) (tier addr : Nat) : State :=
  { s with trap := s.trap <|> some (.noSuchAddress tier addr) }

/-- The units a write covers in part, ascending: their addresses. -/
def partialUnits (tier addr n : Nat) : List Nat :=
  let u := unitSize tier
  if u = 0 ∨ n = 0 then [] else
  let first := addr / u * u
  let last := (addr + n - 1) / u * u
  (if addr % u ≠ 0 ∨ (first = last ∧ n < u) then [first] else []) ++
    (if (addr + n) % u ≠ 0 ∧ last ≠ first then [last] else [])

/-- TEST.ECC_INJ acts at the write of the named word or line and disarms (R494). -/
def State.injectEcc (s : State) (tier addr n : Nat) : State :=
  let t := s.fld F.eccTier
  let u := unitSize t
  let a := (s.reg64 Reg.testEccAddrLo Reg.testEccAddrHi) / max u 1 * u
  if s.flag F.eccArm ∧ t = tier ∧ u ≠ 0 ∧ addr < a + u ∧ a < addr + n then
    (s.setErr (memKey t a) (s.fld F.eccN)).setFld F.eccArm 0
  else s

/-- Removes the errors of every unit of a list. -/
def State.clearErrs (s : State) (tier : Nat) : List (Nat × Nat) → State
  | [] => s
  | (a, _) :: us => (s.setErr (memKey tier a) 0).clearErrs tier us

/-- Deep Cellar bytes written on each stack, by whole lines (R41, R579). -/
def State.addWear (s : State) (tier addr n : Nat) : State :=
  if tier = 4 then
    { s with wear := (linesByStack 4 addr n).foldl (fun w q => Tab.put noErr w q.1 (Tab.get noErr w q.1 + 64 * q.2)) s.wear }
  else s

/-- Counts a unit that a read or scrub corrected (R574, R580, input 0 of R486). -/
def State.countCorrected (s : State) (tier addr : Nat) : State :=
  let s := { s with safe := { s.safe with win0 := s.safe.win0 + 1 } }
  match tier with
  | 3 => s.bump (F.celCorr (stackOf 3 addr))
  | 4 => s.bump (F.deepCorr (stackOf 4 addr))
  | _ => s.bump (F.eccCorr (hallOf tier addr))

/-- A merging read that does not find an error beyond the code takes the unit as it reads it: the bytes not written keep what
the read gave. R585 does not say it (DESIGN CHOICE, assumption 7). -/
def State.mergeSilent (s : State) (tier : Nat) (us : List (Nat × Nat)) : State :=
  us.foldl (fun s u => s.poke tier u.1 (s.peek tier u.1 (unitSize tier))) s

/-- The bytes of a write over units that hold none uncorrectable: merged, with fresh codes (R585, R494, R579). -/
def State.store (s : State) (tier addr : Nat) (bs : List Byte) : State :=
  let units := s.errUnits tier addr bs.length
  let parts := partialUnits tier addr bs.length
  let silent := units.filter fun u => parts.contains u.1 && eccVerdict tier (memKey tier u.1) u.2 == .silent
  (((((s.mergeSilent tier silent).clearErrs tier units).poke tier addr bs).addWear tier addr bs.length).injectEcc
    tier addr bs.length)

/-! ### The event log -/

/-- The source number of this package's records (R10, R84). -/
def State.pkg (s : State) : Nat := s.fld F.package

/-- The four words that begin a record (R84). -/
def recordWords (s : State) (cls index code detail : Nat) : List W :=
  [BitVec.ofNat 32 s.tb.stime, BitVec.ofNat 32 (s.tb.stime / 2 ^ 32),
   BitVec.ofNat 32 (s.pkg * 2 ^ 16 + cls % 16 * 2 ^ 12 + index % 2 ^ 12),
   BitVec.ofNat 32 (code % 2 ^ 16 * 2 ^ 16 + detail % 2 ^ 16)]

/-- Counts a unit found uncorrectable (R574, R580, input 6 of R486). -/
def State.tallyBad (s : State) (tier addr : Nat) : State :=
  let s := { s with safe := { s.safe with win6 := s.safe.win6 + 1 } }
  match tier with
  | 3 => s.bump (F.celUncorr (stackOf 3 addr))
  | 4 => s.bump (F.deepUncorr (stackOf 4 addr))
  | _ => s.bump (F.eccUncorr (hallOf tier addr))

/-- Writes a record's 32 bytes, half a line: a read-modify-write (R585). A line that it finds uncorrectable keeps its marker
and is counted, the record is lost (assumption 71), and the line is answered. -/
def State.putRecord (s : State) (addr : Nat) (bs : List Byte) : State × Option Nat :=
  if !s.hasRange 3 addr bs.length then (s.noAddr 3 addr, none) else
  let s := s.meter 3 addr bs.length true
  let bad := fun (v : EccVerdict) => (s.errUnits 3 addr bs.length).filter fun u => eccVerdict 3 (memKey 3 u.1) u.2 == v
  match bad .uncorrectable with
  | u :: _ =>
    (s.tallyBad 3 u.1, some u.1)
  | [] => (((bad .corrected).foldl (fun s u => s.countCorrected 3 u.1) s).store 3 addr bs, none)

/-- Writes a record, and after one whose line is found uncorrectable the record 0x0A01 of that line (R474), at most so many. -/
def State.putEvents : Nat → State → Nat → Nat → Nat → Nat → List W → State
  | 0, s, _, _, _, _, _ => s
  | k + 1, s, cls, index, code, detail, extra =>
    let slots := 2 ^ (s.fld F.logSize - 5)
    let prod := s.reg Reg.hmLogProd
    if slots ≤ (prod - s.reg Reg.hmLogCons).toNat then s.bump (cnt Reg.hmLogLost) else
    let addr := s.reg64 Reg.hmLogBaseLo Reg.hmLogBaseHi + prod.toNat % slots * 32
    let words := (recordWords s cls index code detail ++ extra ++ List.replicate 4 0).take 8
    let r := (s.setReg Reg.hmLogProd (prod + 1)).putRecord addr (wordBytes words)
    match r.2 with
    | none => r.1
    | some a => State.putEvents k r.1 5 (stackOf 3 a) 0x0A01 3 [BitVec.ofNat 32 a, BitVec.ofNat 32 (a / 2 ^ 32)]

/-- The Health Monitor writes a record into the log (R490, R491): nothing while the log is off; lost when it is full;
else padded to its 32-byte slot. A line in error takes at most two slots, so that the records it brings end. -/
def State.event (s : State) (cls index code detail : Nat) (extra : List W := []) : State :=
  if !s.flag F.logEnable then s else s.putEvents (2 * s.errs.length + 1) cls index code detail extra

/-! ### Reads -/

/-- Counts a unit found uncorrectable and writes its record (R474). -/
def State.countUncorrectable (s : State) (tier addr : Nat) : State :=
  let words : List W := [BitVec.ofNat 32 addr, BitVec.ofNat 32 (addr / 2 ^ 32)]
  if tier = 3 ∨ tier = 4 then (s.tallyBad tier addr).event 5 (stackOf tier addr) 0x0A01 tier words
  else (s.tallyBad tier addr).event 2 (hallOf tier addr) 0x0A01 tier words

/-- The effects of checking the listed units: the state, and the first uncorrectable one. -/
def State.checkUnits (s : State) (tier : Nat) : List (Nat × Nat) → State × Option Nat
  | [] => (s, none)
  | (a, n) :: us =>
    match eccVerdict tier (memKey tier a) n with
    | .corrected => (s.countCorrected tier a).checkUnits tier us
    | .uncorrectable => (((s.countUncorrectable tier a).checkUnits tier us).1, some a)
    | _ => s.checkUnits tier us

/-- A read of n bytes: its effects, and the first unit found uncorrectable (R45, R585). The bytes are `peek`'s. -/
def State.touch (s : State) (tier addr n : Nat) : State × Option Nat :=
  if s.hasRange tier addr n then (s.meter tier addr n).checkUnits tier (s.errUnits tier addr n)
  else (s.noAddr tier addr, none)

/-! ### Writes -/

/-- A write of bytes as the device makes it (R585): a unit covered in part is read, corrected and merged; when such a
unit is uncorrectable nothing of the write is merged and its address is answered; whole units drop their errors. -/
def State.write (s : State) (tier addr : Nat) (bs : List Byte) : State × Option Nat :=
  let n := bs.length
  if n = 0 then (s, none) else
  if !s.hasRange tier addr n then (s.noAddr tier addr, none) else
  let parts := partialUnits tier addr n
  let r := (s.meter tier addr n true).checkUnits tier ((s.errUnits tier addr n).filter fun u => parts.contains u.1)
  match r.2 with
  | some a => (r.1, some a)
  | none => (r.1.store tier addr bs, none)

/-- A write whose uncorrectable unit, if any, has no command to fail. -/
def State.put (s : State) (tier addr : Nat) (bs : List Byte) : State := (s.write tier addr bs).1

/-- Words read from memory without effects. -/
def State.peekWords (s : State) (tier addr n : Nat) : List W := bytesWords n (s.peek tier addr (4 * n))

/-- A 32-bit word read without effects. -/
def State.word (s : State) (tier addr : Nat) : Nat := ofLe (s.peek tier addr 4)

/-- Adds the lines f to l to disjoint spans of lines, highest first. -/
def addSpan (f l : Nat) : List (Nat × Nat) → List (Nat × Nat)
  | [] => [(f, l)]
  | (a, b) :: r =>
    if b < f then (f, l) :: (a, b) :: r
    else if l < a then (a, b) :: addSpan f l r
    else addSpan (min a f) (max b l) r

/-- The lines that ranges meet, each once. -/
def lineSpans (rs : List (Nat × Nat)) : List (Nat × Nat) :=
  rs.foldl (fun acc r => if r.2 = 0 then acc else addSpan (r.1 / 64) ((r.1 + r.2 - 1) / 64) acc) []

/-- Counts what one operation's reads of ranges move: each line of a stack once (R236). -/
def State.meterSet (s : State) (tier : Nat) (rs : List (Nat × Nat)) : State :=
  if tier = 3 ∨ tier = 4 then (lineSpans rs).foldl (fun s f => s.meter tier (64 * f.1) (64 * (f.2 - f.1 + 1))) s
  else rs.foldl (fun s r => s.meter tier r.1 r.2) s

/-- Ranges of one tier read by one operation: each unit in error that they meet is checked once (assumption 9). -/
def State.touchSet (s : State) (tier : Nat) (rs : List (Nat × Nat)) : State × Option Nat :=
  match rs.find? fun r => !s.hasRange tier r.1 r.2 with
  | some r => (s.noAddr tier r.1, none)
  | none =>
    let u := unitSize tier
    let hit := fun (p : Nat × Nat) => decide (p.1 / 2 ^ 64 = tier) && rs.any fun r =>
      decide (p.1 % 2 ^ 64 < r.1 + r.2) && decide (r.1 < p.1 % 2 ^ 64 + u)
    let units := (s.errs.filter hit).map fun p => (p.1 % 2 ^ 64, p.2)
    (s.meterSet tier rs).checkUnits tier units

/-- Joins writes to adjoining addresses, never past the end of a tile's memory (a multiple of 2^16, R127). -/
def coalesce : List (Nat × List Byte) → List (Nat × List Byte)
  | [] => []
  | (a, bs) :: ws =>
    match coalesce ws with
    | [] => [(a, bs)]
    | (b, cs) :: rs => if a + bs.length = b ∧ b % 2 ^ 16 ≠ 0 then (a, bs ++ cs) :: rs else (a, bs) :: (b, cs) :: rs

/-- Writes of several ranges of one tier in order; the first uncorrectable unit. -/
def State.writes (s : State) (tier : Nat) : List (Nat × List Byte) → State × Option Nat
  | [] => (s, none)
  | (a, bs) :: ws =>
    let r := s.write tier a bs
    let q := r.1.writes tier ws
    (q.1, r.2 <|> q.2)

/-- A write of a range would find a unit that it covers in part uncorrectable (R585). -/
def State.blocked (s : State) (tier addr n : Nat) : Bool :=
  (s.errUnits tier addr n).any fun u =>
    (partialUnits tier addr n).contains u.1 && eccVerdict tier (memKey tier u.1) u.2 == .uncorrectable

/-- Writes of ranges (tier, address, length) that go in together, by `f`: where one of them is blocked, none is made. -/
def State.together (s : State) (rs : List (Nat × Nat × Nat)) (f : State → State × Option (Nat × Nat)) :
    State × Option (Nat × Nat) :=
  match rs.find? fun r => s.blocked r.1 r.2.1 r.2.2 with
  | some r =>
    let q := s.write r.1 r.2.1 (List.replicate r.2.2 0)
    (q.1, q.2.map fun a => (r.1, a))
  | none => f s

/-- Counts the uncorrectable unit that a status names (R109), found by a write that was not made. -/
def State.countFound (s : State) (st : Status) : State :=
  if st.code = 0x6001 then (s.touch (st.d0 / 2 ^ 28) (st.d0 % 2 ^ 16 * 2 ^ 32 + st.d1) 1).1 else s

/-- Reads of several ranges, in order; the first uncorrectable unit with its tier. -/
def State.touches (s : State) : List (Nat × Nat × Nat) → State × Option (Nat × Nat)
  | [] => (s, none)
  | (t, a, n) :: rs =>
    let r := s.touch t a n
    let q := r.1.touches rs
    (q.1, (r.2.map fun x => (t, x)) <|> q.2)

end Sys2Proof.Machine
end

