-- ==== Sys2Proof/Machine/Streams.lean ====
section
/-! DEFINITION. Descriptors as their words lay them out (R126, R180, R183, R400), boundary slots (R514), and the start of a
checkpoint stream (R520 to R523), which the end of a COMMIT can bring about (R488). -/

namespace Sys2Proof.Machine

/-- Divides rounding up. -/
def upDiv (a b : Nat) : Nat := (a + b - 1) / b

/-! ### Words of a descriptor -/

def wordAt (ws : List W) (i : Nat) : Nat := (ws.getD i 0).toNat

def wbits (ws : List W) (i hi lo : Nat) : Nat := bits (ws.getD i 0) hi lo

def wide (d : List W) (i : Nat) : Nat := wordAt d i + 2 ^ 32 * wordAt d (i + 1)

/-! ### Tensor descriptors (R126) -/

/-- No tensor, as an index. -/
def noTensor : Nat := 0xFFFF

/-- A tensor descriptor (R126). -/
structure Tensor where
  fmt      : Nat
  ndim     : Nat
  tier     : Nat
  metaTier : Nat
  sparse   : Bool
  spread   : Bool
  tr       : Nat
  tc       : Nat
  base     : Nat
  sizes    : List Nat
  strides  : List Nat
  metaAt   : Nat
  /-- Address of the descriptor. -/
  at_      : Nat := 0
deriving DecidableEq, Repr

def Tensor.size (t : Tensor) (d : Nat) : Nat := t.sizes.getD d 0

def Tensor.stride (t : Tensor) (d : Nat) : Nat := t.strides.getD d 0

/-- Bytes of the elements' widths, in half bytes (R48, R128). -/
def Tensor.halves (t : Tensor) : Nat := Fp.width t.fmt / 4

/-- The number of elements. -/
def Tensor.count (t : Tensor) : Nat := ((List.range t.ndim).map t.size).foldl (· * ·) 1

/-- Bytes of the whole tensor (R135). -/
def Tensor.byteCount (t : Tensor) : Nat := (t.count * t.halves + 1) / 2

def isMx (fmt : Nat) : Bool := fmt == 5

/-- Reads the fields of R126. -/
def tensorOf (ws : List W) (addr : Nat) : Tensor :=
  { fmt := wbits ws 0 27 24, ndim := wbits ws 0 23 21, tier := wbits ws 0 20 18, metaTier := wbits ws 0 17 15,
    sparse := wbits ws 0 14 14 == 1, spread := wbits ws 0 13 13 == 1, tr := wbits ws 0 9 5, tc := wbits ws 0 4 0,
    base := wordAt ws 1 + 2 ^ 32 * wordAt ws 2,
    sizes := (List.range 5).map fun d => wordAt ws (3 + 2 * d),
    strides := (List.range 5).map fun d => wordAt ws (4 + 2 * d),
    metaAt := wordAt ws 13 + 2 ^ 32 * wordAt ws 14, at_ := addr }

/-! ### Shards and tables (R180, R183, R400) -/

def sCtype (d : List W) : Nat := wbits d 0 27 26

def sRows (d : List W) : Nat := wordAt d 2

def sCols (d : List W) : Nat := wordAt d 3

/-- Parameters of a dense shard. -/
def sParams (d : List W) : Nat := sRows d * sCols d

def tLocal (d : List W) : Nat := wordAt d 3 + 2 ^ 32 * wbits d 4 7 0

def tFirst (d : List W) : Nat := wordAt d 5 + 2 ^ 32 * wbits d 6 7 0

def tDir (d : List W) : Nat := wordAt d 7 + 2 ^ 32 * wordAt d 8

structure Dir where
  loc    : Nat
  fmt    : Nat
  dual   : Bool
  dirty  : Bool
  heat   : Nat
  addr16 : Nat
deriving DecidableEq, Repr

def dirOf (v : Nat) : Dir :=
  { loc := v / 2 ^ 61 % 8, fmt := v / 2 ^ 59 % 4, dual := v / 2 ^ 58 % 2 == 1, dirty := v / 2 ^ 57 % 2 == 1,
    heat := v / 2 ^ 48 % 256, addr16 := v % 2 ^ 40 }

def dirAddr (d : List W) (row : Nat) : Nat := tDir d + 8 * (row - tFirst d)

def State.dir (s : State) (d : List W) (row : Nat) : Dir := dirOf (ofLe (s.peek 3 (dirAddr d row) 8))

def State.handle (s : State) (n : Nat) : Option Handle := s.erm.handles.find? fun h => h.n == n

/-! ### Boundary slots (R514) -/

def State.bndBase (s : State) : Nat := s.reg64 Reg.ckptBndLo Reg.ckptBndHi

def State.bndSlot (s : State) (i : Nat) : Nat := s.bndBase + i * 0x800000

/-- Word 0 of a slot's header; a header that cannot be read shows an empty slot (R45, assumption 83). -/
def State.bndWord (s : State) (i : Nat) : Nat := if s.good 3 (s.bndSlot i) 64 then s.word 3 (s.bndSlot i) else 0

/-- State of a boundary slot: 0 empty, 1 pending, 2 committed; empty while capture is disabled (R514, R534). -/
def State.bndState (s : State) (i : Nat) : Nat :=
  if s.bndBase = 0 then 0 else if s.bndWord i / 2 ^ 28 = 0xF then s.bndWord i / 2 ^ 26 % 4 else 0

def State.bndJob (s : State) (i : Nat) : Nat := s.bndWord i % 2 ^ 16

/-- The slot in a state, if one is. -/
def State.bndIn (s : State) (st : Nat) : Option Nat :=
  if s.bndState 0 = st then some 0 else if s.bndState 1 = st then some 1 else none

/-- Word i of a slot's header. -/
def State.bndHead (s : State) (slot i : Nat) : Nat := s.word 3 (s.bndSlot slot + 4 * i)

/-- Writes word 0 of a slot's header. -/
def State.setBnd (s : State) (i state efDone job : Nat) : State :=
  s.put 3 (s.bndSlot i) (leBytes 4 (0xF * 2 ^ 28 + state * 2 ^ 26 + efDone * 2 ^ 25 + job))

/-- Empties the pending slot of a job (R510, R517). -/
def State.dropPending (s : State) (job : Nat) : State :=
  match s.bndIn 1 with
  | some i => if s.bndJob i = job then s.setBnd i 0 0 job else s
  | none => s

/-- The pending slot of a step, if one is. -/
def State.pendingSlot (s : State) (job step : Nat) : Option Nat :=
  match s.bndIn 1 with
  | some i => if s.bndJob i = job ∧ s.bndHead i 1 = step then some i else none
  | none => none

/-- Empties the pending slot of a step (R406, R517). -/
def State.emptyPending (s : State) (job step : Nat) : State :=
  match s.pendingSlot job step with
  | some i => s.setBnd i 0 0 job
  | none => s

/-! ### The segments of a stream (R521, R523) -/

def CkPlan.job (p : CkPlan) : Nat := wbits p.words 0 15 0

def segMax : Nat := 64 * 2 ^ 20

/-- Pieces of at most 64 MiB of n bytes from an offset on. -/
def pieces (type item : Nat) : Nat → Nat → Nat → List CkSeg
  | 0, _, _ => []
  | k + 1, off, n => if n = 0 then [] else
    { type := type, item := item, off := off, len := min n segMax } :: pieces type item k (off + segMax) (n - segMax)

def piecesOf (type item off n : Nat) : List CkSeg := pieces type item (n / segMax + 1) off n

/-- Handles that a plan names (R521). -/
def CkPlan.handles (p : CkPlan) : List Nat := (List.range 256).filter fun n => wordAt p.words (8 + n / 32) / 2 ^ (n % 32) % 2 == 1

/-- Segments of a dense shard: master, both moments, working copy. -/
def shardSegs (pos : Nat) (d : List W) : List CkSeg :=
  if sCtype d = 2 then [] else
  let n := sParams d
  piecesOf 2 pos 0 (4 * n) ++ piecesOf 2 pos (4 * n) (8 * n) ++ piecesOf 2 pos (12 * n) (2 * n)

/-- Rows per range. -/
def rangeRows : Nat := 4096

/-- A range holds a dirty row. -/
def State.rangeDirty (s : State) (d : List W) (first n : Nat) : Bool :=
  (List.range n).any fun i => (s.dir d (tFirst d + first + i)).dirty

def State.rowSegs (s : State) (full : Bool) (handle : Nat) : List CkSeg :=
  match s.handle handle with
  | none => []
  | some h =>
    (List.range (upDiv (tLocal h.desc) rangeRows)).filterMap fun k =>
      let n := min rangeRows (tLocal h.desc - rangeRows * k)
      if full || s.rangeDirty h.desc (rangeRows * k) n then
        some { type := 4, item := handle, off := rangeRows * k, len := n }
      else none

/-- All segments in order. -/
def State.streamSegs (s : State) (p : CkPlan) (full : Bool) : List CkSeg :=
  [{ type := 1, item := 0, off := 0, len := 0x800000 }, { type := 5, item := 0, off := 0, len := 64 + 64 * p.handles.length }] ++
    (p.shards.zipIdx.flatMap fun q => shardSegs q.2 q.1) ++
    (p.efs.zipIdx.flatMap fun q => piecesOf 3 q.2 0 (tensorOf q.1 0).byteCount) ++
    p.handles.flatMap (s.rowSegs full)

/-! ### The start of a stream (R488, R520, R522) -/

/-- CKPT.CFG.share; 0 is taken as 1 (R534). -/
def State.ckptShare (s : State) : Nat := max 1 (s.fld F.ckptShare)

/-- What a stream needs: a buddy, a plan, a committed slot (R522). -/
def State.streamReady (s : State) : Option (CkPlan × Nat) :=
  match s.ck.plan, s.bndIn 2 with
  | some p, some i => if s.flag F.buddyValid then some (p, i) else none
  | _, _ => none

/-- A stream starts (R520, R522, R523). -/
def State.startStream (s : State) (p : CkPlan) (slot : Nat) (full : Bool) (cmd : Option CmdId) : State :=
  let full := full || s.flag F.fullNext
  let todo := s.streamSegs p full
  let k : CkStream := { cmd := cmd, full := full, step := s.bndHead slot 1, job := p.job, nextMb := s.bndHead slot 2,
                        stime := s.tb.stime, share := s.ckptShare, todo := todo }
  ({ s with ck := { s.ck with stream := some k } }).setFld F.ckptActive 1

/-- A request of the Health Monitor (R488, R522): merged with a running stream or restore, or served, or refused with a
record. -/
def State.serveRequest (s : State) : State :=
  let s := { s with safe := { s.safe with ckptReq := false } }
  if s.ck.stream.isSome || s.ck.restore.isSome then s
  else match s.streamReady with
    | some (p, i) => s.startStream p i false none
    | none => s.event 0 0 0x0B03 1

end Sys2Proof.Machine
end

