-- ==== Sys2Proof/Machine/Ops.lean ====
section
/-! DEFINITION. The operations every command shares: finding and changing accepted commands, interrupts (R98, R549),
status replies (R106 to R108), the Ledger (R111 to R113), completing a command, and when a command may run. -/

namespace Sys2Proof.Machine

/-- The answer of a meaning: a fault when an access went to an address that does not exist, else the next state. -/
def fin (s : State) : Host.Outcome State Fault Refusal :=
  match s.trap with
  | none => .next s
  | some f => .fault f

/-! ### Lists -/

/-- Puts an element after those it does not come before. -/
def insBy (le : α → α → Bool) (a : α) : List α → List α
  | [] => [a]
  | b :: bs => if le b a then b :: insBy le a bs else a :: b :: bs

/-- Sorts by an order, keeping equal elements in their order. -/
def sortBy (le : α → α → Bool) (l : List α) : List α := l.foldl (fun acc a => insBy le a acc) []

def sortNat (l : List Nat) : List Nat := sortBy (fun a b => decide (a ≤ b)) l

/-! ### Codes -/

namespace Dev
def off := 0
def standby := 1
def boot := 2
def ready := 3
def running := 4
def quiesced := 5
def resetting := 6
def retired := 7
def failsafe := 8
end Dev

namespace TbSt
def free := 0
def acquiring := 1
def locked := 2
def holdover := 3
def unsync := 4
def fault := 5
end TbSt

/-! Status codes (R109). -/

namespace St
def ok := 0x0000
def partialDone := 0x1001
def truncated := 0x1002
def oldVersion := 0x1003
def skipped := 0x1004
def badRing := 0x2001
def seqGap := 0x2002
def seqDup := 0x2003
def badOpcode := 0x2004
def badLength := 0x2005
def badFlags := 0x2006
def badReserved := 0x2007
def badDoorbell := 0x2008
def outOfRange := 0x3001
def format := 0x3002
def badDescriptor := 0x3003
def metaCount := 0x3004
def metaRange := 0x3005
def resourceBusy := 0x4001
def resourceHeld := 0x4002
def timeout := 0x4003
def unsyncTime := 0x5001
def lateInstant := 0x5002
def timeRole := 0x5003
def uncorrectable := 0x6001
def metaCrc := 0x6002
def checksum := 0x6003
def digest := 0x6004
def cursor := 0x6005
def poisoned := 0x7001
def noCommit := 0x7002
def twinMismatch := 0x7003
def jobAbort := 0x8001
def quenched := 0x8002
def ringAbort := 0x8003
def unreachable := 0x9001
def modeLocked := 0xA001
def testRefused := 0xA002
def signature := 0xA003
def lockstep := 0xB001
end St

def okStatus : Status := ⟨0, 0, 0⟩

/-- OUT_OF_RANGE that names an operand word (R109). -/
def oor (word : Nat) : Status := ⟨St.outOfRange, word, 0⟩

/-- UNCORRECTABLE with the tier code and address as R109 lays them out. -/
def uncorrAt (tier addr : Nat) : Status :=
  ⟨St.uncorrectable, tier * 2 ^ 28 + addr / 2 ^ 32 % 2 ^ 16, addr % 2 ^ 32 / 64 * 64⟩

/-- detail1 of a reply whose resource no command holds (R145). -/
def noHolder : Nat := 0xFFFFFFFF

/-- RESOURCE_BUSY and RESOURCE_HELD for a resource of package scope: `holder` is a ring (R145). -/
def busy (id : Nat) (holder : Nat := noHolder) : Status := ⟨St.resourceBusy, id * 2 ^ 16 + 0xFFFF, holder⟩
def heldBy (id holder : Nat) : Status := ⟨St.resourceHeld, id * 2 ^ 16 + 0xFFFF, holder⟩
/-! ### Device state -/

/-- What leaves the device's pins. -/
def State.emit (s : State) (o : Out) : State := { s with out := o :: s.out }

/-- Changes the device state of R499 and tells the I3C host of the change (R558). -/
def State.setDev (s : State) (v : Nat) : State :=
  if s.fld F.devState = v then s else (s.setFld F.devState v).emit (.ibi 1)

/-- The opcodes each state accepts (R499). -/
def accepts (dev opcode : Nat) : Bool :=
  match dev with
  | 3 => true
  | 4 => true
  | 5 => opcode / 16 == 0 || opcode / 16 == 0xA || [0x92, 0x95, 0x96, 0x74, 0x77, 0x78].contains opcode
  | 7 => opcode / 16 == 0 || opcode == 0xA2 || opcode == 0x75
  | _ => false

/-- The state has main supply: its registers and memories live. -/
def State.powered (s : State) : Bool := s.fld F.devState != Dev.off && s.fld F.devState != Dev.standby

/-- The management port takes frames: from BOOT on, while it is in use (R555). -/
def State.mgmtLive (s : State) : Bool := s.powered && s.flag F.mgmtEnable

/-- A frame that the management port discards (R555). -/
def State.dropFrame (s : State) : State := s.bump (cnt Reg.mgmtDrop)

def State.attested (s : State) : Bool := s.flag F.attested

/-! ### Accepted commands -/

def State.findCmd (s : State) (c : CmdId) : Option Cmd := s.cmds.find? fun m => decide (m.id = c)

def State.mapCmd (s : State) (c : CmdId) (f : Cmd → Cmd) : State :=
  { s with cmds := s.cmds.map fun m => if m.id = c then f m else m }

def State.dropCmd (s : State) (c : CmdId) : State :=
  { s with cmds := s.cmds.filter fun m => decide (m.id ≠ c) }

/-- Accepted commands, with those that have completed while operations of theirs run on. -/
def State.busyCmds (s : State) : List Cmd := s.cmds ++ s.spent

/-- An operation of the command runs. -/
def Cmd.busy (m : Cmd) : Bool := m.ops.any fun o => o.stage == .issued

/-- A command that has completed keeps its issued operations, which run on; its others never issue (R138, R502). -/
def State.retire (s : State) (m : Cmd) : State :=
  let ended := { m with ops := m.ops.map fun o => if o.stage = .waiting then { o with stage := .done, failed := true } else o }
  if m.busy then { s with spent := s.spent ++ [ended] } else s

/-- Runs what an operation does: of a command that has completed, with the command among the accepted ones meanwhile, where it
can no longer complete. -/
def State.onSpent (s : State) (c : CmdId) (f : State → State) : State :=
  if (s.findCmd c).isSome then f s else
  match s.spent.find? fun m => decide (m.id = c) with
  | none => f s
  | some m =>
    let t := f { s with cmds := s.cmds ++ [m], spent := s.spent.filter fun o => decide (o.id ≠ c), spentRun := some c }
    let left := (t.cmds.filter fun o => decide (o.id = c)).filter Cmd.busy
    { t with cmds := t.cmds.filter fun o => decide (o.id ≠ c), spent := t.spent ++ left, spentRun := none }

def Cmd.word (m : Cmd) (i : Nat) : Nat := (m.words.getD i 0).toNat

/-- Bits [hi:lo] of a packet word. -/
def Cmd.bits (m : Cmd) (i hi lo : Nat) : Nat := Machine.bits (m.words.getD i 0) hi lo

def Cmd.fence (m : Cmd) : Bool := m.flags / 8 % 2 == 1
def Cmd.sched (m : Cmd) : Bool := m.flags / 4 % 2 == 1
def Cmd.irq (m : Cmd) : Bool := m.flags / 2 % 2 == 1
def Cmd.quiet (m : Cmd) : Bool := m.flags % 2 == 1

/-- The fence of R98: every earlier accepted command of the ring has completed. -/
def State.fenceOk (s : State) (m : Cmd) : Bool :=
  !m.fence || s.cmds.all fun o => !(o.id.ring == m.id.ring && decide (o.order < m.order))

/-- Where a slot's aux says that it waits for its external trigger. -/
def slotWaitAt : Nat := 18

/-- A slot that waits for its external trigger: its launch timer has fired (R385). -/
def Cmd.waitsTrigger (m : Cmd) : Bool := m.opcode == 0x80 && m.phase == .armed && m.aux.getD slotWaitAt 0 == 1

/-- Scheduled commands that have neither taken effect nor ended hold their launch timers (R85, R143); a slot that waits for its
trigger holds its own until it launches or ends (R380; assumption 77). -/
def State.timerHolders (s : State) : List Cmd := s.cmds.filter fun m => m.sched && m.phase != .running

def State.timers (s : State) : Nat := s.timerHolders.length

/-! ### Interrupts -/

def portKey (port off : Nat) : Nat := port * 2 ^ 26 + off

def portReset (k : Nat) : W := regReset (k % 2 ^ 26)

def State.portReg (s : State) (port off : Nat) : W := Tab.get portReset s.portRegs (portKey port off)

def State.setPortReg (s : State) (port off : Nat) (v : W) : State :=
  { s with portRegs := Tab.put portReset s.portRegs (portKey port off) v }

/-- Raises an MSI-X vector on a host port, or on the other port while its link is down (R550). A masked entry sets its
pending bit instead (R572, assumption 6). -/
def State.raise (s : State) (port vector : Nat) : State :=
  let port := if s.board.linkUp.getD port false then port else 1 - port
  if bits (s.portReg port (0x10000C + 16 * vector)) 0 0 = 1 then
    let o := 0x108000 + vector / 32 * 4
    s.setPortReg port o (s.portReg port o ||| BitVec.ofNat 32 (2 ^ (vector % 32)))
  else s.emit (.msix port vector)

/-! ### Status replies -/

/-- The eight words of a reply (R106). -/
def replyWords (s : State) (ring seq opcode arith progress : Nat) (st : Status) (phase : Nat) : List W :=
  [BitVec.ofNat 32 (st.code * 2 ^ 16 + seq % 2 ^ 16),
   BitVec.ofNat 32 (opcode * 2 ^ 24 + arith * 2 ^ 16 + ring),
   BitVec.ofNat 32 s.tb.stime, BitVec.ofNat 32 (s.tb.stime / 2 ^ 32),
   BitVec.ofNat 32 progress, BitVec.ofNat 32 st.d0, BitVec.ofNat 32 st.d1, BitVec.ofNat 32 phase]

def cqDefault (_ : Nat) : CqX := {}
def ringDefault (_ : Nat) : RingX := {}

def State.cqx (s : State) (n : Nat) : CqX := Tab.get cqDefault s.cqs n
def State.setCqx (s : State) (n : Nat) (x : CqX) : State := { s with cqs := Tab.put cqDefault s.cqs n x }
def State.ringx (s : State) (n : Nat) : RingX := Tab.get ringDefault s.rings n
def State.setRingx (s : State) (n : Nat) (x : RingX) : State := { s with rings := Tab.put ringDefault s.rings n x }

/-- Whether a completion ring takes a reply now (R108). -/
def State.cqOpen (s : State) (q : Nat) : Bool :=
  let x := s.cqx q
  s.flag (F.cqEnable q) && decide ((x.prod - x.cons).toNat < 2 ^ s.fld (F.cqLog2 q))

/-- The address of the next entry of a completion ring (R93, R122). -/
def State.cqSlot (s : State) (q : Nat) : Nat :=
  s.reg64 (Reg.cq q) (Reg.cq q + 4) + (s.cqx q).prod.toNat % 2 ^ s.fld (F.cqLog2 q) * 32

/-- Writes a reply to a completion ring (R107), or counts it lost (R108); `irq` asks for the ring's vector (R98). -/
def State.postReply (s : State) (q ring seq opcode arith progress : Nat) (st : Status) (irq : Bool) : State :=
  if !s.cqOpen q then (s.setFld (F.cqOverflow q) 1).bump (F.cqLost q) else
  let x := s.cqx q
  let phase := 1 - x.prod.toNat / 2 ^ s.fld (F.cqLog2 q) % 2
  let tier := if s.fld (F.cqTier q) = 1 then 3 else 5
  let s1 := (s.put tier (s.cqSlot q) (wordBytes (replyWords s ring seq opcode arith progress st phase))).setCqx q
    { x with prod := x.prod + 1 }
  if irq && s1.flag (F.cqIrqEn q) then s1.raise (s1.fld (F.cqPort q)) (s1.fld (F.cqVector q)) else s1

/-- Answers a packet of a ring: on its completion ring, or in a frame of the management port, where the phase bit, which no pass
over a ring gives, is 0 (R118; DESIGN CHOICE, assumption 94). -/
def State.answer (s : State) (ring seq opcode arith progress : Nat) (st : Status) (irq : Bool)
    (frame : Option (BitVec 48)) : State :=
  match frame with
  | some dst => s.emit (.replyFrame dst (replyWords s ring seq opcode arith progress st 0))
  | none => s.postReply (s.fld (F.ringCq ring)) ring seq opcode arith progress st irq

/-! ### The Ledger -/

/-- The Ledger entry of a sequence number (R111, R119). -/
def State.ledgerAddr (s : State) (ring seq : Nat) : Nat :=
  s.fld (F.ledgerBase ring) * 4096 + seq % 2 ^ s.fld (F.ledgerLog2 ring) * 32

/-- The eight words of a Ledger entry (R111). -/
def ledgerWords (m : Cmd) (status : Nat) (endAt : Nat) : List W :=
  [BitVec.ofNat 32 (m.id.seq * 2 ^ 16 + status), BitVec.ofNat 32 m.start, BitVec.ofNat 32 (m.start / 2 ^ 32),
   BitVec.ofNat 32 endAt, BitVec.ofNat 32 (endAt / 2 ^ 32), BitVec.ofNat 32 m.done, BitVec.ofNat 32 m.total,
   BitVec.ofNat 32 (m.opcode * 2 ^ 24 + m.flags * 2 ^ 20 + m.arith.bits * 2 ^ 10)]

/-- Writes a command's Ledger entry; the answer is the line that it finds uncorrectable, whose entry stays unwritten (R45,
R585). -/
def State.journalled (s : State) (m : Cmd) (status endAt : Nat) : State × Option Nat :=
  s.write 3 (s.ledgerAddr m.id.ring m.id.seq) (wordBytes (ledgerWords m status endAt))

def State.journal (s : State) (m : Cmd) (status endAt : Nat) : State := (s.journalled m status endAt).1

/-- The Ledger shows the command started (R112). -/
def State.begin (s : State) (c : CmdId) : State :=
  match s.findCmd c with
  | none => s
  | some m =>
    if m.start ≠ 0 then s else
    let m' := { m with start := if m.phase = .checking then max 1 s.tb.stime else s.tb.stime, phase := .running }
    (s.mapCmd c fun _ => m').journal m' 0xFFFF 0

/-- Sets a command's progress marker, which never decreases (R113). -/
def State.progress (s : State) (c : CmdId) (n : Nat) : State :=
  s.mapCmd c fun m => { m with done := max m.done (min n m.total) }

/-! ### Completing a command -/

/-- Locks or unlocks a routing bank; FAB.RT_STATUS shows whether one is locked (R446, R466). -/
def State.setLock (s : State) (b : Nat) (on : Bool) : State :=
  let l := s.fab.locks.set b on
  ({ s with fab := { s.fab with locks := l } }).setFld F.rtLock (l.any id).toNat

/-- A packet kept for a receive of a transfer, whose blocks are not complete (R452, R586). -/
def Cmd.keepsPiece (m : Cmd) (p : Pkt) : Bool :=
  m.opcode == 0x94 && p.src == m.bits 6 31 16 && (match p.body with
    | .xferData tag _ _ => tag == m.words.getD 7 0
    | _ => false)

/-- An ended command's lock of a routing bank (R446). -/
def State.unlockBank (s : State) (m : Cmd) : State :=
  if m.opcode = 0x91 ∧ m.phase = .armed ∧ m.aux = [1] then s.setLock (m.bits 4 0 0) false else s

/-- What an ended command no longer holds: the lock of a staged version (R239), the lock of a
routing bank (R446), a buddy's answer (R519), a restore (R528), the packets of a receive (R586). -/
def State.letGo (s : State) (m : Cmd) : State :=
  let free := fun (h : Handle) =>
    if m.opcode = 0x3A ∧ h.n = m.bits 4 15 8 ∧ h.locked = some m.id.ring then { h with locked := none } else h
  let s := s.unlockBank m
  { s with erm := { s.erm with handles := s.erm.handles.map free }
           fab := { s.fab with pieces := s.fab.pieces.filter fun p => !m.keepsPiece p }
           ck := { s.ck with asking := s.ck.asking.filter fun c => decide (c ≠ m.id)
                             restore := s.ck.restore.filter fun r => decide (r.cmd ≠ m.id) } }

/-- The Cellar line of a command's reply, where the write of the reply would find it uncorrectable (R107, R585). -/
def State.replyBlocked (s : State) (m : Cmd) (st : Status) : Option Nat :=
  let q := s.fld (F.ringCq m.id.ring)
  let a := s.cqSlot q
  if m.frame.isNone && !(m.quiet && st.code == St.ok) && s.cqOpen q && s.fld (F.cqTier q) == 1 && s.blocked 3 a 32 then
    some (a / 64 * 64)
  else none

/-- A success whose Ledger entry or reply cannot be written is UNCORRECTABLE (R473, R585). -/
def ledgerStatusOf (st : Status) : Option Nat → Status
  | some a => if st.code / 2 ^ 12 < 2 then uncorrAt 3 a else st
  | none => st

/-- What the end of a COMMIT brings: the slot that it took and that has not been committed is empty (R517), and a waiting request
of the Health Monitor is served (R488). -/
def State.afterCommit (s : State) (m : Cmd) : State :=
  if m.opcode ≠ 0x60 then s else
  let s := if m.aux.getD 1 0 = 0 then s else s.emptyPending m.job (m.words.getD 9 0).toNat
  if s.safe.ckptReq then s.serveRequest else s

/-- Ends a command: its Ledger entry takes marker, status and end together (R112); its reply is written unless quiet
and OK (R98, R107); its claims and launch timer are free (R143); its issued operations run on (R138); the device is READY once
no command is left (R501); the end of a COMMIT has its effects (R488, R517). A command that has ended, whose operation runs, ends no more. -/
def State.complete (s : State) (c : CmdId) (st : Status) : State :=
  if s.spentRun = some c then s else
  match s.findCmd c with
  | none => s
  | some m =>
    let st := ledgerStatusOf st (s.replyBlocked m st)
    let m := if st.code = St.ok ∨ st.code / 2 ^ 12 = 1 then { m with done := m.total } else m
    let j := s.journalled m st.code s.tb.stime
    let st := ledgerStatusOf st j.2
    let s := ((j.1.dropCmd c).retire m).letGo m
    let s := s.setRingx c.ring { s.ringx c.ring with lastDone := some c.seq }
    let s := if m.quiet && st.code == St.ok then s
      else s.answer c.ring c.seq m.opcode m.arith.bits m.done st m.irq m.frame
    (if s.cmds.isEmpty && s.fld F.devState == Dev.running then s.setDev Dev.ready else s).afterCommit m

/-- Ends a command that fails a check of its chapter: it has issued no work, so its Ledger entry shows no start (R112,
R584). -/
def State.refuse (s : State) (c : CmdId) (st : Status) : State :=
  (s.mapCmd c fun m => { m with start := 0 }).complete c st

/-- Ends a command that has met a flagged result: its flags are gathered first (R70). -/
def State.addFlags (s : State) (c : CmdId) (f : Flags) : State :=
  s.mapCmd c fun m => { m with arith := m.arith.or f }

/-- Ends a command without reply and without Ledger change (R532). -/
def State.vanish (s : State) (c : CmdId) : State := s.dropCmd c

/-! ### When a command runs -/

/-- Nothing holds back a command's work: it has not run yet and its fence is satisfied (R98; a scheduled command's counts at
its instant, R588); or the command is at its checks, which no fence holds back (R584). -/
def State.released (s : State) (m : Cmd) : Bool :=
  m.phase == .checking || (m.phase == .accepted && (m.sched || s.fenceOk m))

/-- The accepted command that a row of the table runs: it has the row's opcode, nothing holds back its work, and the device
state lets it run (R499, R502). -/
def State.runnable (s : State) (c : CmdId) (opcode : Nat) : Option Cmd :=
  match s.findCmd c with
  | none => none
  | some m =>
    if m.opcode = opcode ∧ s.released m = true ∧ accepts (s.fld F.devState) opcode = true then some m else none

/-- Runs a row's command: nothing changes unless it is runnable (assumption 1). -/
def State.run (s : State) (c : CmdId) (opcode : Nat) (f : Cmd → State → State) : State :=
  match s.runnable c opcode with
  | none => s
  | some m => f m (s.begin c)

/-- Runs a command whose checks give its status at once. -/
def State.runTo (s : State) (c : CmdId) (opcode : Nat) (f : Cmd → State → State × Status) : State :=
  s.run c opcode fun m s => let r := f m s; if r.2.code / 2 ^ 12 < 2 then r.1.complete c r.2 else r.1.refuse c r.2

/-- A scheduled command waits for its instant with a launch timer (R85). -/
def State.arm (s : State) (c : CmdId) : State := s.mapCmd c fun m => { m with phase := .armed }

/-- The commands of a job, oldest first. -/
def State.jobCmds (s : State) (job : Nat) : List Cmd := s.cmds.filter fun m => m.job == job

/-- Completes several commands. -/
def State.completeAll (s : State) (cs : List CmdId) (st : Status) : State :=
  cs.foldl (fun s c => s.complete c st) s

end Sys2Proof.Machine
end

