-- ==== Sys2Proof/Machine/Operands.lean ====
section
/-! DEFINITION. Operand forms: descriptor pointers (R124, R125), tensor descriptors and their checks (R126 to R130, R302,
R303), the elements of a tensor and their reading and writing (R52, R59, R586), layer programs (R131, R132). -/

namespace Sys2Proof.Machine

open Fp

/-! ### Descriptor pointers -/

/-- A descriptor pointer held in two words: tier field and address (R124). -/
structure DPtr where
  tier : Nat
  addr : Nat
deriving DecidableEq, Repr

def dptr (lo hi : W) : DPtr := ⟨hi.toNat / 2 ^ 30, (lo.toNat + hi.toNat * 2 ^ 32) % 2 ^ 62 / 64 * 64⟩

/-- The tier code of R127 that a pointer's tier field names. -/
def DPtr.code (p : DPtr) : Nat := if p.tier = 0 then 5 else 3

/-- Whether a pointer's block of n bytes breaks R124. -/
def DPtr.bad (p : DPtr) (n : Nat) : Bool := decide (2 ≤ p.tier) || (p.tier == 1 && decide (cellarEnd < p.addr + n))

def Cmd.ptr (m : Cmd) (w : Nat) : DPtr := dptr (m.words.getD w 0) (m.words.getD (w + 1) 0)

/-- The captured bytes of a range, with whether their read failed. -/
def Cmd.capBytes (m : Cmd) (tier addr n : Nat) : Option (List Byte × Bool) :=
  (m.cap.find? fun b => b.tier == tier && decide (b.addr ≤ addr) && decide (addr + n ≤ b.addr + b.bytes.length)).map
    fun b => ((b.bytes.drop (addr - b.addr)).take n, b.failed)

/-- The words of a block a pointer names, as captured at acceptance; `w` is the operand word that detail0 names. -/
def Cmd.block (m : Cmd) (w : Nat) (p : DPtr) (n : Nat) : Except Status (List W) :=
  if p.bad n then .error (oor w) else
  match m.capBytes p.code p.addr n with
  | some (bs, false) => .ok (bytesWords (n / 4) bs)
  | some (_, true) => .error (uncorrAt p.code p.addr)
  | none => .error (oor w)

/-- BAD_DESCRIPTOR with the descriptor's address (R109, R130). -/
def badDesc (addr : Nat) : Status := ⟨St.badDescriptor, addr % 2 ^ 32, addr / 2 ^ 32⟩

/-- FORMAT with the operand word and the code (R109). -/
def badFormat (word code : Nat) : Status := ⟨St.format, word, code⟩

/-- Fails a check. -/
def need (ok : Bool) (st : Status) : Except Status Unit := if ok then .ok () else .error st

/-! ### Tensor descriptors -/

/-- Whether a reserved bit of an address form is set (R127). -/
def badForm (tier addr : Nat) : Bool :=
  match tier with
  | 0 => decide (2 ^ 32 ≤ addr)
  | 1 => decide (2 ^ 30 ≤ addr)
  | 2 => decide (2 ^ 30 ≤ addr)
  | _ => false

/-- The largest offset, in elements, within one tile of a spread tensor, or within the tensor. -/
def Tensor.maxOff (t : Tensor) : Nat :=
  let n := if t.spread then t.ndim - 1 else t.ndim
  ((List.range n).map fun d => (t.size d - 1) * t.stride d).foldl (· + ·) 0

/-- Bytes from the base to the highest byte addressed, inclusive (R128). -/
def Tensor.span (t : Tensor) : Nat :=
  if isMx t.fmt then t.maxOff / 2 + 1 else t.maxOff * (t.halves / 2) + t.halves / 2

/-- Bytes of a tile's memory in an address form (R127, R129). -/
def tileShift (tier : Nat) : Nat := if tier = 0 then 18 else 16

/-- The base of outermost index i of a spread tensor (R129). -/
def State.spreadBase (s : State) (t : Tensor) (i : Nat) : Nat :=
  let sh := tileShift t.tier
  s.nthTile (s.tileRank (t.base / 2 ^ sh) + i) * 2 ^ sh + t.base % 2 ^ sh

/-- Weight tiles of a sparse tensor along K and along N (R303). -/
def Tensor.kb (t : Tensor) : Nat := (t.size 1 + 31) / 32
def Tensor.nb (t : Tensor) : Nat := (t.size 0 + 31) / 32

/-- The checks of R130 in their order, with R49, R59, R302 and R303; `word` is the operand word that holds the pointer,
`mayBeSparse` whether R302 lets the tensor be sparse here. -/
def State.checkTensor (s : State) (word : Nat) (ws : List W) (t : Tensor) (mayBeSparse : Bool) : Except Status Unit := do
  let usesMeta := isMx t.fmt || t.sparse
  need (wbits ws 0 31 28 == 1 && wbits ws 0 12 10 == 0 && wordAt ws 15 == 0 && decide (1 ≤ t.ndim) &&
    decide (t.ndim ≤ 5) && decide (t.tier < 6) && decide (t.metaTier < 6) && !badForm t.tier t.base &&
    !(usesMeta && badForm t.metaTier t.metaAt)) (badDesc t.at_)
  need (decide (t.fmt < 8) && !(isMx t.fmt && t.size 0 % 32 != 0)) (badFormat word t.fmt)
  need (((List.range 5).all fun d =>
      if d < t.ndim then t.size d != 0 else t.size d == 0 && t.stride d == 0) && (usesMeta || t.metaAt == 0))
    (badDesc t.at_)
  need (t.base % (if isMx t.fmt then 16 else max 1 (t.halves / 2)) == 0) (badDesc t.at_)
  if t.sparse then do
    need (t.fmt == 1) (badFormat word t.fmt)
    need (t.tr == 31 && t.tc == 31 && mayBeSparse && t.ndim == 2 && t.tier == 3 && t.metaTier == 3 &&
      t.stride 0 == 0 && t.stride 1 == 0 && t.base % 64 == 0 && t.metaAt % 8 == 0) (badDesc t.at_)
    need (s.hasRange 3 t.base (2304 * t.kb * t.nb) && s.hasRange 3 t.metaAt (8 * t.kb * t.nb) && !t.spread) (oor word)
  else do
    if t.spread then do
      let n := t.size (t.ndim - 1)
      need (decide (t.tier < 2) && t.stride (t.ndim - 1) == 0 && s.validTile (t.base / 2 ^ tileShift t.tier) &&
        decide (s.tileRank (t.base / 2 ^ tileShift t.tier) + n ≤ s.tileCount)) (oor word)
      need ((List.range n).all fun i => s.hasRange t.tier (s.spreadBase t i) t.span) (oor word)
    else need (s.hasRange t.tier t.base t.span) (oor word)
    if isMx t.fmt then need (s.hasRange t.metaTier t.metaAt (t.count / 32)) (oor word)

/-- The tensor that a pointer in a command's words names, checked. -/
def State.tensorArg (s : State) (m : Cmd) (w : Nat) (mayBeSparse : Bool := false) : Except Status Tensor := do
  let p := m.ptr w
  let ws ← m.block w p 64
  let t := tensorOf ws p.addr
  s.checkTensor w ws t mayBeSparse
  pure t

/-! ### Elements -/

/-- The index along each dimension of a linear index, dimension 0 fastest. -/
def coords : List Nat → Nat → List Nat
  | [], _ => []
  | n :: ns, i => i % max 1 n :: coords ns (i / max 1 n)

def Tensor.coord (t : Tensor) (i : Nat) : List Nat := coords ((List.range t.ndim).map t.size) i

/-- Offset of an element in elements, and the base it counts from (R128, R129). -/
def State.place (s : State) (t : Tensor) (c : List Nat) : Nat × Nat :=
  let n := if t.spread then t.ndim - 1 else t.ndim
  let off := ((List.range n).map fun d => c.getD d 0 * t.stride d).foldl (· + ·) 0
  (if t.spread then s.spreadBase t (c.getD (t.ndim - 1) 0) else t.base, off)

/-- Byte address of an element; for MXFP4 the byte that holds it (R59). -/
def State.elemAddr (s : State) (t : Tensor) (c : List Nat) : Nat :=
  let p := s.place t c
  if isMx t.fmt then p.1 + p.2 / 2 else p.1 + p.2 * (t.halves / 2)

/-- Linear index of coordinates. -/
def Tensor.lin (t : Tensor) (c : List Nat) : Nat :=
  ((List.range t.ndim).reverse).foldl (fun a d => a * t.size d + c.getD d 0) 0

/-- Address of the scale byte of an MXFP4 element's block (R59). -/
def Tensor.scaleAddr (t : Tensor) (c : List Nat) : Nat := t.metaAt + t.lin c / 32

/-- The stored bits of an element. -/
def State.elemBits (s : State) (t : Tensor) (c : List Nat) : Nat :=
  let a := s.elemAddr t c
  if isMx t.fmt then
    let b := ofLe (s.peek t.tier a 1)
    if (s.place t c).2 % 2 = 0 then b % 16 else b / 16
  else ofLe (s.peek t.tier a (t.halves / 2))

/-- The value of an element (R54, R55, R60). -/
def State.elem (s : State) (t : Tensor) (c : List Nat) : Val :=
  decode t.fmt (s.elemBits t c) (if isMx t.fmt then ofLe (s.peek t.metaTier (t.scaleAddr c) 1) else 0)

/-- The ranges that reading elements reads: the elements' tier, and the metadata tier for MXFP4. -/
def State.elemRanges (s : State) (t : Tensor) (cs : List (List Nat)) : List (Nat × Nat) :=
  cs.map fun c => (s.elemAddr t c, max 1 (t.halves / 2))

/-- Checks the memory under elements about to be read (R45, R473): tier and address of an uncorrectable unit. -/
def State.touchElems (s : State) (t : Tensor) (cs : List (List Nat)) : State × Option (Nat × Nat) :=
  let r := s.touchSet t.tier (s.elemRanges t cs)
  let q := if isMx t.fmt then r.1.touchSet t.metaTier (cs.map fun c => (t.scaleAddr c, 1)) else (r.1, none)
  (q.1, (r.2.map fun a => (t.tier, a)) <|> q.2.map fun a => (t.metaTier, a))

/-- Writes elements' bits in the given order (not MXFP4), all or none. -/
def State.writeElems (s : State) (t : Tensor) (es : List (List Nat × Nat)) : State × Option (Nat × Nat) :=
  let ws := coalesce (es.map fun e => (s.elemAddr t e.1, leBytes (t.halves / 2) e.2))
  s.together (ws.map fun w => (t.tier, w.1, w.2.length)) fun s =>
    let r := s.writes t.tier ws
    (r.1, r.2.map fun a => (t.tier, a))

/-- Replaces one nibble of a byte. -/
def putNibble (b : Byte) (high : Bool) (v : Nat) : Byte :=
  if high then BitVec.ofNat 8 (b.toNat % 16 + v % 16 * 16) else BitVec.ofNat 8 (b.toNat / 16 * 16 + v % 16)

/-- A block of an MXFP4 tensor to be written: coordinates of its first element, codes, scale byte. -/
structure Block where
  first : List Nat
  codes : List Nat
  scale : Nat
deriving DecidableEq, Repr

/-- The element bytes of a block: addresses and contents. -/
def State.blockBytes (s : State) (t : Tensor) (b : Block) : List (Nat × List Byte) :=
  let cell := fun (i : Nat) => b.first.set 0 (b.first.getD 0 0 + i)
  let bytes := (List.range 32).foldl (fun (m : List (Nat × Byte)) i =>
    let a := s.elemAddr t (cell i)
    let odd := (s.place t (cell i)).2 % 2 == 1
    let old := match m.find? fun e => e.1 == a with | some e => e.2 | none => s.byte t.tier a
    (m.filter fun e => e.1 != a) ++ [(a, putNibble old odd (b.codes.getD i 0))]) []
  coalesce (bytes.map fun e => (e.1, [e.2]))

/-- Writes the 32 element codes and the scale byte of one block. -/
def State.putBlock (s : State) (t : Tensor) (b : Block) : State × Option (Nat × Nat) :=
  let r := s.writes t.tier (s.blockBytes t b)
  let q := r.1.write t.metaTier (t.scaleAddr b.first) [BitVec.ofNat 8 b.scale]
  (q.1, (r.2.map fun a => (t.tier, a)) <|> q.2.map fun a => (t.metaTier, a))

/-- Writes blocks, each with its scale byte (R586), all or none. -/
def State.writeBlocks (s : State) (t : Tensor) (bs : List Block) : State × Option (Nat × Nat) :=
  let rs := bs.flatMap fun b => (s.blockBytes t b).map (fun w => (t.tier, w.1, w.2.length)) ++ [(t.metaTier, t.scaleAddr b.first, 1)]
  s.together rs fun s => bs.foldl (fun acc b =>
    let r := acc.1.putBlock t b
    (r.1, acc.2 <|> r.2)) (s, none)

/-- Writes the 32 element codes and the scale byte of one block together (R586). -/
def State.writeBlock (s : State) (t : Tensor) (first : List Nat) (codes : List Nat) (scaleByte : Nat) :
    State × Option (Nat × Nat) := s.writeBlocks t [⟨first, codes, scaleByte⟩]

/-- Groups of 32 for the blocks of an MXFP4 row. -/
def groups (n : Nat) : Nat → List α → List (List α)
  | 0, _ => []
  | k + 1, l => match l with
    | [] => []
    | _ => l.take n :: groups n k (l.drop n)

/-- The whole blocks of elements that are consecutive in linear order; a block that they cover in part is left out (R586). -/
def wholeGroups (es : List (List Nat × α)) : List (List (List Nat × α)) :=
  (groups 32 (es.length / 32 + 1) es).filter fun g => g.length == 32

/-- Writes values into elements that are consecutive in linear order, converting each under R56 in the mode it carries;
MXFP4 elements come in whole blocks (R58, R586). -/
def State.writeVals (s : State) (t : Tensor) (es : List (List Nat × Val × Mode)) : State × Option (Nat × Nat) × Flags :=
  if isMx t.fmt then
    let gs := (wholeGroups es).map fun g => ((g.head?.map (·.1)).getD [], toMxBlock (g.map fun e => e.2))
    let r := s.writeBlocks t (gs.map fun g => ⟨g.1, g.2.1, g.2.2.1⟩)
    (r.1, r.2, Flags.all (gs.map fun g => g.2.2.2))
  else
    let cv := es.map fun e => (e.1, convert t.fmt e.2.2 e.2.1)
    let r := s.writeElems t (cv.map fun e => (e.1, e.2.1))
    (r.1, r.2, Flags.all (cv.map fun e => e.2.2))

/-- The lowest and highest byte a tensor addresses (R136). -/
def State.extent (s : State) (t : Tensor) : Nat × Nat :=
  if t.spread then (s.spreadBase t 0, s.spreadBase t (t.size (t.ndim - 1) - 1) + t.span - 1)
  else if t.sparse then (t.base, t.base + 2304 * t.kb * t.nb - 1)
  else (t.base, t.base + t.span - 1)

/-- The coordinates of linear indices from..from+n-1. -/
def Tensor.run (t : Tensor) (first n : Nat) : List (List Nat) := (List.range n).map fun i => t.coord (first + i)

/-! ### Layer programs -/

/-- A layer descriptor's common words (R132). -/
structure Layer where
  op        : Nat
  fwd       : Bool
  bwd       : Bool
  keep      : Bool
  recompute : Bool
  number    : Nat
  x  : Nat
  w  : Nat
  y  : Nat
  saved : Nat
  dy : Nat
  dx : Nat
  dw : Nat
  path : Nat
  halls : Nat
  words : List W
  at_   : Nat
deriving DecidableEq, Repr

def layerOf (ws : List W) (addr : Nat) : Layer :=
  { op := wbits ws 0 27 24, fwd := wbits ws 0 23 23 == 1, bwd := wbits ws 0 22 22 == 1, keep := wbits ws 0 21 21 == 1,
    recompute := wbits ws 0 20 20 == 1, number := wbits ws 0 15 0,
    x := wbits ws 1 31 16, w := wbits ws 1 15 0, y := wbits ws 2 31 16, saved := wbits ws 2 15 0,
    dy := wbits ws 3 31 16, dx := wbits ws 3 15 0, dw := wbits ws 4 31 16, path := wbits ws 4 15 0,
    halls := wbits ws 5 15 0, words := ws, at_ := addr }

/-- Bits [hi:lo] of an op-specific word. -/
def Layer.bits (l : Layer) (i hi lo : Nat) : Nat := wbits l.words i hi lo

/-- A program as captured: its layers and the pointer to its tensor table. -/
structure Program where
  layers  : List Layer
  table   : DPtr
  tensors : Nat
deriving DecidableEq, Repr

/-- The Halls of a mask, ascending. -/
def hallsOf (mask : Nat) : List Nat := (List.range 16).filter fun h => mask / 2 ^ h % 2 == 1

/-- Reads and checks a program header and its layers' common fields (R131, R132). -/
def State.program (_ : State) (m : Cmd) (w : Nat) : Except Status Program := do
  let p := m.ptr w
  let h ← m.block w p 64
  let n := wbits h 0 15 0
  let nt := wbits h 3 15 0
  need (wbits h 0 31 28 == 3 && wbits h 0 27 16 == 0 && decide (1 ≤ n) && decide (n ≤ 4096) && wbits h 3 31 16 == 0 &&
    decide (1 ≤ nt) && (List.range 12).all fun i => wordAt h (4 + i) == 0) (badDesc p.addr)
  let tp := dptr (h.getD 1 0) (h.getD 2 0)
  need (wordAt h 1 % 64 == 0) (badDesc p.addr)
  need (!tp.bad (64 * nt)) (oor w)
  let ls ← m.block w ⟨p.tier, p.addr + 64⟩ (64 * n)
  let layers := (List.range n).map fun i => layerOf ((ls.drop (16 * i)).take 16) (p.addr + 64 + 64 * i)
  let bad := fun (l : Layer) => !(wbits l.words 0 31 28 == 2 && l.bits 0 19 16 == 0 && l.bits 5 31 16 == 0 &&
    decide (l.op < 7) && !(l.keep && l.recompute) && l.halls != 0 &&
    [l.x, l.w, l.y, l.saved, l.dy, l.dx, l.dw, l.path].all fun i => i == noTensor || decide (i < nt))
  match layers.find? bad with
  | some l => .error (badDesc l.at_)
  | none => .ok { layers := layers, table := tp, tensors := nt }

/-- The tensor a layer names by index, unchecked. -/
def Cmd.tableTensor (m : Cmd) (p : Program) (i : Nat) : Option Tensor :=
  if i = noTensor ∨ p.tensors ≤ i then none else
  (m.capBytes p.table.code (p.table.addr + 64 * i) 64).map fun b => tensorOf (bytesWords 16 b.1) (p.table.addr + 64 * i)

/-- The tensor a layer names by index, checked; `w` is the command's pointer word (R124, R130). -/
def State.layerTensor (s : State) (m : Cmd) (w : Nat) (p : Program) (i : Nat) (mayBeSparse : Bool := false) :
    Except Status Tensor := do
  let a := p.table.addr + 64 * i
  let ws ← m.block w ⟨p.table.tier, a⟩ 64
  let t := tensorOf ws a
  s.checkTensor w ws t mayBeSparse
  pure t

end Sys2Proof.Machine
end

