-- ==== Sys2Proof/Machine/Capture.lean ====
section
/-! DEFINITION. What the Command Processor reads at acceptance (R124, R125): every descriptor a command names, whatever
number of descriptors lie between, and the command's number of units (R113, R114) as far as the copies give it. -/

namespace Sys2Proof.Machine

/-- A block that a pointer names; nothing where the pointer breaks R124. -/
def DPtr.range (p : DPtr) (n : Nat) : List (Nat × Nat × Nat) := if p.bad n || n == 0 then [] else [(p.code, p.addr, n)]

/-- Whether the read of a range fails: an uncorrectable unit, or the failing host address (R124). -/
def State.readFails (s : State) (hostErr : Option Nat) (r : Nat × Nat × Nat) : Bool :=
  (s.touch r.1 r.2.1 r.2.2).2.isSome || (r.1 == 5 && (match hostErr with
    | some a => decide (r.2.1 ≤ a) && decide (a < r.2.1 + r.2.2)
    | none => false))

/-- The words of a block, if it can be read. -/
def State.capWords (s : State) (hostErr : Option Nat) (p : DPtr) (n : Nat) : Option (List W) :=
  match p.range n with
  | [] => none
  | r :: _ => if s.readFails hostErr r then none else some (s.peekWords r.1 r.2.1 (n / 4))

def ptrAt (ws : List W) (i : Nat) : DPtr := dptr (ws.getD i 0) (ws.getD (i + 1) 0)

/-- A job descriptor with its graph descriptor (R154). -/
def State.jobRanges (s : State) (e : Option Nat) (p : DPtr) : List (Nat × Nat × Nat) :=
  p.range 64 ++ match s.capWords e p 64 with
    | none => []
    | some ws => (ptrAt ws 2).range 64

/-- A layer program: header, layers, tensor table, and the jobs of its sample layers (R131, R157). -/
def State.programRanges (s : State) (e : Option Nat) (p : DPtr) : List (Nat × Nat × Nat) :=
  p.range 64 ++ match s.capWords e p 64 with
    | none => []
    | some h =>
      let n := wbits h 0 15 0
      let lp : DPtr := ⟨p.tier, p.addr + 64⟩
      let layers := match s.capWords e lp (64 * n) with
        | none => []
        | some ls => (List.range n).flatMap fun i =>
            if wbits ls (16 * i) 27 24 = 5 then s.jobRanges e (ptrAt ls (16 * i + 6)) else []
      lp.range (64 * n) ++ (ptrAt h 1).range (64 * wbits h 3 15 0) ++ layers

/-- A checkpoint plan with its shard table and its table of error-feedback tensors (R521). -/
def State.planRanges (s : State) (e : Option Nat) (p : DPtr) : List (Nat × Nat × Nat) :=
  p.range 64 ++ match s.capWords e p 64 with
    | none => []
    | some h => (ptrAt h 1).range (64 * wbits h 3 12 0) ++ (ptrAt h 4).range (64 * wbits h 3 31 16)

/-- Every range that acceptance of a command reads. -/
def State.capRanges (s : State) (op : Nat) (ws : List W) (e : Option Nat) : List (Nat × Nat × Nat) :=
  let one := fun (i : Nat) => (ptrAt ws i).range 64
  match op with
  | 0x10 => one 4 ++ one 6
  | 0x11 => one 4
  | 0x20 => s.jobRanges e (ptrAt ws 4) ++ one 6 ++ one 8
  | 0x21 => one 4
  | 0x30 => one 5
  | 0x32 => s.programRanges e (ptrAt ws 4)
  | 0x35 => one 5
  | 0x37 => one 5 ++ one 7
  | 0x38 => one 5
  | 0x39 => one 8
  | 0x40 => s.programRanges e (ptrAt ws 4)
  | 0x41 => one 4 ++ one 6 ++ one 8
  | 0x48 => one 4 ++ one 6
  | 0x49 => one 4
  | 0x50 => s.programRanges e (ptrAt ws 4)
  | 0x51 => one 4
  | 0x52 => one 4
  | 0x60 => (ptrAt ws 4).range (64 * wbits ws 6 12 0) ++ one 7
  | 0x71 => s.planRanges e (ptrAt ws 4)
  | 0x80 => s.programRanges e (ptrAt ws 4)
  | 0x90 => one 4
  | 0x93 => one 4
  | 0x94 => one 4
  | 0x95 => one 5
  | 0xA2 => one 4
  | _ => []

/-- The copies a command uses (R125). -/
def State.capture (s : State) (op : Nat) (ws : List W) (e : Option Nat) : List CapBlock :=
  (s.capRanges op ws e).map fun r =>
    { tier := r.1, addr := r.2.1, bytes := s.peek r.1 r.2.1 r.2.2, failed := s.readFails e r }

/-- The reads' effects on the error counts and the log (R45, R474). -/
def State.captureReads (s : State) (op : Nat) (ws : List W) (e : Option Nat) : State :=
  (s.touches (s.capRanges op ws e)).1

/-! ### Units -/

/-- The words of a captured block, good or not; empty where none was read. -/
def Cmd.capAt (m : Cmd) (p : DPtr) (n : Nat) : List W :=
  match m.capBytes p.code p.addr n with
  | some (bs, _) => bytesWords (n / 4) bs
  | none => []

/-- The tensor a pointer word names, unchecked. -/
def Cmd.rawTensor (m : Cmd) (w : Nat) : Tensor := tensorOf (m.capAt (m.ptr w) 64) (m.ptr w).addr

/-- The layers of the program at word 4, unchecked. -/
def Cmd.rawLayers (m : Cmd) : List Layer :=
  let p := m.ptr 4
  let n := wbits (m.capAt p 64) 0 15 0
  let ls := m.capAt ⟨p.tier, p.addr + 64⟩ (64 * n)
  (List.range n).map fun i => layerOf ((ls.drop (16 * i)).take 16) (p.addr + 64 + 64 * i)

/-- Forward walks, backward walks. -/
def walkCount (ls : List Layer) (fwd bwd : Bool) : Nat :=
  (if fwd then (ls.filter (·.fwd)).length else 0) + if bwd then (ls.filter (·.bwd)).length else 0

/-- Apply segments of a shard descriptor (R410): a dense shard holds K_s times N_s parameters; an embedding shard's row
table is taken at its capacity, with the width of its open table. -/
def denseSegments (ws : List W) : Nat := upDiv (wordAt ws 2 * wordAt ws 3) 4096

/-- The number of units as the words and the copies give it (the unit columns of each chapter's opcode table); a command
whose units depend on more sets its total when it starts (assumption 27). -/
def Cmd.units (m : Cmd) : Nat :=
  match m.opcode with
  | 0x10 => upDiv (m.rawTensor 6).byteCount 65536
  | 0x11 => upDiv (m.rawTensor 4).byteCount 65536
  | 0x20 => wbits (m.capAt (m.ptr 4) 64) 0 27 25
  | 0x21 => upDiv (m.word 8) 65536
  | 0x32 => m.rawLayers.length
  | 0x33 => upDiv (m.word 7) 65536
  | 0x34 => upDiv (m.word 4) 1024
  | 0x35 => (m.rawTensor 5).size 0 / 2
  | 0x37 => (m.rawTensor 5).size 0 / 2
  | 0x38 =>
    let t := m.capAt (m.ptr 5) 64
    upDiv (wordAt t 3 + 2 ^ 32 * wbits t 4 7 0) 65536
  | 0x39 => upDiv (m.word 7) 65536
  | 0x40 => walkCount m.rawLayers (m.bits 6 1 0 != 1) (m.bits 6 1 0 != 0)
  | 0x41 => let c := m.rawTensor 8; upDiv (c.size 1) 32 * upDiv (c.size 0) 32
  | 0x48 => let t := m.rawTensor 6; t.kb * t.nb
  | 0x49 => let t := m.rawTensor 4; upDiv (t.kb * t.nb) 1024
  | 0x50 => m.rawLayers.length
  | 0x80 => walkCount m.rawLayers (m.bits 6 31 30 == 0) (m.bits 6 31 30 == 1)
  | 0x93 => upDiv (m.rawTensor 4).byteCount 65536
  | 0x94 => upDiv (m.rawTensor 4).byteCount 65536
  | _ => 1

end Sys2Proof.Machine
end

