-- ==== Sys2Proof/Machine/Send.lean ====
section
/-! DEFINITION. Sending packets (R429 to R431, R444, R448), flooding notices (R453 to R455), job aborts (R509 to R512),
and the poison and defer state of steps (R404 to R407). -/

namespace Sys2Proof.Machine

/-! ### Packets -/

/-- The code of a packet's type (R429). -/
def typeCode : PType → Nat
  | .write => 1
  | .mcast => 2
  | .request => 3
  | .response => 4
  | .ack => 5
  | .notice => 6
  | .reserved c => c

def verdictCode : XVerdict → Nat
  | .go => 0
  | .busy => 1
  | .formatDiffers => 2
  | .countDiffers => 3

/-- Word 5 [27:0] and words 6 to 13 of a packet, as its sink defines them. The spec gives those of data (R452), digests (R482),
acknowledgements (R447) and checkpoint segments (R526); the places of the others are this model's (assumption 88). -/
def sinkWords (p : Pkt) : Nat × List Nat :=
  match p.body with
  | .xferReq tag fmt n => (2 ^ 24 + fmt, tag.toNat :: words64 n)
  | .xferReply tag v => (2 * 2 ^ 24 + verdictCode v, [tag.toNat])
  | .xferData tag off _ => (0, [off % 2 ^ 32, tag.toNat, off / 2 ^ 32])
  | .contrib step shard rank part => match part with
    | .elems off _ => (rank, [step, shard] ++ words64 off)
    | .row row off _ => (2 ^ 24 + rank, [step, shard] ++ words64 row ++ words64 off)
    | .fin n => (2 * 2 ^ 24 + rank, [step, shard] ++ words64 n)
  | .digest step shard _ => (0xF * 2 ^ 24 + p.dst, [step, shard])
  | .rowReq h row stamp op e => (2 ^ 24 + h, words64 row ++ words64 stamp ++ [op, e])
  | .rowResp h row op e fmt known _ => (2 * 2 ^ 24 + h, words64 row ++ [op, e, fmt, known.toNat])
  | .rowWrite h row fmt guest _ => ((3 + guest.toNat) * 2 ^ 24 + h, words64 row ++ [fmt])
  | .segment step seg _ => (0, [step, seg])
  | .notice .. => (0, [])
  | .ack n => (0, [n])
  | .cmapReq => (0, [])
  | .cmapResp _ => (2 ^ 24, [])
  | .ckptSeg seg type item off _ => (0xC * 2 ^ 24, [seg] ++ words64 off ++ [type, item])
  | .manifest .. => (0xC * 2 ^ 24, [0, 0, 0])
  | .buddyQuery => (8 * 2 ^ 24, [])
  | .buddyAnswer ward pdom => (9 * 2 ^ 24, [ward, pdom])
  | .restoreReq ward step seg => (0xA * 2 ^ 24, [ward, step.toNat, seg])
  | .restoreResp seg found _ => (0xB * 2 ^ 24, [seg, found.toNat])

def numWords (ns : List Nat) : List Byte := wordBytes (ns.map fun n => BitVec.ofNat 32 n)

/-- The payload of a packet. -/
def pktPayload (p : Pkt) : List Byte :=
  match p.body with
  | .xferData _ _ bs => bs
  | .contrib _ _ _ (.elems _ vs) => wordBytes vs
  | .contrib _ _ _ (.row _ _ vs) => wordBytes vs
  | .digest _ _ d => leBytes 8 d.toNat
  | .rowResp _ _ _ _ _ _ bs => bs
  | .rowWrite _ _ _ _ bs => bs
  | .segment _ _ bs => bs
  | .notice w0 w1 w2 w3 => wordBytes [w0, w1, w2, w3]
  | .cmapResp bs => bs
  | .ckptSeg _ _ _ _ bs => bs
  | .manifest job gen step mb t es =>
    numWords ([job, gen, step, mb] ++ words64 t.toNat) ++ es.flatMap fun e => numWords [e.type, e.item, e.off, e.len] ++ e.sha
  | .restoreResp _ _ bs => bs
  | _ => []

/-- Header words 0 to 14 (R429), with phase and hops taken as 0, and via as the destination finds it (R431, R440); word 13 says
where the packet's bytes lie in contents of several packets (assumption 88). -/
def headerWords (p : Pkt) : List Nat :=
  let k := sinkWords p
  let r := p.resv
  [typeCode p.type * 2 ^ 28 + p.cls * 2 ^ 26 + p.epoch * 2 ^ 24 + p.fence.toNat * 2 ^ 23 + r.w0 * 2 ^ 12 + p.len,
    p.dst * 2 ^ 16 + p.src, p.dst * 2 ^ 16 + r.w2, p.job * 2 ^ 16 + r.w3 * 2 ^ 12 + p.ring, p.seq * 2 ^ 16 + p.group,
    p.sink * 2 ^ 28 + k.1] ++ (k.2 ++ List.replicate 7 0).take 7 ++ [p.off, r.w14]

/-- The bytes that a packet carries of its contents. -/
def pktBytes (p : Pkt) : List Byte := ((pktPayload p).drop p.off).take p.len

/-- The CRC of a packet (R431): header, then payload, filled to the length that the header gives. -/
def pktCrc (p : Pkt) : W :=
  let bs := pktBytes p
  crc32 (numWords (headerWords p) ++ bs ++ List.replicate (p.len - bs.length) 0)

/-- The longest payload of a packet (R429). -/
def maxPayload : Nat := 2048

/-- The packets that carry contents of any length (R429): whole payloads of 2,048 bytes, then the rest; the last is fenced where
the contents are. -/
def packetsOf (p : Pkt) : List Pkt :=
  let n := (pktPayload p).length
  let k := upDiv n maxPayload
  if k ≤ 1 then [p] else
  (List.range k).map fun i =>
    { p with off := maxPayload * i, len := upDiv (min maxPayload (n - maxPayload * i)) 16 * 16, fence := p.fence && i + 1 == k }

/-- A packet as its source forms it. -/
def withCrc (p : Pkt) : Pkt := { p with crc := pktCrc p }

/-! ### Ports -/

def State.portX (s : State) (p : Nat) : PortX := s.fab.ports.getD p {}

def State.mapPort (s : State) (p : Nat) (f : PortX → PortX) : State :=
  { s with fab := { s.fab with ports := s.fab.ports.modify p f } }

/-- Flits of a packet, and the credits it needs, in 64-byte units (R424, R433). -/
def units (p : Pkt) : Nat := 1 + upDiv p.len 64

/-- The virtual channel of a packet (R432). -/
def vc (p : Pkt) : Nat := 2 * p.cls + p.phase % 2

/-! ### Credit (R425, R433) -/

def noCredit (_ : Nat) : Nat × Nat := (0, 0)

/-- The credit of a virtual channel of a port's link: what is free, and what the packets sent hold. -/
def State.credit (s : State) (port v : Nat) : Nat × Nat := Tab.get noCredit s.fab.credit (8 * port + v)

def State.setCredit (s : State) (port v : Nat) (c : Nat × Nat) : State :=
  { s with fab := { s.fab with credit := Tab.put noCredit s.fab.credit (8 * port + v) c } }

/-- The next hop of a port has credit for the whole packet (R433). -/
def State.creditFor (s : State) (p : Pkt) (port : Nat) : Bool := decide (units p ≤ (s.credit port (vc p)).1)

/-- The credit of a packet is spent. -/
def State.spend (s : State) (p : Pkt) (port : Nat) : State :=
  let c := s.credit port (vc p)
  s.setCredit port (vc p) (c.1 - units p, c.2 + units p)

/-- A link keeps the latest 1,024 flits it has sent; a number sent anew has not been replayed (R424). -/
def PortX.sendFlits (x : PortX) (p : Pkt) : PortX :=
  let new := (List.range (units p)).map fun i => (⟨(x.flits + i) % 4096, p, i⟩ : Flit)
  { x with flits := (x.flits + units p) % 4096
           kept := (x.kept ++ new).drop (x.kept.length + new.length - 1024)
           replays := x.replays.filter fun r => !new.any fun f => f.num == r.1 }

/-- A packet leaves on a port: its flits take the link's next sequence numbers of 12 bits and its credit, and its bytes count
(R424, R425, R459). -/
def State.putOn (s : State) (q : Nat) (p : Pkt) : State :=
  (((s.spend p q).mapPort q fun x => x.sendFlits p).mapPort q fun x => { x with sent := x.sent + 64 + p.len }).emit (.packet q p)

/-- Queues a packet for injection (R444). -/
def State.send (s : State) (p : Pkt) : State := { s with fab := { s.fab with outq := s.fab.outq ++ [p] } }

def State.sendAll (s : State) (ps : List Pkt) : State := { s with fab := { s.fab with outq := s.fab.outq ++ ps } }

/-- Whether a port carries packets: UP or DEGRADED, and not fenced (R440, R454). -/
def State.portUsable (s : State) (p : Nat) : Bool :=
  (s.fld (F.portState p) == 2 || s.fld (F.portState p) == 3) && !s.flag (F.portFence p)

def State.usablePorts (s : State) : List Nat := (List.range 48).filter s.portUsable

/-- Sends a packet on each of a list of ports. -/
def State.emitOn (s : State) (p : Pkt) (ports : List Nat) : State :=
  ports.foldl (fun s q => s.putOn q p) s

/-! ### Notices -/

/-- Destination of a flooded notice: no package. -/
def floodDst : Nat := 0xFFFF

/-- A notice packet (R453): type, reason, job, word 1 and word 2 [15:0]; it reports an event of this instant (R10). -/
def State.noticePkt (s : State) (typ reason job w1 lo : Nat) : Pkt :=
  { type := .notice, cls := 0, phase := 1, epoch := s.fld F.rtActive, len := 16, dst := floodDst, src := s.pkg,
    via := floodDst, job := job, seq := s.fab.noticeSeq % 2 ^ 16, sink := 4, stime := s.tb.stime,
    body := .notice (BitVec.ofNat 32 (typ * 2 ^ 28 + reason * 2 ^ 24 + job)) (BitVec.ofNat 32 w1)
      (BitVec.ofNat 32 (s.pkg * 2 ^ 16 + lo)) 0 }

/-- Whether one more notice may be injected in the present 10 µs (R455). -/
def State.noticeRoom (s : State) : Bool :=
  decide ((s.fab.noticeAt.filter fun t => decide (s.tb.stime < t + 10000)).length < 64)

/-- A flooded notice goes out on a port once the next hop has credit for it, behind the copies that wait for the same port
(R433, R454). -/
def State.floodOn (s : State) (p : Pkt) (port : Nat) : State :=
  if s.creditFor p port && !s.fab.floods.any fun f => f.1 == port then s.putOn port p
  else { s with fab := { s.fab with floods := s.fab.floods ++ [(port, p)] } }

def State.floodAll (s : State) (p : Pkt) (ports : List Nat) : State := ports.foldl (fun s q => s.floodOn p q) s

/-- Copies of flooded notices whose credit has come go out; those of a port that carries no packets are dropped. -/
def State.sendFloods (s : State) : State :=
  s.fab.floods.foldl (fun s f => if s.portUsable f.1 then s.floodOn f.2 f.1 else s)
    { s with fab := { s.fab with floods := [] } }

/-- Injects a notice: the count of R455, the epoch of its injection (R444), and the packet on each usable port. -/
def State.injectFlood (s : State) (p : Pkt) : State :=
  let at' := s.tb.stime :: s.fab.noticeAt.filter fun t => decide (s.tb.stime < t + 10000)
  ({ s with fab := { s.fab with noticeAt := at' } }).floodAll (withCrc { p with epoch := s.fld F.rtActive }) s.usablePorts

/-- Floods a notice of this package on every usable port, or holds it at the source (R454, R455). -/
def State.flood (s : State) (typ reason job w1 lo : Nat) : State :=
  let p := s.noticePkt typ reason job w1 lo
  let s := { s with fab := { s.fab with noticeSeq := s.fab.noticeSeq + 1,
                                        seen := (s.pkg, s.fab.noticeSeq % 2 ^ 16, s.tb.stime) :: s.fab.seen } }
  if s.noticeRoom then s.injectFlood p else s.send p

/-- A flooded notice arrives on a port (R454): a copy of one received in the latest 1 ms is discarded (assumption 33);
else it goes on, on every usable port but that one. The Bool says whether this package delivers it: it holds an
accepted command with the notice's job tag. -/
def State.recvFlood (s : State) (p : Pkt) (inPort : Option Nat) : State × Bool :=
  let late := s.fab.seen.filter fun q => decide (s.tb.stime < q.2.2 + 1000000)
  if late.any fun q => q.1 == p.src && q.2.1 == p.seq then (s, false) else
  let s := { s with fab := { s.fab with seen := (p.src, p.seq, s.tb.stime) :: late } }
  let s := s.floodAll { p with hops := p.hops + 1 } (s.usablePorts.filter fun q => decide (some q ≠ inPort))
  (s, s.cmds.any fun m => m.job == p.job)

/-- Sends a notice of types 0x7 to 0x9 to a package: the command it answers and the port (R453), and what it is about. -/
def State.noticeTo (s : State) (typ reason dst job ring seq port : Nat) (about : Option (Nat × Nat) := none) : State :=
  let p := s.noticePkt typ reason job (seq * 2 ^ 16 + ring) port
  ({ s with fab := { s.fab with noticeSeq := s.fab.noticeSeq + 1 } }).send { p with dst := dst, via := dst, about := about }

/-- The longest lock_lead of a switch, in ns (R247, R464). -/
def maxLead : Nat := 255000

/-! ### Poison and defer state -/

def State.jobEntry (s : State) (job : Nat) : Option JobEntry := s.red.jobs.find? fun e => e.job == job

/-- An entry may be taken for another job (R407). -/
def State.entryFree (s : State) (e : JobEntry) : Bool :=
  (s.jobCmds e.job).isEmpty && (match e.noticeAt with | none => true | some t => decide (t + 1000000000 ≤ s.tb.stime))

/-- The free entry used least recently. -/
def oldestEntry : List JobEntry → Option JobEntry
  | [] => none
  | e :: es =>
    match oldestEntry es with
    | none => some e
    | some f => if e.usedAt ≤ f.usedAt then some e else some f

/-- Gives a job an entry where it has none; none when no entry is free (R407). Job tag 0 is kept beside the 16
(assumption 26). -/
def State.takeEntry (s : State) (job : Nat) : Option State :=
  let use := fun (l : List JobEntry) => { s with red := { s.red with jobs := l } }
  match s.jobEntry job with
  | some _ => some (use (s.red.jobs.map fun e => if e.job = job then { e with usedAt := s.tb.stime } else e))
  | none =>
    let fresh : JobEntry := { job := job, usedAt := s.tb.stime }
    if job = 0 ∨ (s.red.jobs.filter fun e => e.job ≠ 0).length < 16 then some (use (s.red.jobs ++ [fresh]))
    else match oldestEntry (s.red.jobs.filter fun e => e.job ≠ 0 && s.entryFree e) with
      | none => none
      | some f => some (use (s.red.jobs.map fun e => if e.job = f.job then fresh else e))

/-- The record of a step of a job, empty where there is none. -/
def State.stepRec (s : State) (job step : Nat) : StepRec :=
  match s.jobEntry job with
  | none => { step := step }
  | some e => (e.steps.find? fun r => r.step == step).getD { step := step }

def latestStep (e : JobEntry) : Nat := (e.steps.map (·.step)).foldl max 0

/-- Changes a step's record in its job's entry, which keeps the latest 64 steps (R406, R407). -/
def State.mapStep (s : State) (job step : Nat) (f : StepRec → StepRec) : State :=
  let upd := fun (e : JobEntry) =>
    let r := (e.steps.find? fun r => r.step == step).getD { step := step }
    let steps := f r :: e.steps.filter fun q => q.step != step
    let top := (steps.map (·.step)).foldl max 0
    { e with steps := steps.filter fun q => decide (top < q.step + 64) }
  { s with red := { s.red with jobs := s.red.jobs.map fun e => if e.job = job then upd e else e } }

def State.isPoisoned (s : State) (job step : Nat) : Bool := !(s.stepRec job step).poisons.isEmpty

/-- Events of two packages come in the order of R10: by STIME, ties by package. -/
def eventLe (a b : Nat × Nat) : Bool := decide (a.1 < b.1 ∨ (a.1 = b.1 ∧ a.2 ≤ b.2))

/-- STIME and package of the first poison event of a step in the order of R10. -/
def firstPoison : List (Nat × Nat) → Nat × Nat
  | [] => (0, 0)
  | [p] => p
  | p :: q :: ps =>
    let r := firstPoison (q :: ps)
    if eventLe p r then p else r

/-- Discards what a step that will not commit has gathered here: its pending error-feedback updates (R393, R406), and
its contributions and digests. -/
def State.dropStep (s : State) (job step : Nat) : State :=
  let of := fun (j k : Nat) => j == job && k == step
  { s with red := { s.red with
      efs := s.red.efs.filter fun e => !(of e.job e.step && !e.due)
      parts := s.red.parts.filter fun p => !of p.job p.step
      digests := s.red.digests.filter fun d => !of d.1 d.2.1 } }

/-- RED.LAST_POISON and its step report a poison event of the STIME `at'`, unless they report one that is later in the order of
R10 (R418). -/
def State.showPoison (s : State) (step reason pkg at' : Nat) : State :=
  if !eventLe s.red.lastPoison (at', pkg) then s else
  ((({ s with red := { s.red with lastPoison := (at', pkg) } }).setFld F.poisonReason reason).setFld F.poisonPackage
    pkg).setFld F.poisonStep step

/-- Records a poison event of a step, raised or received (R406), with the STIME of the event (R10); the first one of a step
counts it poisoned (R422). -/
def State.notePoison (s : State) (job step reason pkg at' : Nat) : State :=
  let s := if s.isPoisoned job step then s else s.bump (cnt (Reg.red 0x48))
  let s := s.mapStep job step fun r => { r with poisons := r.poisons ++ [(at', pkg)], reason := reason }
  (s.showPoison step reason pkg at').dropStep job step

/-- Raises the poison event of a step: records it and floods its notice, unless the job tag is 0 (R404 to R406); nothing
where no entry is free for it. A step that has committed stands: the event is reported and its notice goes out (R406, R418,
assumption 63). -/
def State.poisonStep (s : State) (job step reason : Nat) : Option State :=
  (s.takeEntry job).map fun s =>
    let defers := (s.stepRec job step).defers
    let s := if (s.stepRec job step).committed then s.showPoison step reason s.pkg s.tb.stime
      else s.notePoison job step reason s.pkg s.tb.stime
    if job = 0 then s else s.flood 1 reason job step defers

/-! ### Contributions a command leaves short (R390) -/

/-- The step to which a contribution layer contributes in the backward walk of a micro-batch (R386, R388, R390). -/
def layerStep (mb : Nat) (l : Layer) : Option Nat :=
  let mbs := l.bits 6 15 0
  if l.op = 6 ∧ l.bwd = true ∧ mbs ≠ 0 ∧ (l.bits 6 26 26 = 1 ∨ mb % mbs = l.bits 7 31 16) then some (mb / mbs) else none

/-- A command that walks a program backward. -/
def Cmd.walksBack (m : Cmd) : Bool :=
  (m.opcode == 0x40 && m.bits 6 1 0 != 0) || (m.opcode == 0x80 && m.bits 6 31 30 == 1)

/-- Steps whose contribution layer this command has not sent in full (R390). -/
def unsentSteps (m : Cmd) : List Nat :=
  if m.ops.isEmpty then (if m.walksBack then (m.rawLayers.filterMap (layerStep (m.word 7))).dedup else [])
  else (m.ops.filterMap fun o => match o.kind with
    | .contribution _ => if o.stage == .done then none else some o.pos
    | _ => none).dedup

/-! ### Job aborts -/

/-- The earlier of two recorded aborts of one job. -/
def AbortRec.first (a b : AbortRec) : AbortRec := if eventLe (a.at_, a.origin) (b.at_, b.origin) then a else b

/-- Records a job as aborted by the first abort in the order of R10; with 16 jobs held, sets overflow (R510, R512). -/
def State.recordAbort (s : State) (a : AbortRec) : State :=
  if s.rst.jobs.any fun j => j.job == a.job then
    { s with rst := { s.rst with jobs := s.rst.jobs.map fun j => if j.job = a.job then j.first a else j } }
  else if s.rst.jobs.length < 16 then
    let jobs := s.rst.jobs ++ [a]
    ({ s with rst := { s.rst with jobs := jobs } }).setFld F.abortCount jobs.length
  else s.setFld F.abortOverflow 1

/-- Discards what the uncommitted steps of a job have gathered here (R510; the contributions under assumption 25). -/
def State.dropSteps (s : State) (job : Nat) : State :=
  let gone := fun (j : Nat) => j == job
  { s with red := { s.red with
      efs := s.red.efs.filter fun e => !(gone e.job && !e.due)
      shards := s.red.shards.filter fun r => !(gone r.job && !(s.red.applies.any fun a =>
        a.cmd.job == job && a.cmd.word 9 == r.step))
      parts := s.red.parts.filter fun p => !gone p.job
      digests := s.red.digests.filter fun d => !gone d.1 } }

/-- The recorded abort of a job. -/
def State.abortRec (s : State) (job : Nat) : Option AbortRec := s.rst.jobs.find? fun j => j.job == job

/-- What a package that raises or receives the abort of a job does (R510): `at'` is the STIME of the abort. Job tag 0 names no
job (R97). -/
def State.abortJob (s : State) (job origin at' : Nat) : State :=
  if job = 0 then s else
  let s := s.recordAbort ⟨job, origin, at'⟩
  let first := ((s.abortRec job).map (·.origin)).getD origin
  let s := (s.jobCmds job).foldl (fun s m =>
    ((unsentSteps m).foldl (fun s k => (s.poisonStep job k 4).getD s) s).complete m.id ⟨St.jobAbort, job, first⟩) s
  (s.dropSteps job).dropPending job

/-- Raises a job abort: floods its notice with its reason, then acts on it here (R509, R510). -/
def State.raiseAbort (s : State) (job reason : Nat) : State :=
  if job = 0 then s else (s.flood 5 0 job reason 0).abortJob job s.pkg s.tb.stime

/-- The jobs that have accepted commands, each once. -/
def State.activeJobs (s : State) : List Nat := ((s.cmds.map (·.job)).filter (· ≠ 0)).dedup

def State.abortAll (s : State) (reason : Nat) (jobs : List Nat) : State :=
  jobs.foldl (fun s j => s.raiseAbort j reason) s

/-- Raises the poison event of a step; with no entry free for it, the job is aborted with reason 9 (R407, assumption 26). -/
def State.raisePoison (s : State) (job step reason : Nat) : State :=
  match s.poisonStep job step reason with
  | some s => s
  | none => s.raiseAbort job 9

/-- Ends a command that fails: first the poison of each step it leaves short (R390). -/
def State.failCmd (s : State) (c : CmdId) (st : Status) : State :=
  if s.spentRun = some c then s else
  match s.findCmd c with
  | none => s
  | some m => ((unsentSteps m).foldl (fun s k => s.raisePoison m.job k 4) s).complete c st

/-- Ends several commands that fail. -/
def State.failAll (s : State) (cs : List CmdId) (st : Status) : State := cs.foldl (fun s c => s.failCmd c st) s

end Sys2Proof.Machine
end

