-- ==== Sys2Proof/Machine/Engine.lean ====
section
/-! DEFINITION. The operations of running commands: their order on lane generators (R139, R363), ending one (R138), the
progress marker by units (R113), failing a command while issued operations run on (R473, R287), and the lane generators
themselves (R358 to R362, R516). -/

namespace Sys2Proof.Machine

/-! ### Lane generators -/

/-- R358. -/
def mix (z : BitVec 64) : BitVec 64 :=
  let z := (z ^^^ (z >>> 30)) * 0xBF58476D1CE4E5B9
  let z := (z ^^^ (z >>> 27)) * 0x94D049BB133111EB
  z ^^^ (z >>> 31)

def golden : BitVec 64 := 0x9E3779B97F4A7C15

def genKey (tile lane : Nat) : Nat := 64 * tile + lane

/-- The 32-bit draw of a lane at a counter value (R358). -/
def State.drawAt (s : State) (tile lane : Nat) (c : BitVec 64) : Nat :=
  (mix (mix (s.seed ^^^ BitVec.ofNat 64 (genKey tile lane)) + c * golden) >>> 32).toNat

def zeroCtr (_ : Nat) : BitVec 64 := 0

/-- No micro-batch (R516). -/
def noMb (_ : Nat) : W := 0xFFFFFFFF

def State.ctr (s : State) (tile lane : Nat) : BitVec 64 := Tab.get zeroCtr s.gens (genKey tile lane)

/-- Advances lanes of a tile by one amount; a micro-batch number, where the command carries one, becomes last_mb
(R361, R516). -/
def State.advance (s : State) (tile : Nat) (lanes : List Nat) (by_ : Nat) (mb : Option W) : State :=
  lanes.foldl (fun s l =>
    { s with
      gens := Tab.put zeroCtr s.gens (genKey tile l) (s.ctr tile l + BitVec.ofNat 64 by_)
      lastMb := match mb with
        | some b => if by_ = 0 then s.lastMb else Tab.put noMb s.lastMb (genKey tile l) b
        | none => s.lastMb }) s

/-! ### Operations -/

def State.op (s : State) (c : CmdId) (i : Nat) : Option (Cmd × Op) :=
  match s.findCmd c with
  | none => none
  | some m => (m.ops[i]?).map fun o => (m, o)

def State.mapOp (s : State) (c : CmdId) (i : Nat) (f : Op → Op) : State :=
  s.mapCmd c fun m => { m with ops := m.ops.modify i f }

/-- Whether a command walks forward, and whether it walks backward. -/
def Cmd.dirs (m : Cmd) : Bool × Bool :=
  match m.opcode with
  | 0x40 => (m.bits 6 1 0 != 1, m.bits 6 1 0 != 0)
  | 0x80 => (m.bits 6 31 30 == 0, m.bits 6 31 30 == 1)
  | _ => (m.bits 6 0 0 == 0, m.bits 6 0 0 == 1)

/-- A layer that a command's walks take. -/
def Cmd.walksLayer (m : Cmd) (l : Layer) : Bool := (m.dirs.1 && l.fwd) || (m.dirs.2 && l.bwd)

/-- A layer whose operations draw: a stochastic Drain, a rand stage, a sample job (R361). -/
def layerDraws (l : Layer) : Bool :=
  match l.op with
  | 0 | 1 => l.bits 6 25 25 == 1
  | 4 => (List.range 4).any fun i => l.bits (7 + i) 31 27 == 13 || l.bits (7 + i) 15 11 == 13
  | 5 => true
  | _ => false

/-- A command whose operations are not laid out will draw from generators (R361). -/
def Cmd.willDraw (m : Cmd) : Bool :=
  m.ops.isEmpty && m.phase != .running && match m.opcode with
  | 0x20 => true
  | 0x41 => m.bits 10 28 28 == 1
  | 0x40 | 0x50 | 0x80 => m.rawLayers.any fun l => layerDraws l && m.walksLayer l
  | _ => false

/-- GEN_LOAD and GEN_SAVE order themselves against every draw (R363). -/
def isGenOp (opcode : Nat) : Bool := opcode == 0x51 || opcode == 0x52

/-- A COMMIT whose boundary capture is still to come orders itself as a GEN_SAVE (R517): word 1 of its aux is 1 from its
acceptance to the capture, then 2. -/
def Cmd.captures (m : Cmd) : Bool := m.opcode == 0x60 && m.aux.getD 1 0 == 1

/-- A load or save of the generators: it orders itself against every draw (R363, R517). -/
def Cmd.ordersDraws (o : Cmd) : Bool := isGenOp o.opcode || o.captures

/-- Operations that are still to draw. -/
def Cmd.drawing (o : Cmd) : List Op := o.ops.filter fun q => q.draws && q.stage != .done

/-- A command that may still draw, or that loads or saves the generators: what a GEN_LOAD or GEN_SAVE waits for (R363). -/
def drawBlocker (o : Cmd) : Bool := o.ordersDraws || o.willDraw || !o.drawing.isEmpty

/-- Leading units of a command whose operations have all ended with their outputs in place (R113, R295). -/
def leadingUnits (ops : List Op) : Nat → Nat → Nat
  | 0, _ => 0
  | n + 1, u => if ops.all fun o => o.part != u || (o.stage == .done && !o.failed && !o.onDie) then leadingUnits ops n (u + 1) + 1 else 0

/-- Ends a command that fails a check of its chapter. -/
def State.refuseCmd (s : State) (c : CmdId) (st : Status) : State :=
  (s.mapCmd c fun m => { m with start := 0, ops := [] }).failCmd c st

/-- The micro-batch number of a command that samples or runs a program. -/
def Cmd.mbNo (m : Cmd) : Nat := if m.opcode = 0x20 then m.word 10 else m.word 7

def isSample : OpKind → Bool
  | .sample _ => true
  | _ => false

/-- The status of a success: TRUNCATED with the first truncated job in walk order, which keeps its count (R167), else a
status met on the way, else OK. -/
def Cmd.success (m : Cmd) : Status :=
  match m.ops.find? fun o => isSample o.kind && !o.held.isEmpty with
  | some o => ⟨St.truncated, m.mbNo, (o.held.head?.map (·.1)).getD 0⟩
  | none => m.result.getD okStatus

/-- Completes a command whose operations have all ended, or that has failed with none issued (R473, R167). -/
def State.settle (s : State) (c : CmdId) : State :=
  match s.findCmd c with
  | none => s
  | some m =>
    match m.failure with
    | some st => if m.ops.any fun o => o.stage == .issued then s else s.failCmd c st
    | none => if m.ops.all fun o => o.stage == .done then s.complete c m.success else s

/-- An operation ends: its unit may be done, its command may complete (R138). -/
def State.finishOp (s : State) (c : CmdId) (i : Nat) : State :=
  let s := s.mapOp c i fun o => { o with stage := .done, tiles := [] }
  match s.findCmd c with
  | none => s
  | some m => (s.progress c (leadingUnits m.ops m.total 0)).settle c

/-- A contribution that fails before its end markers poisons its step (R390). -/
def State.poisonPart (s : State) (c : CmdId) (i : Nat) : State :=
  match s.op c i with
  | some (m, o) => match o.kind with
    | .contribution _ => s.raisePoison m.job o.pos 4
    | _ => s
  | none => s

/-- An operation that fails its command: no further operation issues (R473, R287). -/
def State.failOp (s : State) (c : CmdId) (i : Nat) (st : Status) : State :=
  (((s.poisonPart c i).mapOp c i fun o => { o with stage := .done, failed := true, tiles := [] }).mapCmd c fun m =>
    { m with failure := m.failure <|> some st }).settle c

/-- Remembers the first success status other than OK. -/
def State.noteResult (s : State) (c : CmdId) (st : Status) : State :=
  s.mapCmd c fun m => { m with result := m.result <|> some st }

/-- Draws one free value (assumption 2). -/
def State.freeWord (s : State) : State × W := ({ s with free := s.free + 1 }, Config.freeWord s.free)

end Sys2Proof.Machine
end

