-- ==== Sys2Proof/Machine/Gens.lean ====
section
/-! DEFINITION. GEN_LOAD and GEN_SAVE (R363 to R367): the generator image, and the seed registers (R373). -/

namespace Sys2Proof.Machine

/-- Words of a generator image (R365). -/
def State.imageWords (s : State) : Nat := 16 + 128 * s.tileCount

/-- The tensor of an image, checked (R367). -/
def State.imageArg (s : State) (m : Cmd) : Except Status Tensor := do
  let t ← s.tensorArg m 4
  need (t.fmt == 7) (badFormat 4 t.fmt)
  need (t.ndim == 1 && decide (s.imageWords ≤ t.size 0)) (badDesc t.at_)
  pure t

/-- An earlier drawing operation, load or save has not completed (R363). -/
def State.genWaits (s : State) (m : Cmd) : Bool := s.busyCmds.any fun o => decide (o.order < m.order) && drawBlocker o

/-- A command that orders itself against every draw runs once the earlier ones are through. -/
def State.runGen (s : State) (c : CmdId) (opcode : Nat) (f : Cmd → Tensor → State → State) : State :=
  match s.runnable c opcode with
  | none => s
  | some m =>
    if s.genWaits m then s else
    let s := s.begin c
    match s.imageArg m with
    | .error st => s.refuse c st
    | .ok t => f m t s

/-- The words of an image as memory holds them. -/
def State.imageAt (s : State) (t : Tensor) (first n : Nat) : List W :=
  (t.run first n).map fun e => BitVec.ofNat 32 (s.elemBits t e)

/-- The header of R365 is right. -/
def State.headerOk (s : State) (h : List W) : Bool :=
  wordAt h 0 == 8 * 2 ^ 28 && wordAt h 1 == s.tileCount && (List.range 10).all fun i => wordAt h (6 + i) == 0

def pair64 (ws : List W) (i : Nat) : BitVec 64 := BitVec.ofNat 64 (wordAt ws i + 2 ^ 32 * wordAt ws (i + 1))

/-- The seed's registers show it (R373). -/
def State.setSeed (s : State) (v : BitVec 64) : State := { s with seed := v }

/-- Sets every counter from the blocks of an image; no lane has a latest micro-batch any more (R516). -/
def State.loadCounters (s : State) (ws : List W) : State :=
  { s with
      lastMb := []
      gens := (List.range (64 * s.tileCount)).foldl (fun g i =>
      Tab.put zeroCtr g (genKey (s.nthTile (i / 64)) (i % 64)) (pair64 ws (16 + 2 * i))) [] }

/-- GEN_LOAD: the header is checked before the blocks are read (R366). -/
def runGenLoad (c : CmdId) (s : State) : State :=
  s.runGen c 0x51 fun _ t s =>
    let n := s.imageWords
    let h := s.touchElems t (t.run 0 16)
    if h.2.isNone && !h.1.headerOk (h.1.imageAt t 0 16) then h.1.complete c (oor 4) else
    let r := s.touchElems t (t.run 0 n)
    match r.2 with
    | some x => r.1.complete c (uncorrAt x.1 x.2)
    | none =>
      let ws := r.1.imageAt t 0 n
      ((r.1.setSeed (pair64 ws 2)).loadCounters ws).complete c okStatus

def execGenLoad (c : CmdId) (s : State) : Host.Outcome State Fault Refusal := fin (runGenLoad c s)

/-- The words of the image of the present seed and counters. -/
def State.imageNow (s : State) : List Nat :=
  [8 * 2 ^ 28, s.tileCount] ++ words64 s.seed.toNat ++ words64 s.tb.stime ++ List.replicate 10 0 ++
    (List.range (64 * s.tileCount)).flatMap fun i => words64 (s.ctr (s.nthTile (i / 64)) (i % 64)).toNat

def runGenSave (c : CmdId) (s : State) : State :=
  s.runGen c 0x52 fun _ t s =>
    let ws := s.imageNow
    let r := s.writeElems t ((t.run 0 ws.length).zip ws)
    match r.2 with
    | some x => r.1.complete c (uncorrAt x.1 x.2)
    | none => r.1.complete c okStatus

def execGenSave (c : CmdId) (s : State) : Host.Outcome State Fault Refusal := fin (runGenSave c s)

end Sys2Proof.Machine
end

