-- ==== Sys2Proof/Machine/Rows.lean ====
section
/-! DEFINITION. The rows of the Embedding Row Manager: table descriptors (R180 to R182), directory entries and row records
(R183, R184), allocation (R186), reads and row writes (R185, R202, R203), and the update log (R205, R206). -/

namespace Sys2Proof.Machine

open Fp

/-! ### Table descriptors (R181) -/

def tEmbed (d : List W) : Bool := wbits d 0 27 27 == 1
def tWidth (d : List W) : Nat := wbits d 0 23 12 + 1
def tRows (d : List W) : Nat := wordAt d 1 + 2 ^ 32 * wbits d 2 7 0
def tShard (d : List W) : Nat := wbits d 4 29 24
def tMap (d : List W) : Nat := wordAt d 9 + 2 ^ 32 * wordAt d 10
def tFp32 (d : List W) : Nat := wbits d 13 31 24
def tBf16 (d : List W) : Nat := wbits d 13 23 16
def tE4m3 (d : List W) : Nat := wbits d 13 15 8
def tHost (d : List W) : Nat := wbits d 13 7 0
def tDecay (d : List W) : Nat := wbits d 14 27 24
def tHyst (d : List W) : Nat := wbits d 14 23 16
def tVersion (d : List W) : Nat := wbits d 14 15 0

/-- Entries of the shard map. -/
def tMapLen (d : List W) : Nat := (tRows d + 2 ^ tShard d - 1) / 2 ^ tShard d

/-- The package an entry of the shard map names. -/
def State.mapEntry (s : State) (d : List W) (j : Nat) : Nat := ofLe (s.peek 3 (tMap d + 2 * j) 2)

/-- The package that holds a row (R181). -/
def State.rowOwner (s : State) (d : List W) (row : Nat) : Nat :=
  if tMap d = 0 then s.pkg else s.mapEntry d (row / 2 ^ tShard d)

/-- A row of this package's part of the table. -/
def tHolds (d : List W) (row : Nat) : Bool := decide (tFirst d ≤ row) && decide (row < tFirst d + tLocal d)

/-- An entry that names this package lies in the local range, any other outside it, which an empty range always is (R182). -/
def State.mapFits (s : State) (d : List W) (j : Nat) : Bool :=
  let lo := j * 2 ^ tShard d
  let hi := min ((j + 1) * 2 ^ tShard d) (tRows d)
  if s.mapEntry d j = s.pkg then decide (tFirst d ≤ lo) && decide (hi ≤ tFirst d + tLocal d)
  else tLocal d == 0 || decide (hi ≤ tFirst d) || decide (tFirst d + tLocal d ≤ lo)

/-- R182's checks of a descriptor. -/
def State.tableOk (s : State) (d : List W) : Bool :=
  wbits d 0 31 28 == 7 && wbits d 0 26 24 == 0 && wbits d 0 11 0 == 0 && wbits d 2 31 8 == 0 && wbits d 4 31 30 == 0 &&
  wbits d 4 23 8 == 0 && wbits d 6 31 8 == 0 && wordAt d 11 == 0 && wordAt d 12 == 0 && wbits d 14 31 28 == 0 &&
  wordAt d 15 == 0 && decide (tBf16 d ≤ tFp32 d) && decide (tE4m3 d ≤ tBf16 d) && decide (tHost d ≤ tE4m3 d) &&
  (if tMap d = 0 then tFirst d == 0 && tLocal d == tRows d
   else decide (tMapLen d ≤ 4096) && (List.range (tMapLen d)).all (s.mapFits d) &&
     (tLocal d == 0 || decide (tFirst d + tLocal d ≤ tRows d)))

/-! ### Handles (R180, R228) -/

/-- The staging handle of a main handle that still has its staged version. -/
def State.stagedOf (s : State) (main : Nat) : Option Handle :=
  s.erm.handles.find? fun h => h.role == .staging main

/-- Handles as changed. -/
def State.mapHandle (s : State) (n : Nat) (f : Handle → Handle) : State :=
  { s with erm := { s.erm with handles := s.erm.handles.map fun h => if h.n = n then f h else h } }

def State.dropHandle (s : State) (n : Nat) : State :=
  { s with erm := { s.erm with handles := s.erm.handles.filter fun h => h.n != n } }

/-- A TABLE_CLOSE of the handle, accepted before a command, has not completed (R182). -/
def State.closedBefore (s : State) (m : Cmd) (n : Nat) : Bool :=
  s.cmds.any fun o => o.opcode == 0x31 && o.bits 4 7 0 == n && decide (o.order < m.order)

/-- An open handle as a command may name it: none after a close accepted before the command (R182). -/
def State.openFor (s : State) (m : Cmd) (n : Nat) : Option Handle := if s.closedBefore m n then none else s.handle n

/-- A handle whose version in force a command may act on (R233): a main handle. -/
def State.mainFor (s : State) (m : Cmd) (n : Nat) : Option Handle :=
  match s.openFor m n with
  | some h => if h.role = .main then some h else none
  | none => none

/-- The main handle a gather names through any open handle (R234, R242). -/
def State.mainOf (s : State) (h : Handle) : Handle :=
  match h.role with
  | .main => h
  | .staging k => (s.handle k).getD h
  | .follow k => (s.handle k).getD h

/-- The descriptor in force at a stamp (R243, R244): the present one, or a retiring one; none when it has retired. -/
def State.versionAt (s : State) (h : Handle) (stamp : Nat) : Option (List W) :=
  if h.since ≤ stamp then some h.desc else
  (s.erm.retiring.find? fun r => r.main == h.n && decide (r.since ≤ stamp) && decide (stamp < r.until_)).map (·.desc)

/-! ### Directory entries (R183) -/

def Dir.bits (e : Dir) : Nat :=
  e.loc % 8 * 2 ^ 61 + e.fmt % 4 * 2 ^ 59 + e.dual.toNat * 2 ^ 58 + e.dirty.toNat * 2 ^ 57 + e.heat % 256 * 2 ^ 48 +
    e.addr16 % 2 ^ 40

/-- Counts lines that the Embedding Row Manager reads or writes, on the stack of each (R194, R222). -/
def State.addLoad (s : State) (tier addr n : Nat) : State :=
  if tier = 3 ∨ tier = 4 then
    { s with loads := (linesByStack tier addr n).foldl (fun t q => Tab.put noErr t q.1 (Tab.get noErr t q.1 + q.2)) s.loads }
  else s

def State.ermTouch (s : State) (tier addr n : Nat) : State × Option Nat := (s.addLoad tier addr n).touch tier addr n

def State.ermWrite (s : State) (tier addr : Nat) (bs : List Byte) : State × Option Nat :=
  (s.addLoad tier addr bs.length).write tier addr bs

/-- The package that holds a row, by a read of its entry of the shard map (R45, R195). -/
def State.findOwner (s : State) (d : List W) (row : Nat) : State × Except Status Nat :=
  if tMap d = 0 then (s, .ok s.pkg) else
  let r := s.ermTouch 3 (tMap d + 2 * (row / 2 ^ tShard d)) 2
  match r.2 with
  | some a => (r.1, .error (uncorrAt 3 a))
  | none => (r.1, .ok (r.1.rowOwner d row))

/-- The whole shard map can be read: the state after the read, or the line found uncorrectable (R45). -/
def State.touchMap (s : State) (d : List W) : State × Option Nat :=
  if tMap d = 0 then (s, none) else s.ermTouch 3 (tMap d) (2 * min 4096 (tMapLen d))

def State.setDir (s : State) (d : List W) (row : Nat) (e : Dir) : State :=
  (s.ermWrite 3 (dirAddr d row) (leBytes 8 e.bits)).1

/-! ### Row records (R184) -/

/-- Element format of R48 of a directory fmt. -/
def rowFormat (fmt : Nat) : Nat := match fmt with | 0 => 0 | 1 => 1 | 2 => 3 | _ => 5

/-- Bytes of the elements and scales. -/
def elemBytes (d : List W) (fmt : Nat) : Nat :=
  let w := tWidth d
  match fmt with
  | 0 => 4 * w
  | 1 => 2 * w
  | 2 => w
  | _ => w / 2 + w / 32

/-- Bytes of a record: a multiple of 16. -/
def recBytes (d : List W) (fmt : Nat) : Nat := (elemBytes d fmt + (if tEmbed d then 4 else 0) + 15) / 16 * 16

/-- The stored code of element i. -/
def rowCode (fmt : Nat) (bs : List Byte) (i : Nat) : Nat :=
  match fmt with
  | 0 => ofLe ((bs.drop (4 * i)).take 4)
  | 1 => ofLe ((bs.drop (2 * i)).take 2)
  | 2 => (bs.getD i 0).toNat
  | _ => (bs.getD (i / 2) 0).toNat / 16 ^ (i % 2) % 16

/-- The exact values of a record's elements (R192). -/
def rowVals (width fmt : Nat) (bs : List Byte) : List Val :=
  (List.range width).map fun i =>
    decode (rowFormat fmt) (rowCode fmt bs i) (bs.getD (width / 2 + i / 32) 0).toNat

/-- The accumulator word of an embedding record. -/
def rowAcc (d : List W) (fmt : Nat) (bs : List Byte) : Nat := ofLe ((bs.drop (elemBytes d fmt)).take 4)

/-- Packs nibbles two to a byte, the even element low (R59). -/
def packNibbles : List Nat → List Byte
  | a :: b :: l => BitVec.ofNat 8 (a % 16 + 16 * (b % 16)) :: packNibbles l
  | [a] => [BitVec.ofNat 8 (a % 16)]
  | [] => []

/-- A row about to be written: its values, the bits of its FP32 accumulator, and its stored elements with their fmt where it
comes from a stored row. -/
structure RowVal where
  vals   : List Val
  acc    : Nat := 0
  stored : Option (Nat × List Byte) := none
deriving DecidableEq, Repr

/-- The row that a record holds. -/
def RowVal.ofRecord (d : List W) (fmt : Nat) (bs : List Byte) : RowVal :=
  { vals := rowVals (tWidth d) fmt bs, acc := rowAcc d fmt bs, stored := some (fmt, bs.take (elemBytes d fmt)) }

/-- Elements and scales of a row in a fmt: converted to nearest even (R56, R58, R202); bit for bit in the fmt they have (R52). -/
def RowVal.body (fmt : Nat) (v : RowVal) : List Byte × Flags :=
  if v.stored.map (·.1) = some fmt then ((v.stored.map (·.2)).getD [], {})
  else if fmt = 3 then
    let blocks := (groups 32 (v.vals.length / 32 + 1) v.vals).map fun g => toMxBlock (g.map fun x => (x, Mode.nearest))
    (packNibbles (blocks.flatMap (·.1)) ++ blocks.map (fun b => BitVec.ofNat 8 b.2.1), Flags.all (blocks.map (·.2.2)))
  else
    let cs := v.vals.map fun x => convert (rowFormat fmt) .nearest x
    (cs.flatMap fun c => leBytes (width (rowFormat fmt) / 8) c.1, Flags.all (cs.map (·.2)))

/-- The record of a row in a fmt, padded (R184). -/
def rowRecord (d : List W) (fmt : Nat) (v : RowVal) : List Byte × Flags :=
  let r := v.body fmt
  let body := r.1 ++ if tEmbed d then leBytes 4 v.acc else []
  (body ++ List.replicate (recBytes d fmt - body.length) 0, r.2)

/-! ### The log's place (R205, R217, R218) -/

def State.logBase (s : State) : Nat := s.reg64 (Reg.erm 0) (Reg.erm 4)
def State.logSize (s : State) : Nat := 2 ^ s.fld F.logSizeLog2

/-- A range of the byte ring as one or two ranges of the Cellar. -/
def State.logParts (s : State) (addr n : Nat) : List (Nat × Nat) :=
  let e := s.logBase + s.logSize
  if e < addr + n then [(addr, e - addr), (s.logBase, addr + n - e)] else [(addr, n)]

def State.logPeek (s : State) (addr n : Nat) : List Byte :=
  (s.logParts addr n).flatMap fun r => s.peek 3 r.1 r.2

def State.logTouch (s : State) (addr n : Nat) : State × Option Nat :=
  (s.logParts addr n).foldl (fun r q => let t := r.1.ermTouch 3 q.1 q.2; (t.1, r.2 <|> t.2)) (s, none)

def State.logWrite (s : State) (addr : Nat) (bs : List Byte) : State :=
  match s.logParts addr bs.length with
  | (a, n) :: rest =>
    let s := (s.ermWrite 3 a (bs.take n)).1
    match rest with
    | (b, _) :: _ => (s.ermWrite 3 b (bs.drop n)).1
    | [] => s
  | [] => s

/-- The address after an offset in the ring. -/
def State.logAt (s : State) (addr k : Nat) : Nat := s.logBase + (addr + k - s.logBase) % s.logSize

/-- Tier code and address of the home a log record names. -/
def State.logHome (s : State) (addr : Nat) : Nat × Nat :=
  let h := bytesWords 8 (s.logPeek addr 32)
  (if wbits h 0 23 21 = 1 then 4 else 5, 16 * (wordAt h 2 + 2 ^ 32 * wbits h 3 7 0))

/-- Tier code of loc 0 to 2. -/
def locTier (loc : Nat) : Nat := match loc with | 0 => 3 | 1 => 4 | _ => 5

/-- Loc of a record tier. -/
def tierLoc (tier : Nat) : Nat := match tier with | 3 => 0 | 4 => 1 | _ => 2

/-! ### Allocation (R186) -/

/-- The record that a directory entry keeps, if any: of a row in the log, its home. -/
def State.entryRec (s : State) (e : Dir) : Option (Nat × Nat) :=
  if e.loc < 3 then some (locTier e.loc, 16 * e.addr16)
  else if e.loc = 3 then some (s.logHome (16 * e.addr16)) else none

/-- The record that an entry keeps, by a read of the log header where the row is in the log (R45). -/
def State.findRec (s : State) (e : Dir) : State × Except Status (Option (Nat × Nat)) :=
  if e.loc = 3 then
    let r := s.logTouch (16 * e.addr16) 32
    match r.2 with
    | some a => (r.1, .error (uncorrAt 3 a))
    | none => (r.1, .ok (r.1.entryRec e))
  else (s, .ok (s.entryRec e))

/-- Every version whose directory the package holds: in force, staged, retiring, and those of closed tables, whose records
their entries still name (R186). -/
def State.versions (s : State) : List (List W) :=
  (s.erm.handles.filterMap fun h => match h.role with | .follow _ => none | _ => some h.desc) ++
    s.erm.retiring.map (·.desc) ++ s.erm.closed

/-- The records that directory entries and windows name. -/
def State.namedRecs (s : State) : List (Nat × Nat) :=
  (s.versions.flatMap fun d => (List.range (tLocal d)).filterMap fun i => s.entryRec (s.dir d (tFirst d + i))) ++
    s.erm.wins.flatMap fun w => (if w.remote.isNone then [(w.tier, w.addr)] else []) ++
      if w.moved.isSome then [(w.oldTier, w.oldAddr)] else []

def State.poolBase (s : State) (n : Nat) : Nat := s.reg64 (Reg.ermPool n) (Reg.ermPool n + 4)
def State.poolCount (s : State) (n : Nat) : Nat := (s.reg (Reg.ermPool n + 0xC)).toNat
def State.poolSize (s : State) (n : Nat) : Nat := 16 * s.fld (F.poolRec16 n)
def State.poolTierCode (s : State) (n : Nat) : Nat := locTier (s.fld (F.poolTier n))

/-- The addresses of a pool's free records, ascending. -/
def State.freeRecs (s : State) (n : Nat) : List Nat :=
  let named := s.namedRecs
  ((List.range (s.poolCount n)).map fun i => s.poolBase n + i * s.poolSize n).filter fun a =>
    !named.contains (s.poolTierCode n, a)

/-- Whether a pool serves a tier with records of a size. -/
def State.poolFits (s : State) (n tier size : Nat) : Bool :=
  s.flag (F.poolEnable n) && s.poolTierCode n == tier && s.poolSize n == size

/-- Allocates a record from the lowest-numbered pool that fits and has one; which of its free records is the device's
choice (assumption 2). `stack` asks for a record on one stack (R209). -/
def State.alloc (s : State) (tier size : Nat) (stack : Option Nat := none) : State × Option Nat :=
  let frees := fun (n : Nat) => (s.freeRecs n).filter fun a => match stack with
    | none => true
    | some k => (tier == 3 || tier == 4) && stackOf tier a == k
  match (List.range 16).find? fun n => s.poolFits n tier size && !(frees n).isEmpty with
  | none => (s.bump (cnt (Reg.erm 0x88)), none)
  | some n =>
    let l := frees n
    ({ s with free := s.free + 1 }, l[Config.pick s.free % l.length]?)

/-! ### Classes (R203) -/

/-- An enabled host pool of the record size exists. -/
def State.hostPool (s : State) (size : Nat) : Bool := (List.range 16).any fun n => s.poolFits n 5 size

/-- The fmt of classes 4 and 5. -/
def lowFmt (d : List W) : Nat := if tWidth d % 32 = 0 then 3 else 2

def State.rowClass (s : State) (d : List W) (h : Nat) : Nat :=
  if tFp32 d ≤ h then 1 else if tBf16 d ≤ h then 2 else if tE4m3 d ≤ h then 3
  else if tHost d ≤ h ∨ s.hostPool (recBytes d (lowFmt d)) = false then 4 else 5

def classFmt (d : List W) (c : Nat) : Nat := if c = 1 then 0 else if c = 2 then 1 else if c = 3 then 2 else lowFmt d

def classTier (c : Nat) : Nat := if c ≤ 2 then 3 else if c ≤ 4 then 4 else 5

/-! ### Reading a row (R185, R186) -/

/-- The bytes of the record that a local entry names: the state after the read, and the bytes or the failure; `word` is
the operand word that FORMAT names (R184). -/
def State.readRec (s : State) (d : List W) (e : Dir) (word : Nat) : State × Except Status (List Byte) :=
  if e.fmt = 3 ∧ tWidth d % 32 ≠ 0 then (s, .error (badFormat word 5)) else
  let n := recBytes d e.fmt
  if e.loc < 3 then
    let r := s.ermTouch (locTier e.loc) (16 * e.addr16) n
    match r.2 with
    | some a => (r.1, .error (uncorrAt (locTier e.loc) a))
    | none => (r.1, .ok (r.1.peek (locTier e.loc) (16 * e.addr16) n))
  else if e.loc = 3 then
    let a := s.logAt (16 * e.addr16) 32
    let r := s.logTouch a n
    match r.2 with
    | some x => (r.1, .error (uncorrAt 3 x))
    | none => (r.1, .ok (r.1.logPeek a n))
  else (s, .ok (List.replicate n 0))

/-- Reads a local row's directory entry and record. -/
def State.readRow (s : State) (d : List W) (row word : Nat) : State × Except Status (Dir × List Byte) :=
  let r := s.ermTouch 3 (dirAddr d row) 8
  match r.2 with
  | some a => (r.1, .error (uncorrAt 3 a))
  | none =>
    let e := r.1.dir d row
    let q := r.1.readRec d e word
    (q.1, q.2.map fun bs => (e, bs))

/-! ### Row writes (R202) -/

/-- How a row write ends: done, waiting for log space or (`log` false) for a record, or failed. -/
inductive RowEnd where
  | done (flags : Flags)
  | wait (log : Bool)
  | fail (st : Status)
deriving DecidableEq, Repr

/-- Room in the log for n bytes. -/
def State.logRoom (s : State) (n : Nat) : Bool := decide (s.erm.logHead - s.erm.logTail + n ≤ s.logSize)

/-- Appends a log record (R205): the address of its header. -/
def State.logAppend (s : State) (handle : Nat) (row homeLoc homeAddr16 fmt : Nat) (body : List Byte) : State × Nat :=
  let addr := s.logBase + s.erm.logHead % s.logSize
  let w0 := handle * 2 ^ 24 + homeLoc * 2 ^ 21 + fmt * 2 ^ 19 + body.length / 16 * 2 ^ 8 + row / 2 ^ 32 % 256
  let words : List W := [BitVec.ofNat 32 w0, BitVec.ofNat 32 row, BitVec.ofNat 32 homeAddr16,
    BitVec.ofNat 32 (homeAddr16 / 2 ^ 32), BitVec.ofNat 32 s.tb.stime, BitVec.ofNat 32 (s.tb.stime / 2 ^ 32),
    BitVec.ofNat 32 s.erm.lseq, 0]
  let s := s.logWrite addr (wordBytes words ++ body)
  ({ s with erm := { s.erm with logHead := s.erm.logHead + 32 + body.length, logCount := s.erm.logCount + 1,
                                lseq := s.erm.lseq + 1 } }, addr)

/-- The open window of a row of a version: `moved` tells whether its pointer has switched. -/
def State.winOf (s : State) (d : List W) (row : Nat) (moved : Bool) : Option Win :=
  s.erm.wins.find? fun w => w.dir == tDir d && w.row == row && w.moved.isSome == moved

/-- Whose packet it is (R429 words 3 and 4): a command's job tag and name. -/
structure Sender where
  job : Nat
  id  : CmdId
deriving DecidableEq, Repr

def Cmd.sender (m : Cmd) : Sender := ⟨m.job, m.id⟩

/-- A packet that carries a row record to another package. -/
def State.rowPkt (s : State) (by_ : Sender) (dst handle row fmt : Nat) (guest : Bool) (rec_ : List Byte) : Pkt :=
  { type := .write, cls := 3, phase := 1, len := min 2048 rec_.length, dst := dst, src := s.pkg, via := dst, job := by_.job,
    ring := by_.id.ring, seq := by_.id.seq, sink := 2,
    body := .rowWrite handle row fmt guest rec_ }

/-- A further copy of a row written: its failure, and the flags of its conversion (R70). -/
abbrev CopyEnd := State × Option Status × Flags

/-- The same write to the new copy of an open window, in that copy's format (R202, R210). -/
def State.dualWrite (s : State) (by_ : Sender) (handle : Nat) (d : List W) (row : Nat) (v : RowVal) : CopyEnd :=
  match s.winOf d row false with
  | none => (s, none, {})
  | some w =>
    let r := rowRecord d w.fmt v
    match w.remote with
    | some p => (s.sendAll (packetsOf (s.rowPkt by_ p handle row w.fmt true r.1)), none, r.2)
    | none =>
      let q := s.ermWrite w.tier w.addr r.1
      (q.1, q.2.map (uncorrAt w.tier), r.2)

/-- The same write to the old copy of a window whose pointer has switched and that has not closed (R210). -/
def State.oldWrite (s : State) (d : List W) (row : Nat) (v : RowVal) : CopyEnd :=
  match s.winOf d row true with
  | none => (s, none, {})
  | some w =>
    let r := rowRecord d w.fmt v
    let q := s.ermWrite w.oldTier w.oldAddr r.1
    (q.1, q.2.map (uncorrAt w.oldTier), r.2)

/-- The part of a row write that goes where the directory points, with room in the log where it takes any: the new entry
(dirty set), or the failure. -/
def State.writeHome (s : State) (handle : Nat) (d : List W) (row : Nat) (e : Dir) (v : RowVal) :
    State × Except Status (Dir × Flags) :=
  let e := { e with dirty := true }
  let r := rowRecord d e.fmt v
  if e.loc = 0 then
    let q := s.ermWrite 3 (16 * e.addr16) r.1
    match q.2 with
    | some a => (q.1, .error (uncorrAt 3 a))
    | none => (q.1, .ok (e, r.2))
  else
    let h := s.findRec e
    match h.2 with
    | .error st => (h.1, .error st)
    | .ok home =>
      let home := home.getD (locTier e.loc, 16 * e.addr16)
      let q := h.1.logAppend handle row (tierLoc home.1) (home.2 / 16) e.fmt r.1
      (q.1, .ok ({ e with loc := 3, addr16 := q.2 / 16 }, r.2))

/-- The entry that a row write finds: of a zero row, one with a record of the row's class (R202). -/
def State.placedEntry (s : State) (d : List W) (e : Dir) : State × Option Dir :=
  if e.loc = 5 then
    let c := s.rowClass d e.heat
    let f := classFmt d c
    let a := s.alloc (classTier c) (recBytes d f)
    (a.1, a.2.map fun x => { e with loc := tierLoc (classTier c), fmt := f, addr16 := x / 16 })
  else (s, some e)

/-- A row write to a row that this package holds, its entry placed: the old copy of a switched window, where the directory
points, the new copy of an open window (R202, R210). -/
def State.writeCopies (s : State) (by_ : Sender) (handle : Nat) (d : List W) (row : Nat) (e : Dir) (v : RowVal) : State × RowEnd :=
  if e.loc ≠ 0 ∧ s.logRoom (32 + recBytes d e.fmt) = false then (s, .wait true) else
  let o := s.oldWrite d row v
  match o.2.1 with
  | some st => (o.1, .fail st)
  | none =>
    let r := o.1.writeHome handle d row e v
    match r.2 with
    | .error st => (r.1, .fail st)
    | .ok (e', fl) =>
      let q := (r.1.setDir d row e').dualWrite by_ handle d row v
      match q.2.1 with
      | some st => (q.1, .fail st)
      | none => (q.1, .done (Flags.all [o.2.2, fl, q.2.2]))

/-- A forwarded row write (R202): the old copy of a switched window, then the package that holds the row. -/
def State.forwardWrite (s : State) (by_ : Sender) (handle : Nat) (d : List W) (row : Nat) (e : Dir) (v : RowVal) : State × RowEnd :=
  let o := s.oldWrite d row v
  match o.2.1 with
  | some st => (o.1, .fail st)
  | none =>
    let r := rowRecord d 0 v
    let p := o.1.rowPkt by_ (e.addr16 % 2 ^ 16) handle row 0 false r.1
    ((o.1.setDir d row { e with dirty := true }).sendAll (packetsOf p), .done (o.2.2.or r.2))

/-- A row write of a main handle's version in force, under the row lock (R185, R202). -/
def State.rowWrite (s : State) (by_ : Sender) (handle : Nat) (d : List W) (row : Nat) (v : RowVal) : State × RowEnd :=
  let t := s.ermTouch 3 (dirAddr d row) 8
  match t.2 with
  | some a => (t.1, .fail (uncorrAt 3 a))
  | none =>
    let e := t.1.dir d row
    if e.loc = 4 then t.1.forwardWrite by_ handle d row e v
    else
      let p := t.1.placedEntry d e
      match p.2 with
      | none => (p.1, .wait false)
      | some e => p.1.writeCopies by_ handle d row e v

/-- A row write waits for log space: ERM.LOG_STALL counts it (R206, R223). -/
def State.countStall (s : State) : State := s.bump (cnt (Reg.erm 0x8C))

/-! ### Merging the log (R206) -/

/-- The version in force whose directory may name a log record: a merge acts on no other (R206, R233; assumption 29). -/
def State.logVersion (s : State) (handle row : Nat) : Option (List W) :=
  (s.handle handle).bind fun h => if h.role = .main ∧ tHolds h.desc row = true then some h.desc else none

/-- Frees the oldest log record, whose body has n bytes. -/
def State.freeLog (s : State) (n : Nat) : State :=
  { s with erm := { s.erm with logTail := s.erm.logTail + 32 + n, logCount := s.erm.logCount - 1 } }

/-- Merges a log record that the directory still names: its body goes to its home, and then the entry names the home. -/
def State.mergeHome (s : State) (d : List W) (row addr n : Nat) : State × Option Status :=
  let b := s.logAt addr 32
  let r := s.logTouch b n
  match r.2 with
  | some a => (r.1, some (uncorrAt 3 a))
  | none =>
    let home := r.1.logHome addr
    let w := r.1.ermWrite home.1 home.2 (r.1.logPeek b n)
    match w.2 with
    | some a => (w.1, some (uncorrAt home.1 a))
    | none =>
      let s := w.1.setDir d row { w.1.dir d row with loc := tierLoc home.1, addr16 := home.2 / 16 }
      ((s.freeLog n).bump (cnt (Reg.erm 0x90)), none)

/-- Merges the oldest log record: the state after it, and the uncorrectable data that stops the merge. -/
def State.mergeOne (s : State) : State × Option Status :=
  let addr := s.logBase + s.erm.logTail % s.logSize
  let t := s.logTouch addr 32
  match t.2 with
  | some a => (t.1, some (uncorrAt 3 a))
  | none =>
    let h := bytesWords 8 (t.1.logPeek addr 32)
    let row := wordAt h 1 + 2 ^ 32 * wbits h 0 7 0
    let n := 16 * wbits h 0 18 8
    let superseded := fun (s : State) => ((s.freeLog n).bump (cnt (Reg.erm 0x94)), (none : Option Status))
    match t.1.logVersion (wbits h 0 31 24) row with
    | none => superseded t.1
    | some d =>
      let q := t.1.ermTouch 3 (dirAddr d row) 8
      match q.2 with
      | some a => (q.1, some (uncorrAt 3 a))
      | none =>
        let e := q.1.dir d row
        if e.loc = 3 ∧ e.addr16 = addr / 16 then q.1.mergeHome d row addr n else superseded q.1

/-- Merges up to n records; the failure that stopped it and how many were done. -/
def State.mergeN (s : State) : Nat → State × Option Status × Nat
  | 0 => (s, none, 0)
  | n + 1 =>
    if s.erm.logCount = 0 then (s, none, 0) else
    let r := s.mergeOne
    match r.2 with
    | some st => (r.1, some st, 0)
    | none => let q := r.1.mergeN n; (q.1, q.2.1, q.2.2 + 1)

end Sys2Proof.Machine
end

