-- ==== Sys2Proof/Machine/Erm.lean ====
section
/-! DEFINITION. The commands and events of the Embedding Row Manager: opening and closing tables (R182), TIER_PASS (R204),
log merges (R206), MIGRATE and its windows (R208 to R215), row replacement (R226, R227, R230), remote rows (R195, R202,
R209, R244), load windows (R222) and the pools' disabling (R225). -/

namespace Sys2Proof.Machine

open Fp

/-! ### What names a handle (R182) -/

/-- A shard table of so many descriptors names a handle (R402, R521). -/
def shardsName (ws : List W) (count n : Nat) : Bool :=
  (List.range count).any fun i =>
    let d := ws.drop (16 * i)
    wbits d 0 27 26 == 2 && wbits d 3 7 0 == n

/-- Whether an accepted command names a table handle. -/
def namesHandle (m : Cmd) (n : Nat) : Bool :=
  let layers := fun (_ : Unit) => m.rawLayers.any fun l =>
    (l.op == 2 && l.bits 6 31 30 == 0 && l.bits 6 15 8 == n) || (l.op == 6 && l.bits 6 31 30 == 2 && l.bits 12 7 0 == n)
  match m.opcode with
  | 0x32 => layers ()
  | 0x33 => m.bits 4 7 0 == n
  | 0x35 => m.bits 4 7 0 == n
  | 0x37 => m.bits 4 7 0 == n
  | 0x38 => m.bits 4 7 0 == n || m.bits 4 15 8 == n
  | 0x39 => m.bits 4 7 0 == n
  | 0x3A => m.bits 4 7 0 == n || m.bits 4 15 8 == n
  | 0x40 => layers ()
  | 0x80 => layers ()
  | 0x60 => shardsName (m.capAt (m.ptr 4) (64 * m.bits 6 12 0)) (m.bits 6 12 0) n
  | 0x71 =>
    let h := m.capAt (m.ptr 4) 64
    shardsName (m.capAt (ptrAt h 1) (64 * wbits h 3 12 0)) (wbits h 3 12 0) n
  | _ => false

/-! ### TABLE_OPEN and TABLE_CLOSE -/

def disjoint (a n b m : Nat) : Bool := decide (a + n ≤ b) || decide (b + m ≤ a)

/-- Opens a handle: of closed tables, those whose directory its own overlaps name nothing more of themselves (R186). -/
def State.openHandle (s : State) (h : Handle) : State :=
  { s with erm := { s.erm with
      handles := s.erm.handles ++ [h]
      closed := s.erm.closed.filter fun d => disjoint (tDir d) (8 * tLocal d) (tDir h.desc) (8 * tLocal h.desc) } }

def runTableOpen (c : CmdId) (s : State) : State :=
  s.runTo c 0x30 fun m s =>
    match m.block 5 (m.ptr 5) 64 with
    | .error st => (s, st)
    | .ok d =>
      let t := s.touchMap d
      match t.2 with
      | some a => (t.1, uncorrAt 3 a)
      | none =>
        let s := t.1
        if !s.tableOk d then (s, badDesc (m.ptr 5).addr)
        else if (s.handle (m.bits 4 7 0)).isSome then (s, oor 4)
        else (s.openHandle { n := m.bits 4 7 0, desc := d }, okStatus)

def execTableOpen (c : CmdId) (s : State) : Host.Outcome State Fault Refusal := fin (runTableOpen c s)

/-- No other accepted command names the handle. -/
def State.handleIdle (s : State) (n : Nat) (c : CmdId) : Bool :=
  s.cmds.all fun o => decide (o.id = c) || !namesHandle o n

/-- TABLE_CLOSE ends: the handle is gone. A staged version goes with its staging handle, and its records are free (R233). The
entries of a main handle's directory still name their records (R186); its staged version, which would belong to no main handle
(R228), is discarded with it, and the handles that follow it close (DESIGN CHOICE, assumption 100). -/
def State.closeHandle (s : State) (n : Nat) : State :=
  match s.handle n with
  | none => s
  | some h =>
    match h.role with
    | .main =>
      let gone := fun (g : Handle) => g.n == n || g.role == .staging n || g.role == .follow n
      { s with erm := { s.erm with handles := s.erm.handles.filter fun g => !gone g, closed := s.erm.closed ++ [h.desc] } }
    | _ => s.dropHandle n

/-- TABLE_CLOSE: OUT_OF_RANGE when the handle is not open, RESOURCE_HELD while its staged version is locked (R239); else it
completes once no accepted command names the handle. -/
def runTableClose (c : CmdId) (s : State) : State :=
  s.run c 0x31 fun m s =>
    let n := m.bits 4 7 0
    match s.openFor m n with
    | none => s.refuse c (oor 4)
    | some h =>
      match h.locked with
      | some r => s.refuse c (heldBy 0x0051 r)
      | none =>
        if s.handleIdle n c then (s.closeHandle n).complete c okStatus else s

def execTableClose (c : CmdId) (s : State) : Host.Outcome State Fault Refusal := fin (runTableClose c s)

def tableCloseDone (c : CmdId) (s : State) : State :=
  match s.findCmd c with
  | some m =>
    if m.opcode = 0x31 ∧ m.phase = .running ∧ s.handleIdle (m.bits 4 7 0) c = true then
      (s.closeHandle (m.bits 4 7 0)).complete c okStatus
    else s
  | none => s

def execTableCloseComplete (c : CmdId) (s : State) : Host.Outcome State Fault Refusal := fin (tableCloseDone c s)

/-! ### The gate of a checkpoint stream (R525) -/

/-- A row of a table lies in a range that the running stream has not passed. -/
def State.rowGated (s : State) (handle : Nat) (local_ : Nat) : Bool :=
  match s.ck.stream with
  | none => false
  | some k => k.todo.any fun g => g.type == 4 && g.item == handle && decide (g.off ≤ local_) && decide (local_ < g.off + g.len)

def State.setAux (s : State) (c : CmdId) (l : List Nat) : State := s.mapCmd c fun m => { m with aux := l }

/-- What a row at position i that waits has been counted for: 1 the stream (CKPT.HOLDS), 2 log space (ERM.LOG_STALL). -/
def Cmd.waitMarks (m : Cmd) (i : Nat) : Nat := if m.aux.getD 0 0 = i then m.aux.getD 1 0 else 0

/-- A row at position i waits; one of `mark`'s kind is counted at its first wait of that kind (R206, R223, R525). -/
def State.rowWaits (s : State) (c : CmdId) (i mark : Nat) (count : State → State) : State :=
  match s.findCmd c with
  | some m =>
    let old := m.waitMarks i
    if mark = 0 ∨ old / mark % 2 = 1 then s.setAux c [i, old] else (count s).setAux c [i, old + mark]
  | none => s

/-- A row write or a move waits for the stream at position i: CKPT.HOLDS counts the wait once. -/
def State.holdRow (s : State) (c : CmdId) (i : Nat) : State := s.rowWaits c i 1 fun s => s.bump (cnt Reg.ckptHolds)

/-- Position at which a row-by-row command goes on. -/
def Cmd.at_ (m : Cmd) : Nat := m.aux.getD 0 0

/-! ### TIER_PASS (R204) -/

/-- The current class, from fmt and home tier; of a format the classes do not give the tier, the nearest below
(assumption 30). -/
def currentClass (fmt tier : Nat) : Nat :=
  if tier = 5 then 5 else if tier = 4 then (if fmt = 2 then 3 else 4) else if fmt = 0 then 1 else 2

/-- The class R204 step 3 aims at. -/
def State.targetClass (s : State) (d : List W) (cur heat : Nat) : Nat :=
  let up := s.rowClass d heat
  let down := s.rowClass d (min 255 (heat + tHyst d))
  if up < cur then up else if cur < down then down else cur

/-- The move of a row of a pass to its target class (R204 step 4): its failure, if any, and its flags. -/
def State.tierMove (s : State) (d : List W) (row : Nat) (e : Dir) (tgt : Nat) : State × Option Status × Flags :=
  let f := classFmt d tgt
  let a := s.alloc (classTier tgt) (recBytes d f)
  match a.2 with
  | none => (a.1.bump (cnt (Reg.erm 0x84)), none, {})
  | some x =>
    let r := a.1.readRec d e 4
    match r.2 with
    | .error st => (r.1, some st, {})
    | .ok bs =>
      let out := rowRecord d f (RowVal.ofRecord d e.fmt bs)
      let w := r.1.ermWrite (classTier tgt) x out.1
      match w.2 with
      | some y => (w.1, some (uncorrAt (classTier tgt) y), out.2)
      | none =>
        ((w.1.setDir d row { e with loc := tierLoc (classTier tgt), fmt := f, addr16 := x / 16 }).bump
          (cnt (Reg.erm 0x80)), none, out.2)

/-- One row of a pass: its failure, if any, and its flags. -/
def State.tierRow (s : State) (d : List W) (row : Nat) (decay : Bool) : State × Option Status × Flags :=
  let t := s.ermTouch 3 (dirAddr d row) 8
  match t.2 with
  | some a => (t.1, some (uncorrAt 3 a), {})
  | none =>
    let s := t.1
    let e := s.dir d row
    if e.loc = 4 ∨ e.loc = 5 ∨ e.dual = true then (s.bump (cnt (Reg.erm 0x84)), none, {}) else
    let heat := if decay && tDecay d != 0 then e.heat - e.heat / 2 ^ tDecay d else e.heat
    let e := { e with heat := heat }
    let h := (if decay then s.setDir d row e else s).findRec e
    match h.2 with
    | .error st => (h.1, some st, {})
    | .ok home =>
      let cur := currentClass e.fmt (home.getD (3, 0)).1
      let tgt := h.1.targetClass d cur heat
      if tgt = cur then (h.1, none, {}) else h.1.tierMove d row e tgt

/-- A row that a pass would move to another class (R204). -/
def State.tierMoves (s : State) (d : List W) (row : Nat) (decay : Bool) : Bool :=
  let e := s.dir d row
  if e.loc = 4 ∨ e.loc = 5 ∨ e.dual = true then false else
  let heat := if decay && tDecay d != 0 then e.heat - e.heat / 2 ^ tDecay d else e.heat
  let cur := currentClass e.fmt ((s.entryRec e).getD (3, 0)).1
  s.targetClass d cur heat != cur

/-- Rows of a pass from local row `first + i` on: it stops at a row whose move must wait (R525). -/
def tierLoop (c : CmdId) (h : Nat) (d : List W) (first count : Nat) (decay : Bool) : Nat → Nat → State → State
  | 0, _, s => s.complete c okStatus
  | n + 1, i, s =>
    if s.rowGated h (first + i) && s.tierMoves d (tFirst d + first + i) decay then s.holdRow c i else
    let r := s.tierRow d (tFirst d + first + i) decay
    let s := r.1.addFlags c r.2.2
    match r.2.1 with
    | some st => s.complete c st
    | none => tierLoop c h d first count decay n (i + 1) (s.progress c ((i + 1) / 65536))

/-- TIER_PASS from a row on. -/
def tierPassFrom (m : Cmd) (s : State) : State :=
  let h := m.bits 4 7 0
  let first := m.word 5 + 2 ^ 32 * m.bits 6 7 0
  match s.mainFor m h with
  | none => s.refuse m.id (oor 4)
  | some t =>
    if m.word 7 = 0 then s.refuse m.id (oor 7)
    else if tLocal t.desc < first + m.word 7 then s.refuse m.id (oor 5)
    else tierLoop m.id h t.desc first (m.word 7) (m.bits 8 0 0 == 1) (m.word 7 - m.at_) m.at_ s

def runTierPass (c : CmdId) (s : State) : State := s.run c 0x33 fun m s => tierPassFrom m s

def execTierPass (c : CmdId) (s : State) : Host.Outcome State Fault Refusal := fin (runTierPass c s)

/-! ### The log -/

/-- LOG_MERGE: word 4 records, or every record pending at acceptance, which aux holds (R187). -/
def runLogMerge (c : CmdId) (s : State) : State :=
  s.run c 0x34 fun m s =>
    let n := if m.word 4 = 0 then m.aux.getD 0 s.erm.logCount else m.word 4
    let r := s.mergeN n
    match r.2.1 with
    | some st => (r.1.progress c (r.2.2 / 1024)).complete c st
    | none => r.1.complete c okStatus

def execLogMerge (c : CmdId) (s : State) : Host.Outcome State Fault Refusal := fin (runLogMerge c s)

/-- The log fill has reached merge_at sixteenths (R206, R218). -/
def State.mergeDue (s : State) : Bool :=
  let at_ := s.fld F.logMergeAt
  at_ != 0 && decide (at_ * s.logSize ≤ 16 * (s.erm.logHead - s.erm.logTail))

def logMergeAuto (s : State) : State := if s.mergeDue then (s.mergeN s.erm.logCount).1 else s

def execLogMergeAutoStart (s : State) : Host.Outcome State Fault Refusal := fin (logMergeAuto s)

/-! ### Row lists (R155, R208) -/

/-- A row list's tensor: INT32, one dimension, from 1 to `most` rows; its number of rows. -/
def State.rowList (s : State) (m : Cmd) (w most : Nat) : Except Status (Tensor × Nat) := do
  let t ← s.tensorArg m w
  need (t.fmt == 7) (badFormat w t.fmt)
  need (t.ndim == 1 && t.size 0 % 2 == 0) (badDesc t.at_)
  need (decide (t.size 0 / 2 ≤ most)) (oor w)
  pure (t, t.size 0 / 2)

/-- Row i of a list. -/
def State.listRow (s : State) (t : Tensor) (i : Nat) : Nat :=
  s.elemBits t [2 * i] + 2 ^ 32 * (s.elemBits t [2 * i + 1] % 256)

/-! ### TABLE_WRITE (R226, R230) -/

/-- The checks of a source tensor of n rows (R230); `short` is the operand word named when it has too few rows. -/
def State.sourceTensor (s : State) (m : Cmd) (w short : Nat) (d : List W) (acc : Bool) (n : Nat) :
    Except Status Tensor := do
  let t ← s.tensorArg m w
  need (decide (t.fmt < 5)) (badFormat w t.fmt)
  need (t.ndim == 2 && t.size 0 == tWidth d + acc.toNat && !(acc && !tEmbed d)) (badDesc t.at_)
  need (decide (n ≤ t.size 1)) (oor short)
  pure t

/-- The fmt of a directory entry that an element format is, if it is one (R183). -/
def fmtOfFormat : Nat → Option Nat
  | 0 => some 0
  | 1 => some 1
  | 3 => some 2
  | 5 => some 3
  | _ => none

/-- A source row, with the read's failure: its elements keep their bits for a record of their own format (R52), its
accumulator is widened to FP32 (R230). -/
def State.sourceRow (s : State) (t : Tensor) (d : List W) (acc : Bool) (j : Nat) : State × Except Status RowVal :=
  let cs := (List.range (t.size 0)).map fun i => [i, j]
  let r := s.touchElems t cs
  match r.2 with
  | some (k, a) => (r.1, .error (uncorrAt k a))
  | none =>
    let w := tWidth d
    let codes := cs.map fun c => r.1.elemBits t c
    let last := codes.getD w 0
    (r.1, .ok
      { vals := (cs.take w).map fun c => r.1.elem t c
        acc := if acc = false then 0 else if t.fmt = 0 then last else encodeIeee fp32 (decode t.fmt last 0)
        stored := (fmtOfFormat t.fmt).map fun f => (f, (codes.take w).flatMap fun b => leBytes (width t.fmt / 8) b) })

/-- A row write at position i waits for log space, which is counted once, or for a record. -/
def State.waitRow (s : State) (c : CmdId) (i : Nat) (log : Bool) : State := s.rowWaits c i (if log then 2 else 0) State.countStall

/-- Rows of TABLE_WRITE from list entry i on; it stops at a row that must wait. -/
def writeLoop (c : Sender) (h : Nat) (d : List W) (lst src : Tensor) (acc : Bool) : Nat → Nat → State → State
  | 0, _, s => s.complete c.id okStatus
  | n + 1, i, s =>
    let row := s.listRow lst i
    if s.rowGated h (row - tFirst d) then s.holdRow c.id i else
    let r := s.sourceRow src d acc i
    match r.2 with
    | .error st => r.1.complete c.id st
    | .ok v =>
      let q := r.1.rowWrite c h d row v
      match q.2 with
      | .wait log => q.1.waitRow c.id i log
      | .fail st => q.1.complete c.id st
      | .done f => writeLoop c h d lst src acc n (i + 1) ((q.1.addFlags c.id f).progress c.id (i + 1))

/-- The tensors of a TABLE_WRITE, checked, with its number of rows. -/
def State.tableWriteArgs (s : State) (m : Cmd) (d : List W) : Except Status (Tensor × Nat × Tensor) := do
  let l ← s.rowList m 5 65536
  let src ← s.sourceTensor m 7 7 d (m.bits 4 8 8 == 1) l.2
  pure (l.1, l.2, src)

/-- TABLE_WRITE from a row on. -/
def tableWriteFrom (m : Cmd) (s : State) : State :=
  let h := m.bits 4 7 0
  match s.mainFor m h with
  | none => s.refuse m.id (oor 4)
  | some t =>
    match s.tableWriteArgs m t.desc with
    | .error st => s.refuse m.id st
    | .ok (lst, n, src) =>
      let r := s.touchElems lst (lst.run 0 (2 * n))
      match r.2 with
      | some (k, a) => r.1.complete m.id (uncorrAt k a)
      | none =>
        let bad := (List.range n).any fun i =>
          decide (tRows t.desc ≤ s.listRow lst i) || !tHolds t.desc (s.listRow lst i)
        if bad then r.1.complete m.id (oor 5)
        else writeLoop m.sender h t.desc lst src (m.bits 4 8 8 == 1) (n - m.at_) m.at_ r.1

def runTableWrite (c : CmdId) (s : State) : State := s.run c 0x37 fun m s => tableWriteFrom m s

def execTableWrite (c : CmdId) (s : State) : Host.Outcome State Fault Refusal := fin (runTableWrite c s)

/-- Row-by-row commands that wait go on where they stopped, oldest first (R206, R525). -/
def State.resumeRows (s : State) : State :=
  (s.cmds.filter fun m => m.phase == .running && (m.opcode == 0x33 || m.opcode == 0x37)).foldl
    (fun s m => match s.findCmd m.id with
      | some m => if m.opcode = 0x33 then tierPassFrom m s else tableWriteFrom m s
      | none => s) s

/-! ### MIGRATE (R208, R209) -/

/-- What a row of a MIGRATE leaves: moved, left unmoved, failed. -/
inductive MigEnd where
  | moved
  | skipped
  | fail (st : Status)
deriving DecidableEq, Repr

/-- Records a window and sets dual. -/
def State.openWin (s : State) (d : List W) (row : Nat) (e : Dir) (w : Win) : State :=
  ({ s with erm := { s.erm with wins := s.erm.wins ++ [w] } }).setDir d row { e with dual := true }

/-- One row of a MIGRATE under one hold of the row lock. -/
def State.migrateRow (s : State) (c : CmdId) (h : Nat) (d : List W) (row : Nat) (remote : Option Nat) (stack : Nat) :
    State × MigEnd :=
  let t := s.ermTouch 3 (dirAddr d row) 8
  match t.2 with
  | some a => (t.1, .fail (uncorrAt 3 a))
  | none =>
    let s := t.1
    let e := s.dir d row
    if e.loc = 4 ∨ e.loc = 5 ∨ e.dual = true then (s, .skipped) else
    let win : Win := { cmd := c, handle := h, dir := tDir d, row := row, fmt := e.fmt }
    match remote with
    | some p =>
      let r := s.readRec d e 5
      match r.2 with
      | .error st => (r.1, .fail st)
      | .ok bs => ((r.1.sendAll (packetsOf (s.rowPkt ⟨((s.findCmd c).map (·.job)).getD 0, c⟩ p h row e.fmt true bs))).openWin d row e { win with remote := some p }, .moved)
    | none =>
      let h := s.findRec e
      match h.2 with
      | .error st => (h.1, .fail st)
      | .ok home =>
        let tier := (home.getD (3, 0)).1
        let a := h.1.alloc tier (recBytes d e.fmt) (some stack)
        match a.2 with
        | none => (a.1, .skipped)
        | some x =>
          let r := a.1.readRec d e 5
          match r.2 with
          | .error st => (r.1, .fail st)
          | .ok bs =>
            let w := r.1.ermWrite tier x bs
            match w.2 with
            | some y => (w.1, .fail (uncorrAt tier y))
            | none => (w.1.openWin d row e { win with tier := tier, addr := x }, .moved)

/-- Rows of a MIGRATE from entry i on; it waits while all 4,096 windows are open (R209). -/
def migrateLoop (c : CmdId) (h : Nat) (d : List W) (lst : Tensor) (remote : Option Nat) (stack : Nat) :
    Nat → Nat → State → State
  | 0, _, s => s.complete c okStatus
  | n + 1, i, s =>
    if 4096 ≤ s.erm.wins.length then s.setAux c [i] else
    let r := s.migrateRow c h d (s.listRow lst i) remote stack
    match r.2 with
    | .fail st => r.1.complete c st
    | .skipped => migrateLoop c h d lst remote stack n (i + 1) ((r.1.bump (cnt (Reg.erm 0x98))).progress c (i + 1))
    | .moved => migrateLoop c h d lst remote stack n (i + 1) (r.1.progress c (i + 1))

/-- MIGRATE from a row on. -/
def migrateFrom (m : Cmd) (s : State) : State :=
  let h := m.bits 4 7 0
  let remote := if m.bits 4 31 31 = 1 then some (m.bits 4 23 8) else none
  match s.mainFor m h with
  | none => s.refuse m.id (oor 4)
  | some t =>
    match s.rowList m 5 4096 with
    | .error st => s.refuse m.id st
    | .ok (lst, n) =>
      if remote.isNone && decide (11 < m.bits 4 27 24) then s.refuse m.id (oor 4) else
      let r := s.touchElems lst (lst.run 0 (2 * n))
      match r.2 with
      | some (k, a) => r.1.complete m.id (uncorrAt k a)
      | none =>
        let bad := (List.range n).any fun i => !tHolds t.desc (s.listRow lst i)
        if bad then r.1.complete m.id (oor 5)
        else migrateLoop m.id h t.desc lst remote (m.bits 4 27 24) (n - m.at_) m.at_ r.1

def runMigrate (c : CmdId) (s : State) : State := s.run c 0x35 fun m s => migrateFrom m s

def execMigrate (c : CmdId) (s : State) : Host.Outcome State Fault Refusal := fin (runMigrate c s)

/-- MIGRATEs that wait for a window go on. -/
def State.resumeMigrates (s : State) : State :=
  (s.cmds.filter fun m => m.phase == .running && m.opcode == 0x35).foldl
    (fun s m => match s.findCmd m.id with | some m => migrateFrom m s | none => s) s

/-! ### Windows (R210 to R215) -/

/-- The descriptor of the version a window belongs to. -/
def State.winDesc (s : State) (w : Win) : Option (List W) := s.versions.find? fun d => tDir d == w.dir

/-- Takes a window out of the table and clears its row's dual, by a read and a write of its entry; its copy that no entry names
is then free (R186). An entry that cannot be read stays as it is (R45). -/
def State.shutWin (s : State) (w : Win) : State :=
  let s := { s with erm := { s.erm with wins := s.erm.wins.filter fun v => !(v.row == w.row && v.dir == w.dir) } }
  match s.winDesc w with
  | some d =>
    let t := s.ermTouch 3 (dirAddr d w.row) 8
    if t.2.isSome then t.1 else t.1.setDir d w.row { t.1.dir d w.row with dual := false }
  | none => s

/-- Cancels a window: no pointer changes, and the new copy is freed; a guest row by a guest write that carries no record
(R213; assumption 81). -/
def State.cancelWin (s : State) (w : Win) : State :=
  let s := s.shutWin w
  match w.remote with
  | some p =>
    let job := ((s.findCmd w.cmd).map (·.job)).getD 0
    s.send (s.rowPkt ⟨job, w.cmd⟩ p w.handle w.row w.fmt true [])
  | none => s

/-- Cancels windows. -/
def State.dropWins (s : State) (ws : List Win) : State := ws.foldl State.cancelWin s

/-- Cancels windows; a MIGRATE that waits for one goes on (R209, R213). -/
def State.cancelWins (s : State) (ws : List Win) : State :=
  if ws.isEmpty then s else (s.dropWins ws).resumeMigrates

/-- Windows of a MIGRATE whose pointers have not moved, ascending in row. -/
def State.openWins (s : State) (c : CmdId) : List Win :=
  sortBy (fun a b => decide (a.row ≤ b.row)) (s.erm.wins.filter fun w => decide (w.cmd = c) && w.moved.isNone)

/-- Notes the pointer switch of a window and its old copy. -/
def State.noteMoved (s : State) (switch : CmdId) (w : Win) (old : Nat × Nat) : State :=
  let mark := fun (v : Win) =>
    if v.row == w.row && v.dir == w.dir then { v with moved := some switch, oldTier := old.1, oldAddr := old.2 } else v
  { s with erm := { s.erm with wins := s.erm.wins.map mark } }

/-- Points the directory at the window's new copy (R211): the first failure of its reads leaves the pointer. -/
def State.moveWin (s : State) (switch : CmdId) (w : Win) : State × Option Status :=
  match s.winDesc w with
  | none => (s, none)
  | some d =>
    let t := s.ermTouch 3 (dirAddr d w.row) 8
    match t.2 with
    | some a => (t.1, some (uncorrAt 3 a))
    | none =>
      let e := t.1.dir d w.row
      let h := t.1.findRec e
      match h.2 with
      | .error st => (h.1, some st)
      | .ok old =>
        let s := h.1.noteMoved switch w (old.getD (3, 0))
        match w.remote with
        | some p => (s.setDir d w.row { e with loc := 4, addr16 := p }, none)
        | none => (s.setDir d w.row { e with loc := tierLoc w.tier, addr16 := w.addr / 16 }, none)

/-- Points the directory at each of several windows' new copies, in order; the first failure. -/
def State.moveWins (s : State) (switch : CmdId) (ws : List Win) : State × Option Status :=
  ws.foldl (fun r w => let q := r.1.moveWin switch w; (q.1, r.2 <|> q.2)) (s, none)

/-- A MIGRATE_SWITCH takes effect or follows its late rule (R211, R213). -/
def State.migrateSwitchAt (s : State) (m : Cmd) : State :=
  let mig : CmdId := ⟨m.bits 4 11 0, m.bits 5 15 0⟩
  let ws := s.openWins mig
  let waiting := s.cmds.any fun o => decide (o.id = mig) && o.opcode == 0x35
  if m.bits 4 31 31 = 1 then
    if ws.isEmpty then s.refuse m.id (oor 4) else (s.cancelWins ws).complete m.id okStatus
  else if waiting then s.complete m.id ⟨St.lateInstant, s.tb.stime % 2 ^ 32, s.tb.stime / 2 ^ 32⟩
  else if ws.isEmpty then s.refuse m.id (oor 4)
  else
    let r := (s.begin m.id).moveWins m.id ws
    match r.2 with
    | some st => r.1.complete m.id st
    | none => r.1

/-- MIGRATE_SWITCH: with sched it waits for T (R86); without, it acts as it runs (assumption 31). -/
def runMigrateSwitch (c : CmdId) (s : State) : State :=
  match s.runnable c 0x36 with
  | none => s
  | some m => if m.sched then s.arm c else ((s.begin c).migrateSwitchAt m)

def execMigrateSwitch (c : CmdId) (s : State) : Host.Outcome State Fault Refusal := fin (runMigrateSwitch c s)

/-- Closes one window after its pointer switch (R212): the reads that took the old address have completed, since every read
of a record is one step here. -/
def windowClose (i : Nat) (s : State) : State :=
  match s.erm.wins[i]? with
  | none => s
  | some w =>
    match w.moved with
    | none => s
    | some c =>
      let s := s.shutWin w
      let s := if s.erm.wins.any fun v => decide (v.moved = some c) then s else s.complete c okStatus
      s.resumeMigrates

def execMigrationWindowClose (window : Nat) (s : State) : Host.Outcome State Fault Refusal := fin (windowClose window s)

/-! ### Remote rows (R195, R202, R209, R244) -/

/-- A packet this package has received and now takes. -/
def State.unbox (s : State) (p : Pkt) : State := { s with fab := { s.fab with inbox := s.fab.inbox.erase p } }

/-- The answer to a row request. -/
def rowReply (s : State) (p : Pkt) (handle row op entry fmt : Nat) (known : Bool) (bs : List Byte) : Pkt :=
  { type := .response, cls := 3, phase := 1, len := min 2048 bs.length, dst := p.src, src := s.pkg, via := p.src, job := p.job,
    ring := p.ring, seq := p.seq, sink := 2, body := .rowResp handle row op entry fmt known bs }

/-- The guest row of a version. -/
def State.guest (s : State) (handle row version : Nat) : Option Guest :=
  s.erm.guests.find? fun g => g.handle == handle && g.row == row && g.version == version

/-- Counts an access in a guest row's heat (R195). -/
def State.heatGuest (s : State) (g : Guest) : State :=
  { s with erm := { s.erm with guests := s.erm.guests.map fun x => if x = g then { x with heat := min 255 (x.heat + 1) } else x } }

/-- Answers a row request; one of another package counts as served (R222). -/
def State.replyRow (s : State) (p : Pkt) (r : Pkt) : State :=
  let s := if p.src = s.pkg then s else { s with erm := { s.erm with served := s.erm.served + 1 } }
  s.sendAll (packetsOf r)

/-- Serves a request whose stamp has come, from the version in force at the stamp (R195, R244), or passes it on. A read that
fails is answered with an empty record: in fmt 3 where the width does not allow it (R184), in fmt 0 where the data is
uncorrectable (assumption 32). -/
def State.serveRow (s : State) (p : Pkt) (handle row stamp op entry : Nat) : State :=
  match (s.handle handle).bind fun h => s.versionAt (s.mainOf h) stamp with
  | none => s.replyRow p (rowReply s p handle row op entry 0 false [])
  | some d =>
    match s.guest handle row (tVersion d) with
    | some g => (s.heatGuest g).replyRow p (rowReply s p handle row op entry g.fmt true g.bytes)
    | none =>
      if !tHolds d row then s.replyRow p (rowReply s p handle row op entry 0 false []) else
      let r := s.readRow d row 4
      match r.2 with
      | .error st => r.1.replyRow p (rowReply r.1 p handle row op entry (if st.code = St.format then 3 else 0) true [])
      | .ok (e, bs) =>
        if e.loc = 4 then r.1.send { p with dst := e.addr16 % 2 ^ 16, via := e.addr16 % 2 ^ 16 }
        else (r.1.setDir d row { e with heat := min 255 (e.heat + 1) }).replyRow p (rowReply r.1 p handle row op entry e.fmt true bs)

/-- An armed TABLE_SWITCH of a main handle whose T has come by a stamp: it acts before anything with that stamp is read
(R242, R243). -/
def State.switchDue (s : State) (main stamp : Nat) : Bool :=
  s.cmds.any fun m => m.opcode == 0x3A && m.phase == .armed && m.bits 4 7 0 == main && decide (m.t ≤ stamp)

/-- The moment of a request's stamp has come, and the version in force at it is known (R243, R244). -/
def State.stampCome (s : State) (handle stamp : Nat) : Bool := decide (stamp ≤ s.tb.stime) && !s.switchDue handle stamp

/-- A row request: held until its stamp, or served (R244). -/
def rowRequest (p : Pkt) (s : State) : State :=
  let s := s.unbox p
  match p.body with
  | .rowReq handle row stamp op entry =>
    if !s.stampCome handle stamp then { s with erm := { s.erm with heldReq := s.erm.heldReq ++ [p] } }
    else s.serveRow p handle row stamp op entry
  | _ => s

def execRemoteRowRequest (p : Pkt) (s : State) : Host.Outcome State Fault Refusal := fin (rowRequest p s)

/-- Held requests whose stamp STIME has reached are served, in the order they came. -/
def releaseRequests (s : State) : State :=
  let due := fun (p : Pkt) => match p.body with | .rowReq handle _ stamp _ _ => s.stampCome handle stamp | _ => true
  let ready := s.erm.heldReq.filter due
  let s := { s with erm := { s.erm with heldReq := s.erm.heldReq.filter fun p => !due p } }
  ready.foldl (fun s p => rowRequest p s) s

def execRemoteRequestStampRelease (s : State) : Host.Outcome State Fault Refusal := fin (releaseRequests s)

/-- The guest rows but for one. -/
def State.guestsBut (s : State) (handle row version : Nat) : List Guest :=
  s.erm.guests.filter fun x => !(x.handle == handle && x.row == row && x.version == version)

/-- Stores or replaces a guest row; at most 65,536 are held (R209). -/
def State.putGuest (s : State) (g : Guest) : State :=
  let rest := s.guestsBut g.handle g.row g.version
  if rest.length < 65536 then { s with erm := { s.erm with guests := rest ++ [g] } } else s

/-- A migrated copy arrives, or the end of one (R209, R213). -/
def State.takeGuest (s : State) (d : List W) (handle row fmt : Nat) (bs : List Byte) : State :=
  if bs.isEmpty then { s with erm := { s.erm with guests := s.guestsBut handle row (tVersion d) } }
  else
    let heat := ((s.guest handle row (tVersion d)).map (·.heat)).getD 0
    s.putGuest { handle := handle, row := row, version := tVersion d, fmt := fmt, bytes := bs, heat := heat }

/-- A migrated copy or a forwarded row write arrives (R202, R209). A forwarded write that cannot be made now is held, and
counted the first time that it waits for log space (R206, R223); one that meets uncorrectable data is held too, since no command
is here to fail (assumption 82). -/
def State.takeRow (s : State) (p : Pkt) (counted : Bool) : State :=
  match p.body with
  | .rowWrite handle row fmt guest bs =>
    match s.handle handle with
    | none => s
    | some h =>
      let d := (s.mainOf h).desc
      if guest then s.takeGuest d handle row fmt bs
      else match s.guest handle row (tVersion d) with
        | some g => s.putGuest { g with bytes := (rowRecord d g.fmt (RowVal.ofRecord d fmt bs)).1 }
        | none =>
          if !tHolds d row then s else
          let r := s.rowWrite ⟨p.job, ⟨p.ring, p.seq⟩⟩ handle d row (RowVal.ofRecord d fmt bs)
          let hold := fun (s : State) (counted : Bool) =>
            { s with erm := { s.erm with heldRows := s.erm.heldRows ++ [(p, counted)] } }
          match r.2 with
          | .done _ => r.1
          | .wait true => if counted then hold r.1 true else hold r.1.countStall true
          | _ => hold r.1 counted
  | _ => s

def remoteWrite (p : Pkt) (s : State) : State := (s.unbox p).takeRow p false

/-- Held forwarded writes are tried again, in the order they came. -/
def State.retryRows (s : State) : State :=
  s.erm.heldRows.foldl (fun s p => s.takeRow p.1 p.2) { s with erm := { s.erm with heldRows := [] } }

def execRemoteRowWrite (p : Pkt) (s : State) : Host.Outcome State Fault Refusal := fin (remoteWrite p s)

/-- The merge has freed log space: row writes that waited for it go on (R206). -/
def execRowWriteLogResume (s : State) : Host.Outcome State Fault Refusal := fin s.resumeRows.retryRows

/-! ### Load windows and pools -/

/-- A load window ends once ERM.LOAD_CFG.window µs have passed since it began (R220). -/
def State.loadDue (s : State) : Bool := decide (s.erm.loadAt + 1000 * max 1 (s.fld F.loadWindow) ≤ s.tb.stime)

/-- R222: each register takes the window that ends. -/
def loadWindow (s : State) : State :=
  if !s.loadDue then s else
  let s1 := (List.range 12).foldl (fun (s : State) k => s.setReg (Reg.erm (0x40 + 4 * k))
    (BitVec.ofNat 32 (min (Tab.get noErr s.loads k / 1024) allOnes))) s
  let s2 := s1.setReg (Reg.erm 0x70) (BitVec.ofNat 32 (min s.erm.served allOnes))
  let s3 := s2.setReg (Reg.erm 0x74) (BitVec.ofNat 32 s.erm.wins.length)
  { s3 with loads := [], erm := { s3.erm with served := 0, loadAt := s3.tb.stime } }

def execErmLoadWindow (s : State) : Host.Outcome State Fault Refusal := fin (loadWindow s)

/-- Some directory entry or window names a record of the pool. -/
def State.poolNamed (s : State) (n : Nat) : Bool :=
  let b := s.poolBase n
  s.namedRecs.any fun r => r.1 == s.poolTierCode n && decide (b ≤ r.2) && decide (r.2 < b + s.poolCount n * s.poolSize n)

/-- A write of ERM.POOL_CFG (R225): while enable is 1 only enable changes, and a 0 waits until no record is named. -/
def poolCfg (n : Nat) (v : W) (s : State) : State :=
  let off := Reg.ermPool n + 8
  if s.flag (F.poolEnable n) then
    if bits v 31 31 = 1 then { s with erm := { s.erm with closing := s.erm.closing.filter (· ≠ n) } }
    else if s.poolNamed n then { s with erm := { s.erm with closing := n :: s.erm.closing } }
    else s.setFld (F.poolEnable n) 0
  else s.setReg off (merge 0xE7FF0000 (s.reg off) v)

/-- A waiting disable takes effect (R225). -/
def poolDisable (n : Nat) (s : State) : State :=
  if s.erm.closing.contains n && !s.poolNamed n then
    ({ s with erm := { s.erm with closing := s.erm.closing.filter (· ≠ n) } }).setFld (F.poolEnable n) 0
  else s

def execPoolDisableComplete (pool : Nat) (s : State) : Host.Outcome State Fault Refusal := fin (poolDisable pool s)

/-- A write of ERM.LOG_CFG (R218). -/
def logCfg (v : W) (s : State) : State :=
  let off := Reg.erm 8
  if s.erm.logCount ≠ 0 then
    let s1 := s.setReg off (merge 0xF000 (s.reg off) v)
    s1.setFld F.logCfgRefused 1
  else s.setReg off (merge 0x3F00F000 (s.reg off) v)

/-- ERM.CTL.clr (R221, R223). -/
def ermCtl (v : W) (s : State) : State :=
  if bits v 0 0 = 1 then s.clear ((List.range 8).map fun i => Reg.erm (0x80 + 4 * i)) else s

/-- ERM.VER_CTL.clr (R249). -/
def ermVerCtl (v : W) (s : State) : State :=
  if bits v 0 0 = 1 then s.clear [Reg.erm 0x308, Reg.erm 0x30C] else s

end Sys2Proof.Machine
end

