-- ==== Sys2Proof/Machine/FpFun.lean ====
section
/-! DEFINITION. The functions of the Drain and the Vector Engine: exp2, log2, recip and rsqrt correctly rounded
(R352), the tabled functions of the Drain (R266 to R269) and the user table (R270).

Reals are computed in fixed point with 320 fractional bits, far below any tie of a 24-bit rounding, and handed to
the rounding with a sticky last bit (assumption 12). -/

namespace Sys2Proof.Machine
namespace Fp

/-- Fractional bits of the fixed-point reals. -/
def fxBits : Nat := 320
def fxOne : Nat := 2 ^ fxBits

/-- Sum of the exponential series of x (fixed point, below 1): `n` more terms, `t` the last term, `k` its index. -/
def expSeries (x : Nat) : Nat → Nat → Nat → Nat
  | 0, _, _ => 0
  | n + 1, t, k => t + expSeries x n (t * x / fxOne / (k + 1)) (k + 1)

/-- e^x for 0 ≤ x < 1 in fixed point. -/
def expFix (x : Nat) : Nat := expSeries x 100 fxOne 0

/-- Sum of z^(2i+1)/(2i+1): `n` more terms, `t` = z^(2i+1), `k` = 2i+1. -/
def atanhSeries (z2 : Nat) : Nat → Nat → Nat → Nat
  | 0, _, _ => 0
  | n + 1, t, k => t / k + atanhSeries z2 n (t * z2 / fxOne) (k + 2)

/-- Alternating sum of z^(2i+1)/(2i+1), the arctangent series. -/
def atanSeries (z2 : Nat) : Nat → Nat → Nat → Int
  | 0, _, _ => 0
  | n + 1, t, k => (t / k : Nat) - atanSeries z2 n (t * z2 / fxOne) (k + 2)

/-- ln m for m in [1, 2) in fixed point. -/
def lnFix (m : Nat) : Nat :=
  let z := (m - fxOne) * fxOne / (m + fxOne)
  2 * atanhSeries (z * z / fxOne) 110 z 1

/-- ln 2 = 2 atanh(1/3). -/
def ln2Fix : Nat :=
  let z := fxOne / 3
  2 * atanhSeries (z * z / fxOne) 110 z 1

/-- pi by Machin's formula. -/
def piFix : Nat :=
  let a := fxOne / 5
  let b := fxOne / 239
  (16 * atanSeries (a * a / fxOne) 80 a 1 - 4 * atanSeries (b * b / fxOne) 30 b 1).toNat

/-- e^y for a fixed-point real y. -/
def realExp (y : Int) : Nat :=
  let n := y / (ln2Fix : Int)
  let e := expFix (y - n * (ln2Fix : Int)).toNat
  if 0 ≤ n then e * 2 ^ n.toNat else e / 2 ^ (-n).toNat

/-- ln w for a positive fixed-point real w at least 1. -/
def realLn (w : Nat) : Nat :=
  let k := Nat.log2 w - fxBits
  lnFix (w / 2 ^ k) + k * ln2Fix

/-- 2^a before its rounding, for a = m * 2^e of either sign (R352). -/
def exp2Exact : Val → Val × Flags
  | .nan => (.nan, .zero)
  | .inf n => if n then (.fin false 0 0, .zero) else (.inf false, .zero)
  | .fin neg m e =>
    if cmpMag m e 1 12 = .gt then (if neg then (.fin false 1 (-4000), .zero) else (.fin false 1 4000, .zero))
    else
      let i : Int := (if neg then -1 else 1) * (scale m (e + fxBits) : Int)
      let n := i / (fxOne : Int)
      let f := (i - n * (fxOne : Int)).toNat
      if f = 0 then (.fin false 1 n, .zero)
      else (.fin false (2 * expFix (f * ln2Fix / fxOne) + 1) (n - fxBits - 1), .zero)

/-- log2 a before its rounding (R352). -/
def log2Exact : Val → Val × Flags
  | .nan => (.nan, .zero)
  | .inf n => if n then (.nan, .onlyInvalid) else (.inf false, .zero)
  | .fin neg m e =>
    if m = 0 then (.inf true, .zero)
    else if neg then (.nan, .onlyInvalid)
    else
      let l := Nat.log2 m
      let k : Int := e + l
      let mant := scale m ((fxBits : Int) - l)
      if mant = fxOne then (ofSigned k 0 false, .zero)
      else
        let f := lnFix mant * fxOne / ln2Fix
        let i : Int := k * (fxOne : Int) + f
        (ofSigned (2 * i + 1) (-(fxBits : Int) - 1) false, .zero)

/-- 1 / a before its rounding, with the special cases of R352. -/
def recipExact (a : Val) : Val × Flags := divExact one a

/-! ### The tabled functions (R266, R268) -/

/-- c * 2^-k in fixed point. -/
def fxOfRat (num den : Int) : Int := num * (fxOne : Int) / den

def fxMul (a b : Int) : Int := a * b / (fxOne : Int)

def realSigmoid (z : Int) : Int :=
  ((fxOne * fxOne) / (fxOne + realExp (-z)) : Nat)

def realTanh (t : Int) : Int :=
  let e : Int := realExp (2 * t)
  (e - fxOne) * fxOne / (e + fxOne)

/-- c = sqrt(2 / pi). -/
def geluC : Int := isqrt (2 * fxOne * fxOne / piFix * fxOne)

/-- The exact real value of a tabled function or its derivative at z (R266), in fixed point: func 3 GELU, 4 SiLU,
5 sigmoid, 6 tanh, 7 softplus. -/
def realFun (func : Nat) (deriv : Bool) (z : Int) : Int :=
  let s := realSigmoid z
  let z2 := fxMul z z
  let t := realTanh (fxMul geluC (z + fxMul (fxOfRat 44715 1000000) (fxMul z2 z)))
  match func, deriv with
  | 3, false => fxMul z (fxOne + t) / 2
  | 3, true =>
    (fxOne + t) / 2 +
      fxMul (fxMul z (fxOne - fxMul t t)) (fxMul geluC (fxOne + fxMul (fxOfRat 134145 1000000) z2)) / 2
  | 4, false => fxMul z s
  | 4, true => fxMul s (fxOne + fxMul z (fxOne - s))
  | 5, false => s
  | 5, true => fxMul s (fxOne - s)
  | 6, false => realTanh z
  | 6, true => let r := realTanh z; fxOne - fxMul r r
  | _, false => (realLn (fxOne + realExp z) : Int)
  | _, true => s

/-- A fixed-point real rounded once to FP32. -/
def roundReal (i : Int) : Val := (roundTo fp32 .nearest (ofSigned i (-(fxBits : Int)) false)).1

/-- The coefficients of segment s of a tabled function (R268). -/
def segCoefs (func : Nat) (deriv : Bool) (s : Nat) : Val × Val × Val :=
  let at32 (n : Int) := realFun func deriv (n * (fxOne : Int) / 32)
  let x : Int := 2 * s - 256
  let g0 := at32 x
  let g1 := at32 (x + 1)
  let g2 := at32 (x + 2)
  (roundReal g0, roundReal (16 * (-3 * g0 + 4 * g1 - g2)), roundReal (512 * (g0 - 2 * g1 + g2)))

/-- fma(fma(c2, u, c1), u, c0), each rounded once (R268). -/
def evalSeg (c0 c1 c2 u : Val) : Val × Flags :=
  let (a, f) := fma c2 u c1
  let (b, g) := fma a u c0
  (b, f.or g)

/-- The values outside the table domain (R269). -/
def tableTail (func : Nat) (deriv high : Bool) (z : Val) : Val :=
  match deriv, high with
  | false, false => if func = 6 then neg one else posZero
  | true, false => posZero
  | false, true => if func = 5 ∨ func = 6 then one else z
  | true, true => if func = 3 ∨ func = 4 ∨ func = 7 then one else posZero

/-- z * 2^k as an integer rounded down. -/
def floorScaled (neg : Bool) (m : Nat) (e k : Int) : Int :=
  let x := e + k
  if 0 ≤ x then (if neg then -1 else 1) * (m * 2 ^ x.toNat : Nat)
  else
    let d := 2 ^ (-x).toNat
    if neg then -(((m + d - 1) / d : Nat) : Int) else ((m / d : Nat) : Int)

/-- A tabled function or its derivative at an FP32 value (R267 to R269). -/
def tabled (func : Nat) (deriv : Bool) (z : Val) : Val × Flags :=
  match z with
  | .nan => (.nan, .zero)
  | .inf n => (tableTail func deriv (!n) z, .zero)
  | .fin n m e =>
    if lt z (.fin true 8 0) then (tableTail func deriv false z, .zero)
    else if !lt z (.fin false 8 0) then (tableTail func deriv true z, .zero)
    else
      let s := (floorScaled n m e 4 + 128).toNat
      let (c0, c1, c2) := segCoefs func deriv s
      let u := (addExact z (neg (ofSigned ((s : Int) - 128) (-4) false))).1
      evalSeg c0 c1 c2 u

/-- A user table's words (R270), as read from its tensor. -/
abbrev UTable := List W

def utWord (t : UTable) (i : Nat) : W := t.getD i 0

/-- The segment width exponent, two's complement in word 1 [7:0]. -/
def utShift (t : UTable) : Int := signed 8 (utWord t 1).toNat

/-- The header checks of R270: lo finite, shift in range, no tail code 3, reserved words 0. -/
def utOk (t : UTable) : Bool :=
  isFinite (of32 (utWord t 0)) && decide ((utWord t 1).toNat < 256) && decide (-16 ≤ utShift t) &&
  decide (utShift t ≤ 8) && decide ((utWord t 2).toNat < 16) && decide ((utWord t 2).toNat % 4 ≠ 3) &&
  decide ((utWord t 2).toNat / 4 ≠ 3) && ((t.drop 3).take 13).all (· == 0)

/-- Evaluation of a user table at z (R270); `deriv` selects the f′ columns. -/
def utEval (t : UTable) (deriv : Bool) (z : Val) : Val × Flags :=
  let col (s k : Nat) : Val := of32 (utWord t ((if deriv then 784 else 16) + 3 * s + k))
  let tail (code : Nat) (clamp : Val × Flags) : Val × Flags :=
    match code with
    | 0 => clamp
    | 1 => (posZero, .zero)
    | _ => (if deriv then one else z, .zero)
  let lowTail := tail ((utWord t 2).toNat / 4) (col 0 0, .zero)
  let highTail := tail ((utWord t 2).toNat % 4) (evalSeg (col 255 0) (col 255 1) (col 255 2) (.fin false 1 (utShift t)))
  match z with
  | .nan => (.nan, .zero)
  | .inf n => if n then lowTail else highTail
  | .fin _ _ _ =>
    match (addExact z (neg (of32 (utWord t 0)))).1 with
    | .fin n m e =>
      let s := floorScaled n m e (-(utShift t))
      if s < 0 then lowTail
      else if s > 255 then highTail
      else
        let k := s.toNat
        let (b, f) := add (of32 (utWord t 0)) (.fin false k (utShift t))
        let (u, g) := sub z b
        let (r, h) := evalSeg (col k 0) (col k 1) (col k 2) u
        (r, (f.or g).or h)
    | _ => (.nan, .zero)

/-- The Drain functions of R266 at an FP32 value: f, or f′ when `deriv` is set. -/
def drainFun (func : Nat) (alpha : Val) (ut : UTable) (deriv : Bool) (z : Val) : Val × Flags :=
  if isNaN z then (.nan, .zero) else
  match func with
  | 0 => (if deriv then one else z, .zero)
  | 1 => (if deriv then (if gt z posZero then one else posZero) else (if gt z posZero then z else posZero), .zero)
  | 2 =>
    if gt z posZero then (if deriv then one else z, .zero)
    else if deriv then (alpha, .zero) else mul alpha z
  | 8 => utEval ut deriv z
  | f => tabled f deriv z

end Fp
end Sys2Proof.Machine
end

