-- ==== Sys2Proof/Machine/Matrix.lean ====
section
/-! DEFINITION. Matrix layers (R251 to R280, R314): their words, the Hall of each row block, the Attic assignment, operand
tiles, chunk sums, the Drain's functions, and the checksum compare (R281 to R285). -/

namespace Sys2Proof.Machine

open Fp

/-! ### The words of a matrix layer -/

/-- Words 6 to 15 of a dense or sparse matrix layer (R263, R314). -/
structure MatSpec where
  func   : Nat
  dmode  : Nat
  round  : Bool
  dwAcc  : Bool
  wt     : Bool
  fbank  : Nat
  bias   : Nat
  ckpt   : Nat
  ftab   : Nat
  dlayer : Nat
  alpha  : W
  pred   : Bool
  zin    : Bool
  zout   : Bool
  dwFull : Bool
  pa     : Nat
  mask   : Nat
  theta  : W
  priv   : Nat
  xz     : Nat
  yz     : Nat
deriving DecidableEq, Repr

/-- A dense layer's words 10 to 15 are reserved and name nothing. -/
def matSpec (l : Layer) : MatSpec :=
  let sp := l.op == 1
  let idx := fun (i hi lo : Nat) => if sp then l.bits i hi lo else noTensor
  { func := l.bits 6 31 28, dmode := l.bits 6 27 26, round := l.bits 6 25 25 == 1, dwAcc := l.bits 6 24 24 == 1,
    wt := l.bits 6 23 23 == 1, fbank := l.bits 6 22 22, bias := l.bits 7 31 16, ckpt := l.bits 7 15 0,
    ftab := l.bits 8 31 16, dlayer := l.bits 8 15 0, alpha := l.words.getD 9 0,
    pred := sp && l.bits 10 31 31 == 1, zin := sp && l.bits 10 30 30 == 1, zout := sp && l.bits 10 29 29 == 1,
    dwFull := sp && l.bits 10 28 28 == 1, pa := idx 11 31 16, mask := idx 11 15 0, theta := l.words.getD 12 0,
    priv := idx 13 31 16, xz := idx 13 15 0, yz := idx 14 31 16 }

/-- A matrix layer with its tensors. -/
structure MatLayer where
  pos   : Nat
  l     : Layer
  sp    : MatSpec
  x     : Option Tensor
  w     : Option Tensor
  y     : Option Tensor
  saved : Option Tensor
  dy    : Option Tensor
  dx    : Option Tensor
  dw    : Option Tensor
  bias  : Option Tensor
  ckpt  : Option Tensor
  ftab  : Option Tensor
  pa    : Option Tensor
  mask  : Option Tensor
  priv  : Option Tensor
  xz    : Option Tensor
  yz    : Option Tensor
deriving DecidableEq, Repr

def Cmd.matLayer (m : Cmd) (p : Program) (pos : Nat) (l : Layer) : MatLayer :=
  let sp := matSpec l
  let t := m.tableTensor p
  { pos := pos, l := l, sp := sp, x := t l.x, w := t l.w, y := t l.y, saved := t l.saved, dy := t l.dy, dx := t l.dx,
    dw := t l.dw, bias := t sp.bias, ckpt := t sp.ckpt, ftab := t sp.ftab, pa := t sp.pa, mask := t sp.mask,
    priv := t sp.priv, xz := t sp.xz, yz := t sp.yz }

def sizeOf' (t : Option Tensor) (d : Nat) : Nat := match t with
  | some t => t.size d
  | none => 0

/-- N and K from the weights, M from x, or dy in its place (R263). -/
def MatLayer.n (L : MatLayer) : Nat := sizeOf' L.w (if L.sp.wt then 1 else 0)
def MatLayer.k (L : MatLayer) : Nat := sizeOf' L.w (if L.sp.wt then 0 else 1)
def MatLayer.rowTensor (L : MatLayer) : Option Tensor := L.x <|> L.dy
def MatLayer.m (L : MatLayer) : Nat := sizeOf' L.rowTensor 1
def MatLayer.mbs (L : MatLayer) : Nat := upDiv L.m 32
def MatLayer.nbs (L : MatLayer) : Nat := upDiv L.n 32
def MatLayer.kbs (L : MatLayer) : Nat := upDiv L.k 32

/-- The lines of block b of a dimension of n. -/
def blockLines (n b : Nat) : List Nat := (List.range (min 32 (n - 32 * b))).map (32 * b + ·)

/-- The i-th set bit of a halls mask, counting round (R260, R296, R311, R368). -/
def maskHall (halls i : Nat) : Nat := let hs := hallsOf halls; hs.getD (i % max 1 hs.length) 0

/-- The Hall of row block mb of a tensor under a mask (R260). -/
def State.rowHall (s : State) (t : Tensor) (halls mb : Nat) : Nat :=
  if t.tier < 3 then hallOf t.tier (s.elemAddr t [0, 32 * mb]) else maskHall halls mb

def State.blockHall (s : State) (L : MatLayer) (mb : Nat) : Nat := match L.rowTensor with
  | some t => s.rowHall t L.l.halls mb
  | none => 0

/-- The row blocks of a Hall, ascending. -/
def State.hallBlocks (s : State) (L : MatLayer) (h : Nat) : List Nat :=
  (List.range L.mbs).filter fun mb => s.blockHall L mb == h

/-! ### The Attic assignment (R134, R272) -/

/-- The row of a Hall's packed saved tensor that a global row takes. -/
def State.packedRow (s : State) (L : MatLayer) (h row : Nat) : Nat :=
  32 * ((s.hallBlocks L h).filter fun mb => decide (mb < row / 32)).length + row % 32

/-- Bytes of a layer's saved tensor on a Hall. -/
def State.savedBytes (s : State) (L : MatLayer) (h : Nat) : Nat :=
  let rows := ((s.hallBlocks L h).map fun mb => (blockLines L.m mb).length).foldl (· + ·) 0
  (rows * sizeOf' L.saved 0 * (match L.saved with
    | some t => t.halves
    | none => 0) + 1) / 2

/-- Places on a Hall, in bytes from the Attic's start, of the layers it keeps; the layers come in descending order. -/
def State.assignAttic (s : State) (h limit : Nat) : List MatLayer → Nat → List (Nat × Nat)
  | [], _ => []
  | L :: Ls, at_ =>
    let n := upDiv (s.savedBytes L h) 65536 * 65536
    if at_ + n ≤ limit then (L.pos, at_) :: s.assignAttic h limit Ls (at_ + n) else []

/-- The region of R298 that a program took at acceptance: first and last byte plus one. -/
def Cmd.atticRegion (m : Cmd) (h : Nat) : Nat × Nat :=
  let w := BitVec.ofNat 32 (m.aux.getD h 0)
  let base := Machine.bits w 9 0
  (base * 65536, (base + min (Machine.bits w 25 16) (768 - base)) * 65536)

/-- The matrix layers of a program. -/
def Cmd.matLayers (m : Cmd) (p : Program) : List MatLayer :=
  p.layers.zipIdx.filterMap fun q => if q.1.op < 2 then some (m.matLayer p q.2 q.1) else none

/-- The layers of a Hall that ask for a place in its Attic, descending: matrix layers alone. R134 does not say what attic_keep
asks for on a layer of another kind: it takes no place and counts as no fallback (DESIGN CHOICE, assumption 99). -/
def keepers (Ls : List MatLayer) (h : Nat) : List MatLayer :=
  (Ls.filter fun L => L.l.keep && L.l.halls / 2 ^ h % 2 == 1).reverse

/-- The assignment of a Hall: layers and places. -/
def State.atticPlan (s : State) (m : Cmd) (p : Program) (h : Nat) : List (Nat × Nat) :=
  s.assignAttic h (m.atticRegion h).2 (keepers (m.matLayers p) h) (m.atticRegion h).1

/-- Layers that fall back to recompute on a Hall. -/
def State.fallbacks (s : State) (m : Cmd) (p : Program) (h : Nat) : Nat :=
  (keepers (m.matLayers p) h).length - (s.atticPlan m p h).length

/-- How a layer keeps z on a Hall: recomputed from its checkpoint, or in a saved tensor whose row is given. -/
inductive ZPlace where
  | recompute
  | at_ (t : Tensor) (row : Nat → Nat)
  | none

def State.zPlace (s : State) (m : Cmd) (p : Program) (L : MatLayer) (h : Nat) : ZPlace :=
  match L.saved with
  | .none => if L.l.recompute then .recompute else .none
  | .some t =>
    if L.l.recompute then .recompute
    else if L.l.keep then
      match (s.atticPlan m p h).find? fun q => q.1 == L.pos with
      | some q => .at_ { t with tier := 2, spread := false, base := h * 2 ^ 26 + q.2, strides := [1, t.size 0, 0, 0, 0] }
          (s.packedRow L h)
      | none => .recompute
    else .at_ t id

/-! ### Tiles -/

/-- A tile of values, by rows. -/
abbrev Grid := List (List Val)

def grid (rows cols : List Nat) (f : Nat → Nat → Val) : Grid := rows.map fun i => cols.map fun j => f i j

def transpose (g : Grid) (cols : Nat) : Grid := (List.range cols).map fun j => g.map fun r => r.getD j negZero

/-- Element (row, column) of a matrix. -/
def State.at2 (s : State) (t : Tensor) (r c : Nat) : Val := s.elem t [c, r]

/-- Sum with flags over a list of results. -/
def flagRows (l : List (List (Val × Flags))) : Grid × Flags :=
  (l.map fun r => r.map (·.1), Flags.all (l.map fun r => Flags.all (r.map (·.2))))

def gridMap (f : Val → Val × Flags) (g : Grid) : Grid × Flags := flagRows (g.map fun r => r.map f)

def gridZip (f : Val → Val → Val × Flags) (a b : Grid) : Grid × Flags := flagRows (List.zipWith (List.zipWith f) a b)

/-- A weight tile for chunk arithmetic: columns of 32 k, `none` where a position is absent or beyond K (R320). -/
abbrev WCols := List (List (Option Val))

/-- One chunk's sum for one output element: a row of A and a column of B, of at most 32 k (R63, R252, R320). -/
def chunkElem (r : List Val) (col : List (Option Val)) : Val × Flags :=
  let ps := List.zipWith (fun x v => match v with
    | some v => mulExact x v
    | none => (negZero, {})) r col
  let q := chunkSum (ps.map (·.1))
  (q.1, (Flags.all (ps.map (·.2))).or q.2)

/-- One chunk's sums for every output element: A by rows, B by columns. -/
def chunkSums (a : Grid) (b : WCols) : Grid × Flags := flagRows (a.map fun r => b.map (chunkElem r))

/-- The same at the present positions of a mask alone: the others are −0 and form nothing (R318). -/
def maskedSums (a : Grid) (b : WCols) (mask : List (List Bool)) : Grid × Flags :=
  flagRows ((a.zip mask).map fun r => (b.zip r.2).map fun c => if c.2 then chunkElem r.1 c.1 else (negZero, {}))

def zeroGrid (rows cols : Nat) : Grid := List.replicate rows (List.replicate cols negZero)

/-- Chunk sums added in ascending order (R253, R254). -/
def addChunks (acc : Grid) : List (Grid × Flags) → Grid × Flags
  | [] => (acc, {})
  | c :: cs =>
    let r := gridZip add acc c.1
    let q := addChunks r.1 cs
    (q.1, (c.2.or r.2).or q.2)

/-! ### The checksum compare -/

/-- The masks of a list of line verdicts. -/
def lineMask : List Nat → Nat
  | [] => 0
  | v :: vs => (v == 1).toNat + 2 * lineMask vs

/-- What a compare reports: masks of mismatching rows and columns, and the lines not compared (R282, R285). -/
structure Verdict where
  rows : Nat := 0
  cols : Nat := 0
  skipped : Nat := 0
deriving DecidableEq, Repr

/-- The verdict of the rows' and the columns' lines. -/
def Verdict.ofLines (rs cs : List Nat) : Verdict :=
  { rows := lineMask rs, cols := lineMask cs, skipped := ((rs ++ cs).filter (· == 2)).length }

def Verdict.or (a b : Verdict) : Verdict := ⟨a.rows ||| b.rows, a.cols ||| b.cols, a.skipped + b.skipped⟩

def Verdict.all : List Verdict → Verdict
  | [] => {}
  | v :: vs => v.or (Verdict.all vs)

def treeSum (l : List Val) : Val := (chunkSum l).1

/-- One line: 0 agrees, 1 mismatches, 2 is not compared. -/
def lineVerdict (outs : List Val) (c m : Val) (tol : Nat) : Nat :=
  if !(outs.all isFinite && isFinite c && isFinite m) then 2 else
  let bound := (addExact (match m with
    | .fin n x e => .fin n x (e - tol)
    | v => v) (.fin false 1 (-120))).1
  let diff := abs (addExact (treeSum outs) (neg c)).1
  if isFinite diff && !gt diff bound then 0 else 1

/-- Accumulates fp32 products over k in the order of R63. -/
def checkSum (start : Val) (a b : List Val) : Val := (sumFrom start (List.zipWith (fun x y => (mul x y).1) a b)).1

/-- The compare of R281 and R282 over A by rows, B by columns, an optional c_in, and the outputs: the rows' lines and the
columns'. -/
def checkLines (a : Grid) (b : Grid) (cin : Option Grid) (outs : Grid) (tol : Nat) : List Nat × List Nat :=
  let k := (a.headD []).length
  let bbar := (List.range k).map fun i => treeSum (b.map fun c => c.getD i negZero)
  let babs := (List.range k).map fun i => treeSum (b.map fun c => abs (c.getD i negZero))
  let abar := (List.range k).map fun i => treeSum (a.map fun r => r.getD i negZero)
  let aabs := (List.range k).map fun i => treeSum (a.map fun r => abs (r.getD i negZero))
  let start := fun (l : Option (List Val)) (mag : Bool) => match l with
    | some l => treeSum (if mag then l.map abs else l)
    | none => negZero
  let cols := b.length
  let rs := (a.zip outs).zipIdx.map fun q =>
    let ci := cin.bind fun g => g[q.2]?
    lineVerdict q.1.2 (checkSum (start ci false) q.1.1 bbar) (checkSum (start ci true) (q.1.1.map abs) babs) tol
  let outT := transpose outs cols
  let cinT := cin.map fun g => transpose g cols
  let cs := (b.zip outT).zipIdx.map fun q =>
    let ci := cinT.bind fun g => g[q.2]?
    lineVerdict q.1.2 (checkSum (start ci false) abar q.1.1) (checkSum (start ci true) aabs (q.1.1.map abs)) tol
  (rs, cs)

def checkTile (a : Grid) (b : Grid) (cin : Option Grid) (outs : Grid) (tol : Nat) : Verdict :=
  let q := checkLines a b cin outs tol
  Verdict.ofLines q.1 q.2

/-- tol_shift as R299 takes it. -/
def State.tol (s : State) (h : Nat) : Nat := max 8 (min 18 (s.fld (F.tolShift h)))

/-- The array checks are active (R286). -/
def State.arrayChecked (s : State) (h : Nat) : Bool := s.attested || s.flag (F.chkEnable h)
def State.drainChecked (s : State) (h : Nat) : Bool := s.attested || s.flag (F.drainDup h)

/-! ### Injected check errors (R494) -/

/-- Inverts bit 29 of element (row, col) of an FP32 result. -/
def flipAt (g : Grid) (pos : Option (Nat × Nat)) : Grid :=
  match pos with
  | none => g
  | some p => g.modify p.1 fun r => r.modify p.2 fun v => of32 (bits32 v ^^^ 0x20000000)

/-! ### The Drain (R265 to R270, R278) -/

/-- The words of a loaded user table (R271). -/
def Cmd.userTable (m : Cmd) (t : Option Tensor) : UTable :=
  match t with
  | none => []
  | some t => match m.capBytes t.tier t.base 6208 with
    | some b => bytesWords 1552 b.1
    | none => []

/-- z from the accumulators: the bias is added where one is named. -/
def State.withBias (s : State) (bias : Option Tensor) (cols : List Nat) (g : Grid) : Grid × Flags :=
  match bias with
  | none => (g, {})
  | some b =>
    let bs := cols.map fun j => s.elem b [j]
    flagRows (g.map fun r => List.zipWith add r bs)

/-- The layer's function, or its derivative, over a tile. -/
def Cmd.drainGrid (m : Cmd) (L : MatLayer) (deriv : Bool) (g : Grid) : Grid × Flags :=
  gridMap (drainFun L.sp.func (of32 L.sp.alpha) (m.userTable L.ftab) deriv) g

/-- The values a saved tile holds after its conversion to the saved format (R265, R274). -/
def asSaved (t : Tensor) (g : Grid) : Grid :=
  g.map fun r => r.map fun v => decode t.fmt (convert t.fmt .nearest v).1 0

/-- The rounding mode of an element: nearest, or stochastic with the draw of its column's lane and row (R68, R361);
`lane0` is 0 for East and 32 for West. -/
def State.drainMode (s : State) (round : Bool) (tile lane0 i j : Nat) : Mode :=
  if round then
    let l := lane0 + j
    .stoch (s.drawAt tile l (s.ctr tile l + BitVec.ofNat 64 i) / 65536)
  else .nearest

/-- Writes a tile of a matrix, converting by the mode of each element. -/
def State.writeGrid (s : State) (t : Tensor) (rows cols : List Nat) (round : Bool) (tile lane0 : Nat) (g : Grid) :
    State × Option (Nat × Nat) × Flags :=
  s.writeVals t (((rows.zip g).zipIdx.flatMap fun r =>
    (cols.zip r.1.2).zipIdx.map fun c => ([c.1.1, r.1.1], c.1.2, s.drainMode round tile lane0 r.2 c.2)))

/-- Writes in turn, until one meets an uncorrectable unit. -/
def State.andWrite (r : State × Option (Nat × Nat) × Flags) (f : State → State × Option (Nat × Nat) × Flags) :
    State × Option (Nat × Nat) × Flags :=
  match r.2.1 with
  | some _ => r
  | none => let q := f r.1; (q.1, q.2.1, r.2.2.or q.2.2)

/-- Copies a block of rows as it stands, element by element (R273). -/
def State.copyRows (s : State) (src dst : Tensor) (rows : List Nat) : State × Option (Nat × Nat) × Flags :=
  let es := rows.flatMap fun r => (List.range (src.size 0)).map fun c => [c, r]
  if isMx src.fmt then
    (groups 32 (es.length / 32 + 1) es).foldl (fun acc g =>
      State.andWrite acc fun s =>
        let c := g.headD []
        let r := s.writeBlock dst c (g.map fun e => s.elemBits src e) (ofLe (s.peek src.metaTier (src.scaleAddr c) 1))
        (r.1, r.2, {})) (s, none, {})
  else
    let r := s.writeElems dst (es.map fun e => (e, s.elemBits src e))
    (r.1, r.2, {})

end Sys2Proof.Machine
end

