-- ==== Sys2Proof/Machine/Sparse.lean ====
section
/-! DEFINITION. Sparse weight tensors (R302 to R310): their tiles and directory, the metadata checks (R324 to R327), the
encoder (R311, R312), the bit maps and the Predictor Unit (R332). -/

namespace Sys2Proof.Machine

open Fp

/-! ### Tiles and directory -/

/-- A directory entry (R304). -/
structure SpDir where
  word : W
  crc  : W
deriving DecidableEq, Repr

def SpDir.tag (d : SpDir) : Nat := bits d.word 31 30
def SpDir.rs (d : SpDir) : Bool := bits d.word 29 29 == 1
def SpDir.tf (d : SpDir) : Nat := bits d.word 27 21
def SpDir.tt (d : SpDir) : Nat := bits d.word 20 14
def SpDir.nnz (d : SpDir) : Nat := bits d.word 10 0

def slotOf (t : Tensor) (i : Nat) : Nat := t.base + 2304 * i
def spDirAt (t : Tensor) (i : Nat) : Nat := t.metaAt + 8 * i

def State.spDir (s : State) (t : Tensor) (i : Nat) : SpDir := ⟨BitVec.ofNat 32 (s.word 3 (spDirAt t i)), BitVec.ofNat 32 (s.word 3 (spDirAt t i + 4))⟩

/-- Bytes of metadata at the start of the slot: a map, or group words (R305). -/
def metaBytes (tag : Nat) : Nat := if tag = 1 then 128 else if tag = 2 then 256 else 0

/-- Bytes of the value area that the Weight Streamer fetches (R305), never past the slot. -/
def fetchBytes (d : SpDir) : Nat :=
  match d.tag with
  | 0 => 2048
  | 1 => min 2304 (upDiv (128 + 2 * d.nnz) 64 * 64)
  | 2 => 768
  | _ => 0

/-- The set bits of a Bitmap, ascending (R306). -/
def mapBits (bs : List Byte) : List Nat :=
  (List.range (8 * bs.length)).filter fun b => (bs.getD (b / 8) 0).toNat / 2 ^ (b % 8) % 2 == 1

/-- Group word g of a Pair tile (R307). -/
def groupWord (bs : List Byte) (g : Nat) : Nat := ofLe ((bs.drop (2 * g)).take 2)

/-- The present positions of a Bitmap or Pair tile: row, column, and the byte of the value in the slot. -/
def spPresent (tag : Nat) (bs : List Byte) : List (Nat × Nat × Nat) :=
  match tag with
  | 1 => (mapBits (bs.take 128)).zipIdx.map fun p => (p.1 / 32, p.1 % 32, 128 + 2 * p.2)
  | 2 => (List.range 128).flatMap fun g =>
      let w := groupWord bs g
      let at_ := fun (i s : Nat) => (8 * (g % 4) + i, g / 4, 256 + 4 * g + 2 * s)
      (if w / 8 % 2 = 1 then [at_ (w % 8) 0] else []) ++ (if w / 128 % 2 = 1 then [at_ (w / 16 % 8) 1] else [])
  | _ => []

/-- The metadata bytes of a tile. -/
def State.spMeta (s : State) (t : Tensor) (i tag : Nat) : List Byte := s.peek 3 (slotOf t i) (metaBytes tag)

/-- Row r of a tile's values from its present positions. -/
def tileRow (l : List (Nat × Nat × Val)) (r : Nat) : List (Option Val) :=
  (List.range 32).map fun c => (l.find? fun p => p.1 == r && p.2.1 == c).map (·.2.2)

/-- The present values of a Bitmap or Pair tile. -/
def State.spValues (s : State) (t : Tensor) (i tag : Nat) : List (Nat × Nat × Val) :=
  (spPresent tag (s.spMeta t i tag)).map fun p => (p.1, p.2.1, decode 1 (ofLe (s.peek 3 (slotOf t i + p.2.2) 2)) 0)

/-- The 32 × 32 values of weight tile (kb, nb) of a layer: `none` at an absent position and beyond the extent. -/
def State.wTile (s : State) (L : MatLayer) (kb nb : Nat) : List (List (Option Val)) :=
  match L.w with
  | none => []
  | some t =>
    if t.sparse then
      let i := kb * t.nb + nb
      let d := s.spDir t i
      if d.tag = 0 then
        (List.range 32).map fun r => (List.range 32).map fun c =>
          if 32 * kb + r < L.k ∧ 32 * nb + c < L.n then
            some (decode 1 (ofLe (s.peek 3 (slotOf t i + 64 * r + 2 * c) 2)) 0) else none
      else let l := s.spValues t i d.tag; (List.range 32).map (tileRow l)
    else
      (List.range 32).map fun r => (List.range 32).map fun c =>
        let k := 32 * kb + r
        let n := 32 * nb + c
        if k < L.k ∧ n < L.n then some (if L.sp.wt then s.at2 t n k else s.at2 t k n) else none

/-- The tag of a weight tile; a dense tensor's tiles act as tagged dense (R317). -/
def State.wTag (s : State) (L : MatLayer) (kb nb : Nat) : Nat :=
  match L.w with
  | some t => if t.sparse then (s.spDir t (kb * t.nb + nb)).tag else 0
  | none => 0

/-! ### Metadata checks (R309, R310, R324) -/

/-- Steps of R309: the sum over rank n of the lines that hold more than n positions, 16 at a time. -/
def stepCount (counts : List Nat) : Nat :=
  ((List.range 32).map fun n => upDiv ((counts.filter fun c => decide (n < c)).length) 16).foldl (· + ·) 0

def lineCounts (ps : List Nat) : List Nat := (List.range 32).map fun i => (ps.filter (· == i)).length

/-- The CRC of R310. -/
def State.spCrc (s : State) (t : Tensor) (i : Nat) (d : SpDir) : W :=
  crc32c (leBytes 4 d.word.toNat ++ s.spMeta t i d.tag ++ if d.rs then s.peek 3 (slotOf t i + 2048) 256 else [])

/-- A Pair group word breaks its form. -/
def badGroup (w : Nat) : Bool :=
  let count := w / 2 ^ 14
  w / 256 % 64 != 0 || count == 3 || (w / 8 % 2 == 1) != decide (1 ≤ count) || (w / 128 % 2 == 1) != (count == 2) ||
    (count == 2 && decide (w / 16 % 8 ≤ w % 8))

/-- The structure check. -/
def badStructure (d : SpDir) (bs : List Byte) : Bool :=
  if d.tag = 0 ∨ d.tag = 3 then d.rs || d.tf != 0 || d.tt != 0
  else
    let ps := spPresent d.tag bs
    let groups := (List.range 128).map (groupWord bs)
    (d.tag == 2 && (groups.any badGroup || (groups.map (· / 2 ^ 14)).foldl (· + ·) 0 != d.nnz)) ||
      (d.tag == 1 && ps.length != d.nnz) ||
      d.tf != stepCount (lineCounts (ps.map (·.2.1))) || d.tt != stepCount (lineCounts (ps.map (·.1)))

/-- The checks of R324 in order on tile i: the status code of the first failure. -/
def State.spCheck (s : State) (t : Tensor) (i : Nat) (crc : Bool) : Option Nat :=
  let d := s.spDir t i
  let bs := s.spMeta t i d.tag
  let kb := i / t.nb
  let nb := i % t.nb
  if crc && s.spCrc t i d != d.crc then some St.metaCrc
  else if badStructure d bs then some St.metaCount
  else if (spPresent d.tag bs).any fun p => decide (t.size 1 ≤ 32 * kb + p.1) || decide (t.size 0 ≤ 32 * nb + p.2.1) then
    some St.metaRange
  else if s.attested && (d.tag == 1 || d.tag == 2) && !d.rs then some St.modeLocked
  else none

/-- The row-sum check of R328 is active on a Hall (R329). -/
def State.rsActive (s : State) (h : Nat) : Bool := s.attested || s.flag (F.rsCheck h)

/-- Reads what the Weight Streamer fetches of tile i. -/
def State.spTouch (s : State) (t : Tensor) (i : Nat) (h : Nat) : State × Option Nat :=
  let r := s.touch 3 (spDirAt t i) 8
  match r.2 with
  | some a => (r.1, some a)
  | none =>
    let d := r.1.spDir t i
    r.1.touchSet 3 ((if fetchBytes d = 0 then [] else [(slotOf t i, fetchBytes d)]) ++
      if d.rs && r.1.rsActive h then [(slotOf t i + 2048, 256)] else [])

/-- The record of a failure (R326): the fetching gallery is that of the executing tile (assumption 38). -/
def State.metaEvent (s : State) (tile code kb nb layer ring : Nat) : State :=
  s.event 3 (32 * (tile / 640) + tile % 640 / 32) code 0
    [BitVec.ofNat 32 (kb * 2 ^ 16 + nb), BitVec.ofNat 32 layer, BitVec.ofNat 32 ring, 0]

/-- The status of a failure (R325); MODE_LOCKED has no details. -/
def metaStatus (code tile kb nb : Nat) : Status :=
  if code = St.modeLocked then ⟨code, 0, 0⟩ else ⟨code, tile, kb * 2 ^ 16 + nb⟩

/-- Fails tile i at an executing tile. -/
def State.metaFail (s : State) (t : Tensor) (i code tile layer ring : Nat) : State × Status :=
  let s := (s.bump (F.hallCnt (tile / 640) 0x51C)).metaEvent tile code (i / t.nb) (i % t.nb) layer ring
  (s, metaStatus code tile (i / t.nb) (i % t.nb))

/-! ### SPARSE_VERIFY (R327) -/

/-- Tiles of a Hall. -/
def State.hallTiles (s : State) : Nat := 32 * s.galleries

/-- The tile of a Hall that takes operation n of a class with one engine per tile (R261). -/
def State.tileFor (s : State) (h n : Nat) : Nat := 640 * h + n % s.hallTiles

/-- The tile that takes weight tile i of an ENCODE or SPARSE_VERIFY (R311, R261; assumption 38). -/
def State.encTile (s : State) (halls i : Nat) : Nat := s.tileFor (maskHall halls i) (i / max 1 (hallsOf halls).length)

/-- Tiles from i on; the state, the status and the tiles passed. -/
def verifyTiles (t : Tensor) (halls ring : Nat) : Nat → Nat → State → State × Status × Nat
  | 0, i, s => (s, okStatus, i)
  | n + 1, i, s =>
    let tile := s.encTile halls i
    let r := s.spTouch t i (tile / 640)
    match r.2 with
    | some a => (r.1, uncorrAt 3 a, i)
    | none =>
      match r.1.spCheck t i true with
      | some code => let q := r.1.metaFail t i code tile 0 ring; (q.1, q.2, i)
      | none => verifyTiles t halls ring n (i + 1) r.1

def State.verifyArgs (s : State) (m : Cmd) : Except Status Tensor := do
  let t ← s.tensorArg m 4 true
  need t.sparse (badDesc t.at_)
  need (m.bits 6 15 0 != 0) (oor 6)
  pure t

def runSparseVerify (c : CmdId) (s : State) : State :=
  s.run c 0x49 fun m s =>
    match s.verifyArgs m with
    | .error st => s.refuse c st
    | .ok t =>
      let r := verifyTiles t (m.bits 6 15 0) c.ring (t.kb * t.nb) 0 s
      (r.1.progress c (r.2.2 / 1024)).complete c r.2.1

def execSparseVerify (c : CmdId) (s : State) : Host.Outcome State Fault Refusal := fin (runSparseVerify c s)

/-! ### ENCODE (R312) -/

/-- Five-level tree sums of each row (R308); absent positions enter as −0. -/
def rowSums (rows : List (List (Option Val))) (mag : Bool) : List Val :=
  rows.map fun r => treeSum (r.map fun v => match v with
    | some v => if mag then abs v else v
    | none => negZero)

/-- The bytes of one group of a Pair tile: its word and its two values. -/
def pairGroup (ps : List (Nat × Nat)) : Nat × List Byte :=
  let n := ps.length
  let i0 := (ps.getD 0 (0, 0)).1
  let i1 := (ps.getD 1 (0, 0)).1
  (n * 2 ^ 14 + (if n = 2 then 128 + i1 * 16 else 0) + (if 1 ≤ n then 8 + i0 else 0),
   leBytes 2 (ps.getD 0 (0, 0)).2 ++ leBytes 2 (ps.getD 1 (0, 0)).2)

/-- The tag the encoder chooses, and the counter offset that counts the choice, if any. -/
def chooseTag (pref nnz limit : Nat) (pairs : Bool) : Nat × Option Nat :=
  if nnz = 0 then (3, some 0x518)
  else if pref = 2 then (0, none)
  else if limit < nnz then (0, some 0x50C)
  else if pref = 1 ∧ pairs = true then (2, none)
  else (1, if pref = 1 then some 0x514 else none)

/-- Bytes of a list of flags, eight to a byte, the first in bit 0. -/
def packBits : Nat → List Bool → List Byte
  | 0, _ => []
  | n + 1, bs => BitVec.ofNat 8 ((bs.take 8).foldr (fun b a => b.toNat + 2 * a) 0) :: packBits n (bs.drop 8)

/-- Encodes one tile from its BF16 bits, `none` beyond the extent: directory word 0, bytes at the slot, row-sum bytes,
counters to bump. -/
def encodeTile (pref limit : Nat) (v : List (List (Option Nat))) : Nat × List Byte × List Byte × List Nat :=
  let present := v.map fun r => r.map fun x => match x with
    | some b => if b % 0x8000 = 0 then none else some b
    | none => none
  let flat := present.flatten
  let nnz := (flat.filter (·.isSome)).length
  let group := fun (g : Nat) => (List.range 8).filterMap fun i =>
    ((present.getD (8 * (g % 4) + i) []).getD (g / 4) none).map fun b => (i, b)
  let gs := (List.range 128).map group
  let ch := chooseTag pref nnz limit (gs.all fun l => decide (l.length ≤ 2))
  let big := ch.1 == 1 && decide (2048 < 128 + 2 * nnz)
  let tag := if big then 0 else ch.1
  let counts := (match ch.2 with
    | some o => [o]
    | none => []) ++ if big then [0x510] else []
  let vals := present.map fun r => r.map fun x => x.map fun b => decode 1 b 0
  let sums := if tag = 1 ∨ tag = 2 then
      wordBytes ((rowSums vals false).map bits32 ++ (rowSums vals true).map bits32) else []
  let cc := (List.range 32).map fun c => (present.filter fun r => (r.getD c none).isSome).length
  let rc := present.map fun r => (r.filter (·.isSome)).length
  let steps := if tag = 1 ∨ tag = 2 then 2 ^ 29 + stepCount cc * 2 ^ 21 + stepCount rc * 2 ^ 14 else 0
  let body := match tag with
    | 0 => v.flatten.flatMap fun x => leBytes 2 (x.getD 0)
    | 1 => packBits 128 (flat.map (·.isSome)) ++ (flat.filterMap id).flatMap (leBytes 2)
    | 2 => let ps := gs.map pairGroup; ps.flatMap (fun p => leBytes 2 p.1) ++ ps.flatMap (·.2)
    | _ => []
  (tag * 2 ^ 30 + 2 ^ 28 + steps + nnz, body, sums, counts)

/-- Encodes and writes tile i; the directory entry last. -/
def State.encodeOne (s : State) (src dst : Tensor) (pref halls i : Nat) : State × Option (Nat × Nat) × Flags :=
  let kb := i / dst.nb
  let nb := i % dst.nb
  let h := maskHall halls i
  let cell := fun (r c : Nat) => [32 * nb + c, 32 * kb + r]
  let inside := fun (r c : Nat) => decide (32 * kb + r < dst.size 1) && decide (32 * nb + c < dst.size 0)
  let all := (List.range 32).flatMap fun r => ((List.range 32).filter (inside r)).map (cell r)
  let rd := s.touchElems src all
  match rd.2 with
  | some x => (rd.1, some x, {})
  | none =>
    let s := rd.1
    let cv := (List.range 32).map fun r => (List.range 32).map fun c =>
      if inside r c then some (if src.fmt = 1 then (s.elemBits src (cell r c), ({} : Flags)) else convert 1 .nearest (s.elem src (cell r c)))
      else none
    let fl := Flags.all (cv.flatten.filterMap fun x => x.map (·.2))
    let e := encodeTile pref (min 1024 (s.fld (F.maxNnz h))) (cv.map fun r => r.map fun x => x.map (·.1))
    let crc := crc32c (leBytes 4 e.1 ++ e.2.1.take (metaBytes (e.1 / 2 ^ 30)) ++ e.2.2.1)
    let s := e.2.2.2.foldl (fun s o => s.bump (F.hallCnt h o)) s
    let ws := (if e.2.1.isEmpty then [] else [(slotOf dst i, e.2.1)]) ++
      (if e.2.2.1.isEmpty then [] else [(slotOf dst i + 2048, e.2.2.1)]) ++
      [(spDirAt dst i, leBytes 4 e.1 ++ leBytes 4 crc.toNat)]
    let w := s.writes 3 ws
    (w.1, w.2.map fun a => (3, a), fl)

def State.encodeArgs (s : State) (m : Cmd) : Except Status (Tensor × Tensor) := do
  let src ← s.tensorArg m 4
  need (decide (src.fmt < 2)) (badFormat 4 src.fmt)
  need (src.ndim == 2) (badDesc src.at_)
  need (decide (src.tier < 4)) (oor 4)
  let dst ← s.tensorArg m 6 true
  need dst.sparse (badDesc dst.at_)
  need (src.sizes == dst.sizes) (badDesc src.at_)
  need (m.bits 8 15 0 != 0 && m.bits 8 17 16 != 3) (oor 8)
  pure (src, dst)

/-- Tiles in ascending order, each a unit of the command. -/
def encodeTiles (c : CmdId) (src dst : Tensor) (pref halls : Nat) : Nat → Nat → State → State
  | 0, _, s => s.complete c okStatus
  | n + 1, i, s =>
    let r := s.encodeOne src dst pref halls i
    let s := r.1.addFlags c r.2.2
    match r.2.1 with
    | some x => s.complete c (uncorrAt x.1 x.2)
    | none => encodeTiles c src dst pref halls n (i + 1) (s.progress c (i + 1))

def runEncode (c : CmdId) (s : State) : State :=
  s.run c 0x48 fun m s =>
    match s.encodeArgs m with
    | .error st => s.refuse c st
    | .ok (src, dst) => encodeTiles c src dst (m.bits 8 17 16) (m.bits 8 15 0) (dst.kb * dst.nb) 0 s

def execEncode (c : CmdId) (s : State) : Host.Outcome State Fault Refusal := fin (runEncode c s)

/-! ### Bit maps (R332) -/

/-- Bit b of a map. -/
def State.mapBit (s : State) (t : Tensor) (b : Nat) : Bool := s.elemBits t (t.coord (b / 32)) / 2 ^ (b % 32) % 2 == 1

/-- Writes bits of a map: each an atomic read-modify-write of its word (R335). -/
def State.setMapBits (s : State) (t : Tensor) : List (Nat × Bool) → State × Option (Nat × Nat)
  | [] => (s, none)
  | (b, v) :: bs =>
    let old := s.elemBits t (t.coord (b / 32))
    let p := 2 ^ (b % 32)
    let new := old / (2 * p) * (2 * p) + v.toNat * p + old % p
    let r := s.writeElems t [(t.coord (b / 32), new)]
    match r.2 with
    | some x => (r.1, some x)
    | none => r.1.setMapBits t bs

/-- Whether bit (mb, nb) of an optional map is 1. -/
def State.mapAt (s : State) (t : Option Tensor) (width mb nb : Nat) : Bool :=
  match t with
  | some t => s.mapBit t (mb * width + nb)
  | none => false

/-! ### The Predictor Unit (R332) -/

/-- The projection P of a row block. -/
def State.projection (s : State) (L : MatLayer) (x pa : Tensor) (mb : Nat) : Grid :=
  let rows := blockLines L.m mb
  let e4 := fun (v : Val) => decode 3 (convert 3 .nearest v).1 0
  let a := rows.map fun i => (List.range L.k).map fun k => e4 (s.at2 x i k)
  let b := (List.range 32).map fun j => (List.range L.k).map fun k => s.at2 pa k j
  a.map fun r => b.map fun col => (dotFrom negZero r col).1

/-- The active column blocks of a row block. -/
def State.activeBlocks (s : State) (L : MatLayer) (x pa : Tensor) (mb : Nat) : List Bool :=
  let p := s.projection L x pa mb
  let g := max 1 (upDiv L.nbs 32)
  let privs := match L.priv with
    | some t => (List.range (t.size 0)).map fun i => s.elemBits t [i] / 32
    | none => []
  (List.range L.nbs).map fun nb =>
    let score := rowMax (p.map fun r => r.getD (nb / g) negZero)
    isNaN score || gt score (of32 L.sp.theta) || privs.contains nb

end Sys2Proof.Machine
end

