-- ==== Sys2Proof/Machine/Layers.lean ====
section
/-! DEFINITION. The checks of matrix layers (R264, R315), their user tables (R270, R271) and the claims on lookup-table
banks (R143, R144). -/

namespace Sys2Proof.Machine

open Fp

/-- Formats the arrays take (R50). -/
def arrayFmt (f : Nat) : Bool := decide (1 ≤ f) && decide (f ≤ 6)

/-- Two formats form the operands of a product (R50, R51). -/
def formPair (a b : Nat) : Bool := arrayFmt a && arrayFmt b && ((a == 6) == (b == 6))

/-- A number of each optional tensor satisfies a test; an absent one passes. -/
def opt (t : Option Tensor) (f : Tensor → Bool) : Bool := match t with
  | some t => f t
  | none => true

/-- The first of a list of formats, each with the test it must pass. -/
def needFmt (word : Nat) : List (Option Tensor × (Tensor → Bool)) → Except Status Unit
  | [] => .ok ()
  | (t, f) :: ts => do
    match t with
    | some t => need (f t) (badFormat word t.fmt)
    | none => pure ()
    needFmt word ts

/-- Shape tests: BAD_DESCRIPTOR names the first tensor that fails. -/
def needShape : List (Option Tensor × (Tensor → Bool)) → Except Status Unit
  | [] => .ok ()
  | (t, f) :: ts => do
    match t with
    | some t => need (f t) (badDesc t.at_)
    | none => pure ()
    needShape ts

/-- A matrix tensor of given width and height (R263, R264). -/
def isMatrix (cols rows : Nat) (t : Tensor) : Bool :=
  t.ndim == 2 && t.tr == 31 && t.tc == 31 && t.size 0 == cols && t.size 1 == rows

/-- dlayer names the producer of R264. -/
def producerOk (p : Program) (L : MatLayer) : Bool :=
  let d := L.sp.dlayer
  match p.layers[d]? with
  | none => false
  | some q => decide (d < L.pos) && (q.op == 0 || (L.l.op == 1 && q.op == 1)) && q.y == L.l.x && q.saved != noTensor &&
      q.halls == L.l.halls && (matSpec q).dmode != 2

/-- Order 1 of R264 and R315. -/
def matOrder1 (p : Program) (L : MatLayer) : Bool :=
  let l := L.l
  let sp := L.sp
  let has := fun (i : Nat) => i != noTensor
  let sparseW := opt L.w (·.sparse) && L.w.isSome
  let inTable := fun (i : Nat) => i == noTensor || decide (i < p.tensors)
  l.bits 6 21 0 == 0 &&
  (if l.op = 0 then (List.range 6).all fun i => wordAt l.words (10 + i) == 0
   else l.bits 10 27 0 == 0 && l.bits 14 15 0 == 0 && wordAt l.words 15 == 0) &&
  [sp.bias, sp.ckpt, sp.ftab, sp.pa, sp.mask, sp.priv, sp.xz, sp.yz].all inTable &&
  decide (sp.func < 9) && sp.dmode != 3 && ((sp.func == 8) == has sp.ftab) &&
  (sp.func != 2 || isFinite (of32 sp.alpha)) &&
  (!(l.keep || l.recompute) || (has l.saved && has sp.ckpt)) &&
  (sp.dmode != 2 || (has l.saved && !sp.round)) &&
  (if sp.dmode = 1 then producerOk p L else !has sp.dlayer) &&
  (!l.fwd || (has l.x && has l.w && has l.y)) &&
  (!l.bwd || (has l.dy && has l.w && (has l.dx || has l.dw) && (!has l.dw || has l.x))) &&
  (l.op == 0 ||
    (!(sp.wt && sparseW) &&
     (if sp.pred then sp.func == 1 && has sp.pa && has sp.mask && !isNaN (of32 sp.theta)
      else !has sp.pa && !has sp.mask && !has sp.priv) &&
     sp.zin == has sp.xz && sp.zout == has sp.yz && (!sp.dwFull || sparseW)))

/-- The dw descriptor of Hall h (R280). -/
def dwOn (t : Tensor) (h : Nat) : Tensor :=
  let h0 := t.base / 2 ^ 16 / 640
  { t with base := t.base + 640 * h * 2 ^ 16 - 640 * h0 * 2 ^ 16 }

/-- A displaced dw stays on valid tiles. -/
def State.dwFits (s : State) (t : Tensor) (h : Nat) : Bool :=
  let u := dwOn t h
  if t.spread then decide (s.tileRank (u.base / 2 ^ 16) + t.size (t.ndim - 1) ≤ s.tileCount)
  else s.hasRange 1 u.base u.span

/-- Every row block of the row tensor on die lies in a Hall of halls (R260). -/
def State.rowsInHalls (s : State) (L : MatLayer) : Bool :=
  match L.rowTensor with
  | none => true
  | some t => decide (3 ≤ t.tier) || (List.range L.mbs).all fun mb => L.l.halls / 2 ^ s.blockHall L mb % 2 == 1

/-- The words of a user table as its tensor holds them. -/
def State.tableWords (s : State) (t : Tensor) : List W := (List.range 1552).map fun i => BitVec.ofNat 32 (s.elemBits t [i])

/-- Checks one matrix layer; `w` is the operand word of the program pointer. -/
def State.matCheck (s : State) (m : Cmd) (w : Nat) (p : Program) (pos : Nat) (l : Layer) : Except Status Unit := do
  let L := m.matLayer p pos l
  need (matOrder1 p L) (badDesc l.at_)
  let each := fun (i : Nat) (sp : Bool) => if i = noTensor then pure () else do
    let _ ← s.layerTensor m w p i sp
    pure ()
  for i in [l.x] do each i false
  each l.w (l.op == 1)
  for i in [l.y, l.saved, l.dy, l.dx, l.dw, l.path, L.sp.bias, L.sp.ckpt, L.sp.ftab, L.sp.pa, L.sp.mask, L.sp.priv,
      L.sp.xz, L.sp.yz] do each i false
  -- order 2
  let wf := match L.w with
    | some t => t.fmt
    | none => 1
  let xf := match L.x with
    | some t => t.fmt
    | none => wf
  needFmt w [(L.x, fun t => arrayFmt t.fmt), (L.w, fun t => formPair t.fmt xf),
    (L.y, fun t => t.fmt != 7), (L.dx, fun t => t.fmt != 7),
    (L.saved, fun t => if L.sp.round then t.fmt == 0 else decide (t.fmt < 3)),
    (L.dy, fun t => arrayFmt t.fmt && (!l.bwd || formPair t.fmt wf)),
    (L.dw, fun t => t.fmt == 0), (L.bias, fun t => t.fmt == 0), (L.ckpt, fun t => t.fmt == xf || L.x.isNone),
    (L.ftab, fun t => t.fmt == 0)]
  let sparseW := opt L.w (·.sparse) && L.w.isSome
  needFmt w [(L.x, fun t => !sparseW || t.fmt == 1), (L.dy, fun t => !sparseW || t.fmt == 1), (L.pa, fun t => t.fmt == 3),
    (L.mask, fun t => t.fmt == 7), (L.priv, fun t => t.fmt == 7), (L.xz, fun t => t.fmt == 7), (L.yz, fun t => t.fmt == 7)]
  -- order 3
  let wShape := if L.sp.wt then isMatrix L.k L.n else isMatrix L.n L.k
  let map := fun (cols : Nat) (t : Tensor) => t.ndim == 1 && decide (L.mbs * cols ≤ 32 * t.size 0)
  needShape [(L.x, isMatrix L.k L.m), (L.w, wShape), (L.y, isMatrix L.n L.m), (L.saved, isMatrix L.n L.m),
    (L.dy, isMatrix L.n L.m), (L.dx, isMatrix L.k L.m), (L.dw, fun t => isMatrix L.n L.k t && t.tier == 1),
    (L.bias, fun t => t.ndim == 1 && t.size 0 == L.n), (L.ckpt, isMatrix L.k L.m),
    (L.ftab, fun t => t.ndim == 1 && t.size 0 == 1552),
    (L.pa, fun t => t.ndim == 2 && t.size 1 == L.k && t.size 0 == 32), (L.mask, map L.nbs), (L.xz, map L.kbs),
    (L.yz, map L.nbs), (L.priv, fun t => t.ndim == 1 && decide (1 ≤ t.size 0) && decide (t.size 0 ≤ 64))]
  -- order 4
  need ([L.x, L.w, L.y, L.saved, L.dy, L.dx, L.dw, m.tableTensor p l.path, L.bias, L.ckpt, L.ftab, L.pa, L.mask, L.priv, L.xz, L.yz].all
    fun t => opt t fun t => decide (t.tier < 4)) (oor w)
  need (opt L.ckpt fun t => t.tier == 3) (oor w)
  need (opt L.dw fun t => (hallsOf l.halls).all (s.dwFits t)) (oor w)
  need (s.rowsInHalls L) (oor w)
  need (opt L.priv fun t => (List.range (t.size 0)).all fun i => decide (s.elemBits t [i] < L.n)) (oor w)
  need (opt L.ftab fun t => utOk (s.tableWords t)) (match L.ftab with
    | some t => badDesc t.at_
    | none => okStatus)

/-! ### Lookup-table banks -/

/-- A claim: bank, Halls, and the table's tier and address. -/
structure BankClaim where
  bank  : Nat
  halls : Nat
  tier  : Nat
  base  : Nat
deriving DecidableEq, Repr

/-- The claims of a layer of a program as captured: Drain user tables and table stages. -/
def Cmd.layerClaim (m : Cmd) (p : Program) (l : Layer) : Option BankClaim :=
  let claim := fun (bank idx : Nat) => (m.tableTensor p idx).map fun t => (⟨bank, l.halls, t.tier, t.base⟩ : BankClaim)
  if l.op < 2 then claim (l.bits 6 22 22) (matSpec l).ftab
  else if l.op = 4 then claim (l.bits 6 26 26) (l.bits 15 31 16)
  else none

/-- The program at word 4 as captured, unchecked. -/
def Cmd.rawProgram (m : Cmd) : Program :=
  let h := m.capAt (m.ptr 4) 64
  { layers := m.rawLayers, table := ptrAt h 1, tensors := wbits h 3 15 0 }

/-- Commands that run matrix or vector layers. -/
def runsLayers (op : Nat) : Bool := op == 0x40 || op == 0x50 || op == 0x80

def Cmd.claims (m : Cmd) : List BankClaim :=
  if runsLayers m.opcode then m.rawLayers.filterMap (m.layerClaim m.rawProgram) else []

/-- Two claims on one bank of one tile for different tables (R144, R271). -/
def BankClaim.meets (a b : BankClaim) : Bool :=
  a.bank == b.bank && ((List.range 16).any fun h => a.halls / 2 ^ h % 2 == 1 && b.halls / 2 ^ h % 2 == 1) &&
    !(a.tier == b.tier && a.base == b.base)

/-- RESOURCE_HELD for a bank: the lowest tile that both claims cover. -/
def heldBank (a b : BankClaim) (ring : Nat) : Status :=
  let h := ((List.range 16).find? fun h => a.halls / 2 ^ h % 2 == 1 && b.halls / 2 ^ h % 2 == 1).getD
    ((hallsOf a.halls).headD 0)
  ⟨St.resourceHeld, (a.bank + 1) * 2 ^ 16 + 640 * h, ring⟩

/-- A conflict among the claims of one command. -/
def ownConflict (ring : Nat) : List BankClaim → Option Status
  | [] => none
  | a :: as =>
    match as.find? fun b => a.meets b with
    | some b => some (heldBank b a ring)
    | none => ownConflict ring as

/-- The status that refuses a command's claims, if one does: its own conflict (R271), else an earlier command's (R143). -/
def State.claimStatus (s : State) (m : Cmd) : Option Status :=
  match ownConflict m.id.ring m.claims with
  | some st => some st
  | none =>
    let hits := (s.cmds.filter fun o => decide (o.order < m.order)).flatMap fun o =>
      o.claims.flatMap fun b => (m.claims.filter fun a => a.meets b).map fun a => heldBank a b o.id.ring
    hits.head?

/-- The user tables a command's layers load, read at acceptance and kept with its copies (R271, R353). -/
def State.loadTables (s : State) (m : Cmd) (p : Program) : State × Except Status (List CapBlock) :=
  let ts := (p.layers.filterMap fun l =>
    m.tableTensor p (if l.op < 2 then (matSpec l).ftab else if l.op = 4 then l.bits 15 31 16 else noTensor))
  ts.foldl (fun acc t =>
    match acc.2 with
    | .error e => (acc.1, .error e)
    | .ok bs =>
      let r := acc.1.touchElems t (t.run 0 1552)
      match r.2 with
      | some x => (r.1, .error (uncorrAt x.1 x.2))
      | none => (r.1, .ok (bs ++ [{ tier := t.tier, addr := t.base, bytes := wordBytes (r.1.tableWords t) }])))
    (s, .ok [])

end Sys2Proof.Machine
end

