-- ==== Sys2Proof/Machine/Vector.lean ====
section
/-! DEFINITION. The Vector Engine (R342 to R357): chain layers, their checks, the element, function and row stages, and
the operations of a chain (R361, R368). -/

namespace Sys2Proof.Machine

open Fp

/-! ### Chain layers (R344 to R346) -/

structure Stage where
  op  : Nat
  a   : Nat
  b   : Nat
  c   : Nat
  mod : Nat
deriving DecidableEq, Repr

structure Chain where
  stages : List Stage
  /-- Lane format code: FP32, BF16 or INT32; none for the reserved mode. -/
  lane   : Option Nat
  ks     : List W
  ftab   : Nat
  aux    : Nat
  in0    : Nat
  in1    : Nat
  in2    : Nat
  out    : Nat
deriving DecidableEq, Repr

def stageWord (l : Layer) (i : Nat) : Nat := if i % 2 = 0 then l.bits (7 + i / 2) 31 16 else l.bits (7 + i / 2) 15 0

def stageOf (w : Nat) : Stage := ⟨w / 2048 % 32, w / 256 % 8, w / 32 % 8, w / 4 % 8, w % 4⟩

def stageCount (l : Layer) : Nat := l.bits 6 31 29 + 1

/-- The chain of a layer in a walk (R348). -/
def chainOf (l : Layer) (bwd : Bool) : Chain :=
  { stages := (List.range (stageCount l)).map fun i => stageOf (stageWord l i),
    lane := match l.bits 6 28 27 with
      | 0 => some 0
      | 1 => some 1
      | 2 => some 7
      | _ => none,
    ks := (List.range 4).map fun i => l.words.getD (11 + i) 0, ftab := l.bits 15 31 16, aux := l.bits 15 15 0,
    in0 := if bwd then l.dy else l.x, in1 := l.w, in2 := l.saved, out := if bwd then l.dx else l.y }

def isFunction (op : Nat) : Bool := decide (8 ≤ op) && decide (op ≤ 12)
def isRow (op : Nat) : Bool := decide (14 ≤ op) && decide (op ≤ 16)

def Chain.row (c : Chain) : Option Stage := c.stages.find? fun st => isRow st.op
def Chain.rands (c : Chain) : Nat := (c.stages.filter fun st => st.op == 13).length

/-- Operands a stage reads: a, b, c. -/
def stageUses (op : Nat) : Bool × Bool × Bool :=
  match op with
  | 1 | 2 | 4 | 5 | 6 | 7 => (true, true, false)
  | 3 => (true, true, true)
  | 13 => (false, false, false)
  | _ => (true, false, false)

def Stage.reads (st : Stage) : List Nat :=
  let u := stageUses st.op
  (if u.1 then [st.a] else []) ++ (if u.2.1 then [st.b] else []) ++ if u.2.2 then [st.c] else []

/-- A stage's fields are legal by themselves (R345, R346). A function stage takes no mod bits; rand is an element stage, whose
mod bits change nothing since it reads no operand. -/
def stageOk (st : Stage) : Bool :=
  let u := stageUses st.op
  decide (st.op < 17) && (u.1 || st.a == 0) && (u.2.1 || st.b == 0) &&
    (if u.2.2 then true else if st.op = 6 then decide (st.c < 6) else if st.op = 12 then decide (st.c < 2) else st.c == 0) &&
    (if st.op < 8 ∨ st.op = 13 then true else if st.op = 16 then decide (st.mod < 2) else st.mod == 0)

/-- Order 1 of R347. -/
def chainOrder1 (l : Layer) (tensors : Nat) : Bool :=
  let c := chainOf l l.bwd
  let ops := c.stages.map (·.op)
  let reads := c.stages.flatMap Stage.reads
  let has := fun (i : Nat) => i != noTensor
  l.bits 6 25 0 == 0 && c.lane.isSome && l.fwd != l.bwd && !l.keep && !l.recompute &&
    ((List.range 8).all fun i => decide (i < stageCount l) || stageWord l i == 0) && c.stages.all stageOk &&
    [c.ftab, c.aux].all (fun i => i == noTensor || decide (i < tensors)) && has c.out &&
    !((c.stages.headD ⟨0, 0, 0, 0, 0⟩).reads.contains 0) &&
    (!reads.contains 1 || has c.in0) && (!reads.contains 2 || has c.in1) && (!reads.contains 3 || has c.in2) &&
    (c.row.isNone || has c.in0) && decide ((ops.filter isFunction).length ≤ 2) && !(ops.dropLast.any isRow) &&
    (ops.contains 12 == has c.ftab) && (ops.contains 16 || !has c.aux) &&
    (c.lane != some 7 || ops.all fun o => [0, 1, 2, 4, 5, 6, 7, 14].contains o)

/-- Size along a dimension, 1 at or above ndim. -/
def Tensor.dim (t : Tensor) (d : Nat) : Nat := if d < t.ndim then t.size d else 1

/-- R349: a source broadcasts to the output; `row` is the row length of a row chain. -/
def broadcasts (out : Tensor) (row : Option Nat) (t : Tensor) : Bool :=
  (List.range 5).all fun d =>
    let o := if d = 0 then row.getD (out.dim 0) else out.dim d
    decide (t.ndim ≤ d) || t.size d == 1 || t.size d == o

/-- Two tensors' address intervals meet (R136). -/
def State.meets (s : State) (a b : Tensor) : Bool :=
  a.tier == b.tier && decide ((s.extent a).1 ≤ (s.extent b).2) && decide ((s.extent b).1 ≤ (s.extent a).2)

/-- R351: the output occupies exactly the source's interval, with the same tier, base, format and strides. -/
def State.sameInterval (s : State) (a b : Tensor) : Bool :=
  a.tier == b.tier && a.base == b.base && a.fmt == b.fmt && a.strides == b.strides && decide (s.extent a = s.extent b)

/-- Rows of an output: the product of its sizes above dimension 0. -/
def Tensor.rowCount (t : Tensor) : Nat := t.dim 1 * t.dim 2 * t.dim 3 * t.dim 4

/-- Orders 3 and 4 of R347, for the named sources, output, table and flag tensor. -/
def State.chainShape (s : State) (w : Nat) (l : Layer) (c : Chain) (ins : List (Option Tensor)) (ftab aux : Option Tensor)
    (out : Tensor) : Except Status Unit := do
  let len : Nat := match ins.head? with
    | some (some t) => t.size 0
    | _ => 0
  let row : Option Nat := if c.row.isSome then some len else none
  let rowOk : Bool := match c.row with
    | some st => if st.op = 16 then out.size 0 == len else out.size 0 == 1
    | none => true
  let okShape : Tensor → Bool := broadcasts out row
  needShape (ins.map fun x => (x, okShape))
  need (decide (row.getD 0 ≤ 4096)) (badDesc l.at_)
  need rowOk (badDesc out.at_)
  needShape [(ftab, fun t => t.ndim == 1 && t.size 0 == 1552 && utOk (s.tableWords t)),
    (aux, fun a => decide (out.rowCount ≤ 32 * a.count))]
  need (ins.all fun x => opt x fun i => !s.meets out i || s.sameInterval out i) (oor w)
  need (opt aux fun a => !s.meets a out && ins.all fun x => opt x fun i => !s.meets a i) (oor w)

/-- Checks one vector chain layer (R347). -/
def State.chainCheck (s : State) (m : Cmd) (w : Nat) (p : Program) (l : Layer) : Except Status Unit := do
  need (chainOrder1 l p.tensors) (badDesc l.at_)
  let c := chainOf l l.bwd
  for i in [l.x, l.w, l.y, l.saved, l.dy, l.dx, l.dw, l.path, c.ftab, c.aux] do
    if i = noTensor then pure () else do
      let _ ← s.layerTensor m w p i
      pure ()
  let t := m.tableTensor p
  let ins : List (Option Tensor) := [t c.in0, t c.in1, t c.in2]
  let okFmt : Tensor → Bool := fun t => c.lane != some 7 || decide (6 ≤ t.fmt)
  needFmt w (ins.map fun x => (x, okFmt))
  needFmt w [(t c.ftab, fun t => t.fmt == 0), (t c.aux, fun t => t.fmt == 7)]
  match t c.out with
  | none => .ok ()
  | some out => s.chainShape w l c ins (t c.ftab) (t c.aux) out

/-! ### Lanes -/

def laneShape (lf : Nat) : Shape := if lf = 1 then bf16 else fp32

/-- A result rounded once to the lane format (R69). -/
def laneRnd (lf : Nat) (r : Val × Flags) : Nat × Flags :=
  let q := rnd (laneShape lf) r
  (encodeIeee (laneShape lf) q.1, q.2)

/-- The 32 bits of an integer that wraps (R61). -/
def wrapInt (i : Int) : Nat × Flags :=
  (i % 2 ^ 32).toNat |> fun n => (n, if -(2 ^ 31) ≤ i ∧ i < 2 ^ 31 then {} else .onlyWrap)

/-- A source element takes the lane format on entry (R348); a NaN of the lane format keeps its bits (R52). -/
def enterLane (lf : Nat) (fmt bits sc : Nat) : Nat × Flags :=
  if lf = 7 then ((signed (width fmt) bits % 2 ^ 32).toNat, {})
  else if fmt = lf then (bits, {})
  else
    let q := convert lf .nearest (decode fmt bits sc)
    (q.1, q.2)

/-- The bits an output element takes from a lane (R348). -/
def leaveLane (lf fmt bits : Nat) : Nat × Flags :=
  if fmt = lf then (bits, {}) else convert fmt .nearest (decode lf bits 0)

/-- The negation of R346: −(−2^31) is −2^31 modulo 2^32, and sets no flag, being a modifier and no operation (assumption 20). -/
def laneNeg (lf b : Nat) : Nat :=
  match lf with
  | 0 => (b + 2 ^ 31) % 2 ^ 32
  | 1 => (b + 2 ^ 15) % 2 ^ 16
  | _ => (2 ^ 32 - b) % 2 ^ 32

/-- The magnitude of R346, as `laneNeg` at −2^31. -/
def laneAbs (lf b : Nat) : Nat :=
  match lf with
  | 0 => b % 2 ^ 31
  | 1 => b % 2 ^ 15
  | _ => if 2 ^ 31 < b then 2 ^ 32 - b else b

/-- The conditions of R345. -/
def laneCmp (lf cond a b : Nat) : Bool :=
  let x := decode lf a 0
  let y := decode lf b 0
  match cond with
  | 0 => lt x y
  | 1 => le x y
  | 2 => eq x y
  | 3 => le y x
  | 4 => lt y x
  | _ => !eq x y

/-- A two-operand stage of arithmetic. -/
def laneOp (lf op a b c : Nat) : Nat × Flags :=
  let x := decode lf a 0
  let y := decode lf b 0
  if lf = 7 then
    let i := signed 32 a
    let j := signed 32 b
    match op with
    | 1 => wrapInt (i + j)
    | 2 => wrapInt (i * j)
    | 4 => (if i ≤ j then a else b, {})
    | _ => (if i ≤ j then b else a, {})
  else match op with
    | 1 => laneRnd lf (addExact x y)
    | 2 => laneRnd lf (mulExact x y)
    | 3 => let r := fmaAt (laneShape lf) x y (decode lf c 0); (encodeIeee (laneShape lf) r.1, r.2)
    | 4 => (encodeIeee (laneShape lf) (minV x y), {})
    | _ => (encodeIeee (laneShape lf) (maxV x y), {})

/-- A function stage (R352, R353). -/
def laneFun (lf op cfield : Nat) (ut : UTable) (a : Nat) : Nat × Flags :=
  let x := decode lf a 0
  match op with
  | 8 => laneRnd lf (exp2Exact x)
  | 9 => laneRnd lf (log2Exact x)
  | 10 => laneRnd lf (recipExact x)
  | 11 => laneRnd lf (rsqrtExact x)
  | _ => if isNaN x then (encodeIeee (laneShape lf) .nan, {}) else laneRnd lf (utEval ut (cfield % 2 == 1) x)

/-- What an element carries through a chain. -/
structure Lane where
  prev  : Nat := 0
  pred  : Bool := false
  q     : Nat := 0
  flags : Flags := {}

/-- The element and function stages over one element: `src` gives in0 to in2 and k0 to k3 by source code, `draw` the draw
of each rand stage. -/
def laneStages (lf : Nat) (ut : UTable) (src draw : Nat → Nat) : List Stage → Lane → Lane
  | [], s => s
  | st :: sts, s =>
    let get := fun (code : Nat) => if code = 0 then s.prev else src code
    let a := if st.mod / 2 = 1 ∧ st.op < 8 then laneAbs lf (get st.a) else get st.a
    let b := if st.mod % 2 = 1 ∧ st.op < 8 then laneNeg lf (get st.b) else get st.b
    let next : Lane :=
      if st.op = 0 then { s with prev := a }
      else if st.op = 6 then { s with prev := a, pred := laneCmp lf st.c a b }
      else if st.op = 7 then { s with prev := if s.pred then a else b }
      else if st.op = 13 then
        let d := draw s.q
        let v : Val := if lf = 1 then .fin false (d / 2 ^ 24) (-8) else .fin false (d / 2 ^ 8) (-24)
        { s with prev := encodeIeee (laneShape lf) v, q := s.q + 1 }
      else if isRow st.op then { s with prev := a }
      else
        let r := if isFunction st.op then laneFun lf st.op st.c ut a else laneOp lf st.op a b (get st.c)
        { s with prev := r.1, flags := s.flags.or r.2 }
    laneStages lf ut src draw sts next

/-! ### Row stages (R355 to R357) -/

/-- One level of the wrapping tree. -/
def intLevel : List Nat → List Nat × Flags
  | a :: b :: rest =>
    let s := wrapInt (signed 32 a + signed 32 b)
    let r := intLevel rest
    (s.1 :: r.1, s.2.or r.2)
  | l => (l, {})

def intLevels : Nat → List Nat → List Nat × Flags
  | 0, l => (l, {})
  | n + 1, l =>
    let a := intLevel l
    let b := intLevels n a.1
    (b.1, a.2.or b.2)

/-- rsum in INT32 mode: the order of R63 with wrapping. -/
def intSum (acc : Nat) : List (List Nat) → Nat × Flags
  | [] => (acc, {})
  | c :: cs =>
    let t := intLevels 5 (c ++ List.replicate (32 - c.length) 0)
    let a := wrapInt (signed 32 acc + signed 32 (t.1.headD 0))
    let r := intSum a.1 cs
    (r.1, (t.2.or a.2).or r.2)

def log2e : Val := of32 0x3FB8AA3B

/-- exp2 rounded to FP32. -/
def exp2' (v : Val) : Val × Flags := rnd fp32 (exp2Exact v)

/-- The computation of R357. -/
def softRow (base2 : Bool) (a : List Val) : List Val × Flags :=
  let m := rowMax a
  let es := a.map fun v =>
    let t := sub v m
    let u := if base2 then t else let q := mul t.1 log2e; (q.1, t.2.or q.2)
    let e := exp2' u.1
    (e.1, u.2.or e.2)
  let s := sumFrom negZero (es.map (·.1))
  let r := rnd fp32 (recipExact s.1)
  let out := es.map fun e => mul e.1 r.1
  (out.map (·.1), Flags.all (es.map (·.2)) |>.or s.2 |>.or r.2 |>.or (Flags.all (out.map (·.2))))

/-- The masked soft maximum of a row: results, and the order of R356 that applied. -/
def softMax (base2 : Bool) (a : List Val) : List Val × Flags × Nat :=
  if a.any isNaN then (a.map fun _ => .nan, {}, 1)
  else
    let n := (a.filter fun v => v == .inf false).length
    if 0 < n then
      let r := rnd fp32 (recipExact (.fin false n 0))
      (a.map fun v => if v == .inf false then r.1 else posZero, r.2, 2)
    else if a.all fun v => v == .inf true then (a.map fun _ => posZero, {}, 3)
    else let r := softRow base2 a; (r.1, r.2, 4)

/-- A row stage over the lane bits of a row: outputs, flags, and the smax order (0 otherwise). -/
def rowStage (lf : Nat) (st : Stage) (row : List Nat) : List Nat × Flags × Nat :=
  let toLane := fun (v : Val) => laneRnd lf (v, {})
  let vs := row.map fun b => decode lf b 0
  if st.op = 14 then
    if lf = 7 then let r := intSum 0 (chunks32 (row.length / 32 + 1) row); ([r.1], r.2, 0)
    else let r := sumFrom negZero vs; let q := toLane r.1; ([q.1], r.2.or q.2, 0)
  else if st.op = 15 then let q := toLane (rowMax vs); ([q.1], q.2, 0)
  else
    let r := softMax (st.mod % 2 == 1) vs
    let q := r.1.map toLane
    (q.map (·.1), r.2.1.or (Flags.all (q.map (·.2))), r.2.2)

/-! ### Operations of a chain (R361, R368) -/

/-- A chain layer with its tensors. -/
structure ChainLayer where
  l     : Layer
  c     : Chain
  lf    : Nat
  in0   : Option Tensor
  in1   : Option Tensor
  in2   : Option Tensor
  out   : Tensor
  aux   : Option Tensor
  ftab  : Option Tensor
deriving DecidableEq, Repr

def Cmd.chainLayer (m : Cmd) (p : Program) (l : Layer) (bwd : Bool) : Option ChainLayer :=
  let c := chainOf l bwd
  let t := m.tableTensor p
  match t c.out, c.lane with
  | some out, some lf => some { l := l, c := c, lf := lf, in0 := t c.in0, in1 := t c.in1, in2 := t c.in2, out := out,
                                aux := t c.aux, ftab := t c.ftab }
  | _, _ => none

/-- The length of the rows a chain processes. -/
def ChainLayer.rowLen (L : ChainLayer) : Nat :=
  if L.c.row.isSome then (match L.in0 with
    | some t => t.size 0
    | none => 0) else L.out.dim 0

/-- Blocks along dimension 1, and along dimension 0 (one for a row chain). -/
def ChainLayer.rbs (L : ChainLayer) : Nat := upDiv (L.out.dim 1) (L.out.tr + 1)
def ChainLayer.cbs (L : ChainLayer) : Nat := if L.c.row.isSome then 1 else upDiv (L.out.dim 0) (L.out.tc + 1)

def ChainLayer.ops (L : ChainLayer) : Nat := L.rbs * L.cbs * (L.out.dim 2 * L.out.dim 3 * L.out.dim 4)

/-- The rows of operation n, each as indices of dimensions 1 to 4, and the first and number of its columns. -/
def ChainLayer.rowsOf (L : ChainLayer) (n : Nat) : List (List Nat) × Nat × Nat :=
  let cb := n % L.cbs
  let rb := n / L.cbs % L.rbs
  let hi := n / L.cbs / L.rbs
  let up := [hi % L.out.dim 2, hi / L.out.dim 2 % L.out.dim 3, hi / L.out.dim 2 / L.out.dim 3]
  let r0 := rb * (L.out.tr + 1)
  let rows := (List.range (min (L.out.tr + 1) (L.out.dim 1 - r0))).map fun i => (r0 + i) :: up
  if L.c.row.isSome then (rows, 0, L.rowLen)
  else let c0 := cb * (L.out.tc + 1); (rows, c0, min (L.out.tc + 1) (L.out.dim 0 - c0))

/-- A row's number: the linear index over dimensions 1 to 4. -/
def Tensor.rowNo (t : Tensor) (r : List Nat) : Nat :=
  r.getD 0 0 + t.dim 1 * (r.getD 1 0 + t.dim 2 * (r.getD 2 0 + t.dim 3 * r.getD 3 0))

/-- A source's coordinates for an output index (R349). -/
def srcCoord (t : Tensor) (idx : List Nat) : List Nat :=
  (List.range t.ndim).map fun d => if t.size d = 1 then 0 else idx.getD d 0

/-- Constants in the lane format: a BF16 chain's are converted at acceptance (R347). -/
def laneK (lf : Nat) (k : W) : Nat × Flags := if lf = 1 then convert 1 .nearest (of32 k) else (k.toNat, {})

/-- The lane values of one operation: for each row, the elements the stages produce and their smax order. -/
def State.chainValues (s : State) (m : Cmd) (L : ChainLayer) (n tile : Nat) : List (List Nat × Nat) × Flags :=
  let ut := m.userTable L.ftab
  let rn := L.c.rands
  let shape := L.rowsOf n
  let ks := L.c.ks.map (laneK L.lf)
  let rows := shape.1.zipIdx.map fun r =>
    let lanes := (List.range shape.2.2).map fun j =>
      let idx := (shape.2.1 + j) :: r.1
      let e := r.2 * shape.2.2 + j
      let enter := fun (t : Option Tensor) => match t with
        | none => (0, ({} : Flags))
        | some t =>
          let c := srcCoord t idx
          enterLane L.lf t.fmt (s.elemBits t c) (if isMx t.fmt then ofLe (s.peek t.metaTier (t.scaleAddr c) 1) else 0)
      let ins := [enter L.in0, enter L.in1, enter L.in2]
      let src := fun (code : Nat) =>
        if code < 4 then (ins.getD (code - 1) (0, {})).1 else (ks.getD (code - 4) (0, {})).1
      let draw := fun (q : Nat) =>
        s.drawAt tile (e % 64) (s.ctr tile (e % 64) + BitVec.ofNat 64 (rn * (e / 64) + q))
      let r := laneStages L.lf ut src draw L.c.stages {}
      (r.prev, Flags.all (ins.map (·.2)) |>.or r.flags)
    let fl := Flags.all (lanes.map (·.2))
    match L.c.row with
    | none => (lanes.map (·.1), 0, fl)
    | some st => let q := rowStage L.lf st (lanes.map (·.1)); (q.1, q.2.2, fl.or q.2.1)
  (rows.map fun (r : List Nat × Nat × Flags) => (r.1, r.2.1), Flags.all (rows.map fun r => r.2.2) |>.or (Flags.all (ks.map (·.2))))

/-- The source elements operation n reads. -/
def State.chainReads (s : State) (L : ChainLayer) (n : Nat) : State × Option (Nat × Nat) :=
  let shape := L.rowsOf n
  let idx := shape.1.flatMap fun r => (List.range shape.2.2).map fun j => (shape.2.1 + j) :: r
  let rd := fun (acc : State × Option (Nat × Nat)) (t : Option Tensor) =>
    match acc.2, t with
    | none, some t => acc.1.touchElems t ((idx.map (srcCoord t)).dedup)
    | _, _ => acc
  [L.in0, L.in1, L.in2].foldl rd (s, none)

/-- The tile of operation n (R368). -/
def State.chainTile (s : State) (L : ChainLayer) (n : Nat) : Nat :=
  let shape := L.rowsOf n
  match L.in0 with
  | some t =>
    if t.tier = 0 then s.elemAddr t (srcCoord t (shape.2.1 :: shape.1.headD [])) / 2 ^ 18
    else s.encTile L.l.halls n
  | none => s.encTile L.l.halls n

/-- Steps of one operation (R369). -/
def ChainLayer.steps (L : ChainLayer) (n : Nat) : Nat :=
  let shape := L.rowsOf n
  let one := upDiv shape.2.2 (if L.lf = 1 then 128 else 64)
  shape.1.length * one * (match L.c.row with
    | some st => if st.op = 16 then 3 else 1
    | none => 1)

end Sys2Proof.Machine
end

