-- ==== Sys2Proof/Machine/Products.lean ====
section
/-! DEFINITION. What the operations of matrix layers compute (R251 to R280, R316 to R336): tiles of operands, chunk sums,
accumulators, saved values, gradients, and the units that check them. -/

namespace Sys2Proof.Machine

open Fp

def State.inactive (s : State) (L : MatLayer) (mb nb : Nat) : Bool :=
  L.sp.pred && !s.mapAt L.mask L.nbs mb nb

/-- x tile (mb, kb) is marked zero (R336). -/
def State.zeroX (s : State) (L : MatLayer) (mb kb : Nat) : Bool := L.sp.zin && s.mapAt L.xz L.kbs mb kb

def State.matAt (s : State) (t : Option Tensor) (r c : Nat) : Val := match t with
  | some t => s.at2 t r c
  | none => negZero

def State.block (s : State) (t : Option Tensor) (rows cols : List Nat) : Grid := grid rows cols (s.matAt t)

/-- Rows of weight tile (kb, nb) within the extent: K by N. -/
def State.wRows (s : State) (L : MatLayer) (kb nb : Nat) : List (List (Option Val)) :=
  ((s.wTile L kb nb).take (blockLines L.k kb).length).map fun r => r.take (blockLines L.n nb).length

def transO (g : List (List (Option Val))) (cols : Nat) : List (List (Option Val)) :=
  (List.range cols).map fun j => g.map fun r => r.getD j none

def denseO (g : List (List (Option Val))) : Grid := g.map fun r => r.map fun v => v.getD negZero

/-- The key under which an operation keeps the result that a later operation of its walk takes. -/
def keptKey : Nat := 2 ^ 20

/-- The words of a tile of results. -/
def gridWords (g : Grid) : List W := g.flatten.map bits32

/-- The tile that some words hold, by rows of so many columns. -/
def wordsGrid (cols : Nat) (ws : List W) : Grid := (groups cols (ws.length / max 1 cols + 1) ws).map fun r => r.map of32

/-- Results that an operation keeps on die. -/
def State.hold' (s : State) (m : Cmd) (i : Nat) (h : List (Nat × List W)) : State :=
  s.mapOp m.id i fun o => { o with held := o.held ++ h }

/-- Keeps an operation's result in its Store Room or Banked Accumulator Buffer. -/
def State.keep (s : State) (m : Cmd) (i : Nat) (g : Grid) : State := s.hold' m i [(keptKey, gridWords g)]

/-- The result that an operation of a command kept. -/
def Cmd.kept (m : Cmd) (k : OpKind) (cols : Nat) : Option Grid :=
  match m.ops.find? fun o => decide (o.kind = k) with
  | some o => (o.held.find? fun h => h.1 == keptKey).map fun h => wordsGrid cols h.2
  | none => none

/-- The unit that forms a chunk of a weight tile: an array of the operation's side, or the Sparse Engine (R317). -/
def isSpTag (tag : Nat) : Bool := tag == 1 || tag == 2

/-- The forward chunk kb of output tile (mb, nb) from row tensor src (R252, R320). -/
def State.fwdChunk (s : State) (L : MatLayer) (src : Option Tensor) (mb nb kb : Nat) : Grid × Flags :=
  chunkSums (s.block src (blockLines L.m mb) (blockLines L.k kb)) (transO (s.wRows L kb nb) (blockLines L.n nb).length)

/-- Chunk sums that operations kept, added in ascending order from −0 (R253, R254, R316). -/
def Cmd.keptAcc (m : Cmd) (kind : Nat → OpKind) (n rows cols : Nat) : Grid × Flags :=
  addChunks (zeroGrid rows cols) ((List.range n).filterMap fun b => (m.kept (kind b) cols).map fun g => (g, {}))

/-- The accumulators of output tile (mb, nb) of a product that one array forms over the whole of K (R253). -/
def State.productAcc (s : State) (L : MatLayer) (src : Option Tensor) (mb nb : Nat) : Grid × Flags :=
  addChunks (zeroGrid (blockLines L.m mb).length (blockLines L.n nb).length)
    ((List.range L.kbs).map fun kb => s.fwdChunk L src mb nb kb)

/-- The accumulators of output tile (mb, nb): of a dense layer's product, or of the chunk operations of a sparse layer; `again`
for a recompute operation's. -/
def State.fwdAcc (s : State) (m : Cmd) (L : MatLayer) (src : Option Tensor) (mb nb : Nat) (again : Bool := false) :
    Grid × Flags :=
  if L.l.op = 0 then s.productAcc L src mb nb
  else m.keptAcc (fun kb => if again then .rechunk L.pos mb nb kb else .chunk L.pos mb nb kb) L.kbs
    (blockLines L.m mb).length (blockLines L.n nb).length

/-- z of an accumulator tile (R265). -/
def State.zOf (s : State) (L : MatLayer) (nb : Nat) (acc : Grid) : Grid × Flags := s.withBias L.bias (blockLines L.n nb) acc

/-- A tile converted to a format and read back; MXFP4 by rows, each one block (R58, R274, R279). -/
def asFmt (fmt : Nat) (g : Grid) : Grid × Flags :=
  if isMx fmt then
    let rows := g.map fun r =>
      let b := toMxBlock (r.map fun v => (v, Mode.nearest))
      (b.1.map fun c => decode 5 c b.2.1, b.2.2)
    (rows.map (·.1), Flags.all (rows.map (·.2)))
  else gridMap (fun v => let q := convert fmt .nearest v; (decode fmt q.1 0, q.2)) g

/-- Saved pre-activation tile (mb, nb): stored, or as its recompute operation left it (R274, R278, R334). -/
def State.savedTile (s : State) (m : Cmd) (p : Program) (L : MatLayer) (mb nb : Nat) : Grid :=
  let rows := blockLines L.m mb
  let cols := blockLines L.n nb
  match s.zPlace m p L (s.blockHall L mb) with
  | .at_ t row => s.block (some t) (rows.map row) cols
  | .none => zeroGrid rows.length cols.length
  | .recompute =>
    if s.inactive L mb nb then rows.map fun _ => cols.map fun _ => posZero
    else (m.kept (.recompute L.pos mb nb) cols.length).getD (zeroGrid rows.length cols.length)

/-- The pre-pass over dy tile (mb, nb), before its conversion (R279). -/
def State.preTile (s : State) (m : Cmd) (p : Program) (L : MatLayer) (mb nb : Nat) : Grid × Flags :=
  let d := m.drainGrid L true (s.savedTile m p L mb nb)
  let v := gridZip mul (s.block L.dy (blockLines L.m mb) (blockLines L.n nb)) d.1
  (v.1, d.2.or v.2)

/-- dz tile (mb, nb) (R276, R279, R334). -/
def State.dzTile (s : State) (m : Cmd) (L : MatLayer) (mb nb : Nat) : Grid :=
  let rows := blockLines L.m mb
  let cols := blockLines L.n nb
  if s.inactive L mb nb then zeroGrid rows.length cols.length
  else if L.sp.dmode = 2 then
    (m.kept (.pre L.pos mb nb) cols.length).getD (zeroGrid rows.length cols.length)
  else s.block L.dy rows cols

/-- Chunk nb of dx tile (mb, ib) (R276, R318). -/
def State.dxChunk (s : State) (m : Cmd) (L : MatLayer) (mb ib nb : Nat) : Grid × Flags :=
  chunkSums (s.dzTile m L mb nb) (s.wRows L ib nb)

/-- The accumulators of dx tile (mb, ib): of a dense layer's product, or of the triples of a sparse layer. -/
def State.dxAcc (s : State) (m : Cmd) (L : MatLayer) (mb ib : Nat) : Grid × Flags :=
  let rows := (blockLines L.m mb).length
  let cols := (blockLines L.k ib).length
  if L.l.op = 0 then addChunks (zeroGrid rows cols) ((List.range L.nbs).map fun nb => s.dxChunk m L mb ib nb)
  else m.keptAcc (fun nb => .triple L.pos mb ib nb) L.nbs rows cols

/-- x tile (mb, ib) transposed: K by rows. -/
def State.xT (s : State) (L : MatLayer) (mb ib : Nat) : Grid :=
  transpose (s.block L.x (blockLines L.m mb) (blockLines L.k ib)) (blockLines L.k ib).length

/-- Chunk mb of dw tile (ib, nb) at every position (R276). -/
def State.dwChunk (s : State) (m : Cmd) (L : MatLayer) (mb ib nb : Nat) : Grid × Flags :=
  let dz := s.dzTile m L mb nb
  chunkSums (s.xT L mb ib) ((transpose dz (blockLines L.n nb).length).map fun c => c.map some)

/-- The same at the present positions of the weight tile (R318). -/
def State.dwMasked (s : State) (m : Cmd) (L : MatLayer) (mb ib nb : Nat) (mask : List (List Bool)) : Grid × Flags :=
  maskedSums (s.xT L mb ib) ((transpose (s.dzTile m L mb nb) (blockLines L.n nb).length).map fun c => c.map some) mask

/-- Positions of weight tile (ib, nb) that a masked dw chunk covers (R318). -/
def State.wMask (s : State) (L : MatLayer) (ib nb : Nat) : List (List Bool) :=
  (s.wRows L ib nb).map fun r => r.map (·.isSome)

/-- The dx Drain of a tile (R278). -/
def State.dxDrain (s : State) (m : Cmd) (p : Program) (L : MatLayer) (mb ib : Nat) (acc : Grid) : Grid × Flags :=
  if L.sp.dmode = 1 then
    match p.layers[L.sp.dlayer]? with
    | none => (acc, {})
    | some q =>
      let P := m.matLayer p L.sp.dlayer q
      let d := m.drainGrid P true (s.savedTile m p P mb ib)
      let v := gridZip mul acc d.1
      (v.1, d.2.or v.2)
  else (acc, {})

/-! ### Writing results -/

/-- The lanes a Drain draws from: East's column lanes, or West's (R68). -/
def drainLanes (side : Nat) : Nat := if side = 1 then 32 else 0

/-- A stochastic Drain advances its 32 lanes by the tile's rows (R361). -/
def State.drainAdvance (s : State) (round : Bool) (tile side rows : Nat) (mb : Option W) : State :=
  if round then s.advance tile ((List.range 32).map (drainLanes side + ·)) rows mb else s

abbrev Written := State × Option (Nat × Nat) × Flags

/-- A write that went well leads on. -/
def thenDo (r : Written) (f : State → State) : Written := match r.2.1 with
  | none => (f r.1, r.2.1, r.2.2)
  | some _ => r

/-- Writes one tile of an output with its rounding field, then advances the lanes. -/
def State.drainTile (s : State) (t : Option Tensor) (rows cols : List Nat) (round : Bool) (tile side : Nat) (mb : Option W)
    (g : Grid) : Written :=
  match t with
  | none => (s, none, {})
  | some t => thenDo (s.writeGrid t rows cols round tile (drainLanes side) g)
      fun s => s.drainAdvance round tile side rows.length mb

/-- The forward Drain of tile (mb, nb) (R265, R273, R333, R335). -/
def State.fwdWrite (s : State) (m : Cmd) (p : Program) (L : MatLayer) (mb nb tile side : Nat) (z : Grid)
    (first : Bool) : Written :=
  let rows := blockLines L.m mb
  let cols := blockLines L.n nb
  let place := s.zPlace m p L (s.blockHall L mb)
  let a : Written := match place with
    | .at_ t row => s.writeGrid t (rows.map row) cols false tile 0 z
    | _ => (s, none, {})
  let b := match place, L.x, L.ckpt with
    | .recompute, some x, some ck => if first then State.andWrite a fun s => s.copyRows x ck rows else a
    | _, _, _ => a
  let f := m.drainGrid L false z
  let r := State.andWrite b fun s => s.drainTile L.y rows cols L.sp.round tile side (some (BitVec.ofNat 32 (m.word 7))) f.1
  let r : Written := (r.1, r.2.1, r.2.2.or f.2)
  match L.sp.zout, L.yz, L.y with
  | true, some yz, some y =>
    State.andWrite r fun s =>
      if rows.all fun i => cols.all fun j => isZero (s.at2 y i j) then
        let q := s.setMapBits yz [(mb * L.nbs + nb, true)]
        (q.1, q.2, {})
      else (s, none, {})
  | _, _, _ => r

def maskWords (g : List (List Bool)) : List W := g.map fun r => BitVec.ofNat 32 (r.foldr (fun b a => b.toNat + 2 * a) 0)

/-- The elements of dw tile (ib, nb). -/
def dwCells (L : MatLayer) (ib nb : Nat) : List (List Nat) :=
  (blockLines L.k ib).flatMap fun r => (blockLines L.n nb).map fun c => [c, r]

/-- A chain accumulator whose two adders differ stores its tile with the uncorrectable-data marker (R255). -/
def State.markDw (s : State) (t : Tensor) (L : MatLayer) (ib nb : Nat) : State :=
  ((dwCells L ib nb).map fun c => s.elemAddr t c / 8 * 8).dedup.foldl (fun s a => s.setErr (memKey t.tier a) 2) s

/-- A chain accumulator of dw tile (ib, nb) adds one chunk (R254); masked positions only, where a mask is given. -/
def State.addDw (s : State) (t : Tensor) (L : MatLayer) (ib nb : Nat) (vals mask : List W) : Written :=
  let rows := blockLines L.k ib
  let cols := blockLines L.n nb
  let cells := rows.zipIdx.flatMap fun r => cols.zipIdx.map fun c => (r, c)
  let live := cells.zipIdx.filter fun q =>
    mask.isEmpty || (mask.getD q.1.1.2 0).toNat / 2 ^ q.1.2.2 % 2 == 1
  let sums := live.map fun q =>
    let at_ := [q.1.2.1, q.1.1.1]
    (at_, add (s.elem t at_) (of32 (vals.getD q.2 0)))
  let r := s.writeElems t (sums.map fun q => (q.1, encodeIeee fp32 q.2.1))
  (r.1, r.2, Flags.all (sums.map fun q => q.2.2))

/-- dw of a Hall starts from −0 over every element (R280). -/
def State.startDw (s : State) (t : Tensor) : Written :=
  let r := s.writeElems t ((t.run 0 t.count).map fun e => (e, encodeIeee fp32 negZero))
  (r.1, r.2, {})

/-! ### Units and their checks -/

/-- A dense tile product's check. -/
def State.tileCheck (s : State) (h : Nat) (a b : Grid) (cin : Option Grid) : Grid → Verdict := fun o =>
  checkTile a b cin o (s.tol h)

/-- The row-sum vector of weight tile t: sums and magnitudes (R308). -/
def State.rowSumsAt (s : State) (t : Tensor) (i off : Nat) : List Val :=
  (List.range 32).map fun r => decode 0 (ofLe (s.peek 3 (slotOf t i + 2048 + off + 4 * r) 4)) 0

/-- The Sparse Engine's checks of a forward chunk: columns from the decoded operands; rows from the stored row sums when
`rs` is set (R328). -/
def State.sparseCheck (s : State) (h : Nat) (a b : Grid) (rsv : Option (List Val × List Val)) : Grid → Verdict := fun o =>
  let full := checkLines a b none o (s.tol h)
  match rsv with
  | none => Verdict.ofLines full.1 full.2
  | some (sv, av) =>
    let rows := (a.zip o).map fun q =>
      lineVerdict q.2 (treeSum (List.zipWith (fun x v => (mul x v).1) q.1 sv))
        (treeSum (List.zipWith (fun x v => (mul (abs x) v).1) q.1 av)) (s.tol h)
    Verdict.ofLines rows full.2

/-- The check of a masked dw chunk: each line's sum against the decoded operands, absent positions as 0 in their places of the
tree (R281, R328). -/
def State.maskedCheck (s : State) (h : Nat) (a b : Grid) (mask : List (List Bool)) : Grid → Verdict := fun o =>
  let line := fun (xs : List Val) (others : List (List Val)) (present : List Bool) (outs : List Val) =>
    let n := xs.length
    let col := fun (f : Val → Val) => (List.range n).map fun i =>
      treeSum ((others.zip present).map fun q => if q.2 then f (q.1.getD i negZero) else posZero)
    lineVerdict ((outs.zip present).map fun q => if q.2 then q.1 else posZero) (checkSum negZero xs (col id))
      (checkSum negZero (xs.map abs) (col abs)) (s.tol h)
  let rows := a.zipIdx.map fun q => line q.1 b (mask.getD q.2 []) (o.getD q.2 [])
  let cols := b.zipIdx.map fun q =>
    line q.1 a (mask.map fun r => r.getD q.2 false) (o.map fun r => r.getD q.2 negZero)
  Verdict.ofLines rows cols

end Sys2Proof.Machine
end

