-- ==== Sys2Proof/Machine/Gather.lean ====
section
/-! DEFINITION. Gather and scatter layers (R188 to R201): their words and checks, index entries, row fetches, pooling, distinct
rows, gradients, scatter batches and near-memory adds. -/

namespace Sys2Proof.Machine

open Fp

/-! ### Words and checks -/

/-- Words 6 to 8 of a gather layer (R188). -/
structure GSpec where
  src    : Nat
  pool   : Nat
  bag    : Nat
  hop    : Nat
  handle : Nat
  slot   : Nat
  offs   : Nat
  uniq   : Nat
deriving DecidableEq, Repr

def gspec (l : Layer) : GSpec :=
  { src := l.bits 6 31 30, pool := l.bits 6 29 28, bag := l.bits 6 27 26, hop := l.bits 6 19 16, handle := l.bits 6 15 8,
    slot := l.bits 7 31 16, offs := l.bits 7 15 0, uniq := l.bits 8 31 16 }

/-- The conditions of R189 that the descriptor alone shows, with the tensors a walk needs. -/
def gatherOk (l : Layer) (tensors : Nat) : Bool :=
  let g := gspec l
  let has := fun (i : Nat) => i != noTensor
  l.bits 6 25 20 == 0 && l.bits 6 7 0 == 0 && l.bits 8 15 0 == 0 &&
    ((List.range 7).all fun i => wordAt l.words (9 + i) == 0) && decide (g.src < 2) && decide (g.pool < 3) &&
    decide (g.bag < 2) && decide (g.hop ≤ 4) && [g.slot, g.offs, g.uniq].all (fun i => i == noTensor || decide (i < tensors)) &&
    !(g.pool != 0 && g.bag == 0 && g.hop == 0) && (g.pool != 0 || g.bag == 0) && ((g.src == 1) == has l.x) &&
    (g.src == 0 || (!has g.slot && !has g.uniq)) && (!has g.uniq || has g.slot) && has l.path &&
    (g.bag == 0 || has g.offs) && (!l.fwd || has l.y) && (!l.bwd || has l.dy)

/-- Formats the Gather Engine's rows may have (R50). -/
def rowFmt (f : Nat) : Bool := f == 0 || f == 1 || f == 3 || f == 5

/-- The checks of a gather layer. offs counts for bag 1 alone (R188, R190). R50's list of the Gather Engine's row formats is
applied to x of a gather: R50 does not say whether it binds dy of a backward gather, which takes every format (DESIGN CHOICE,
assumption 101). -/
def State.gatherCheck (s : State) (m : Cmd) (w : Nat) (p : Program) (l : Layer) : Except Status Unit := do
  let g := gspec l
  need (gatherOk l p.tensors) (badDesc l.at_)
  for i in [l.x, l.w, l.y, l.saved, l.dy, l.dx, l.dw, l.path, g.slot, g.offs, g.uniq] do
    if i = noTensor then pure () else do
      let _ ← s.layerTensor m w p i
      pure ()
  let t := m.tableTensor p
  let offs := if g.bag = 1 then t g.offs else none
  needFmt w [(t l.y, fun t => t.fmt != 6 && t.fmt != 7), (t l.x, fun t => rowFmt t.fmt), (t l.path, fun t => t.fmt == 7),
    (t g.slot, fun t => t.fmt == 7), (offs, fun t => t.fmt == 7), (t g.uniq, fun t => t.fmt == 7),
    (t l.dw, fun t => t.fmt == 0)]
  needShape [(offs, fun t => t.ndim == 1)]
  need (g.src == 1 || (s.openFor m g.handle).isSome) (oor 6)

/-- The word of a scatter layer (R197). -/
def scatterOk (l : Layer) : Bool :=
  let has := fun (i : Nat) => i != noTensor
  l.bits 6 31 30 == 0 && l.bits 6 28 20 == 0 && l.bits 6 15 0 == 0 &&
    ((List.range 9).all fun i => wordAt l.words (7 + i) == 0) &&
    (decide (l.bits 6 19 16 ≤ 4) || l.bits 6 19 16 == 15) && has l.path && (!l.fwd || (has l.x && has l.y)) &&
    (!l.bwd || (has l.dx && has l.dy))

/-- A destination is FP32 or INT32 (R197). -/
def destOk (t : Tensor) : Bool := t.fmt == 0 || t.fmt == 7

/-- The checks of a scatter layer. Its x and dy take every format: R50 does not say whether its list of row formats binds them
(DESIGN CHOICE, assumption 101). -/
def State.scatterCheck (s : State) (m : Cmd) (w : Nat) (p : Program) (l : Layer) : Except Status Unit := do
  need (scatterOk l) (badDesc l.at_)
  for i in [l.x, l.w, l.y, l.saved, l.dy, l.dx, l.dw, l.path] do
    if i = noTensor then pure () else do
      let _ ← s.layerTensor m w p i
      pure ()
  let t := m.tableTensor p
  needFmt w [(t l.path, fun t => t.fmt == 7), (t l.y, destOk)]

/-! ### Index entries -/

/-- 32-bit word i of an INT32 tensor, in linear order; 0 beyond it. -/
def State.wordOf (s : State) (t : Tensor) (i : Nat) : Nat := if i < t.count then s.elemBits t (t.coord i) else 0

/-- The 8-byte form at word i (R155). -/
def State.longOf (s : State) (t : Tensor) (i : Nat) : Nat := s.wordOf t i + 2 ^ 32 * s.wordOf t (i + 1)

/-- Entries of node column hop of a path record (R170): n0 or count_h. -/
def State.columnLen (s : State) (t : Tensor) (hop : Nat) : Nat := s.wordOf t (1 + hop) % 2 ^ 24

/-- The first word of a node column (R171). -/
def State.columnAt (s : State) (t : Tensor) (hop : Nat) : Nat :=
  16 + 2 * ((List.range hop).map (s.columnLen t)).foldl (· + ·) 0

/-- The entries of a node column, in position order. -/
def State.column (s : State) (t : Tensor) (hop : Nat) : List Nat :=
  let a := s.columnAt t hop
  (List.range (s.columnLen t hop)).map fun i => s.longOf t (a + 2 * i)

def entryRow (e : Nat) : Nat := e % 2 ^ 40
def entryParent (e : Nat) : Nat := e / 2 ^ 40 % 2 ^ 24

/-- Slots of rows: distinct rows in order of first occurrence (R193). -/
def distinctRows (rows : List Nat) : List Nat := rows.foldl (fun acc r => if acc.contains r then acc else acc ++ [r]) []

/-- The bags of the index entries, each a list of positions (R190); none when the offsets break R190. -/
def State.bags (s : State) (g : GSpec) (path : Tensor) (offs : Option Tensor) (entries : List Nat) :
    Option (List (List Nat)) :=
  let n := entries.length
  if g.pool = 0 then some ((List.range n).map fun i => [i])
  else if g.bag = 0 then
    let ps := entries.map entryParent
    some ((List.range (s.columnLen path (g.hop - 1))).map fun p => (List.range n).filter fun i => ps.getD i 0 == p)
  else match offs with
    | none => none
    | some t =>
      let k := t.size 0
      let o := (List.range k).map (s.wordOf t)
      if (List.range (k - 1)).all (fun i => decide (o.getD i 0 ≤ o.getD (i + 1) 0)) && (o.getLast?).getD 0 == n then
        some ((List.range (k - 1)).map fun b => (List.range n).filter fun i =>
          decide (o.getD b 0 ≤ i) && decide (i < o.getD (b + 1) 0))
      else none

/-! ### A gather layer -/

structure GatherCtx where
  l    : Layer
  g    : GSpec
  x    : Option Tensor
  y    : Option Tensor
  dy   : Option Tensor
  dx   : Option Tensor
  dw   : Option Tensor
  path : Tensor
  slot : Option Tensor
  offs : Option Tensor
  uniq : Option Tensor
deriving DecidableEq, Repr

def Cmd.gatherLayer (m : Cmd) (p : Program) (l : Layer) : Option GatherCtx :=
  let g := gspec l
  let t := m.tableTensor p
  (t l.path).map fun path => { l := l, g := g, x := t l.x, y := t l.y, dy := t l.dy, dx := t l.dx, dw := t l.dw, path := path,
                               slot := t g.slot, offs := t g.offs, uniq := t g.uniq }

def State.entries (s : State) (G : GatherCtx) : List Nat := s.column G.path G.g.hop

/-- The table version a layer reads at its stamp. -/
def State.gatherTable (s : State) (G : GatherCtx) (stamp : Nat) : Option (List W) :=
  (s.handle G.g.handle).bind fun h => s.versionAt (s.mainOf h) stamp

/-- The main handle's number, under which other packages know the table. -/
def State.mainNo (s : State) (n : Nat) : Nat := match s.handle n with
  | some h => (s.mainOf h).n
  | none => n

/-- The index entries break R189 or R190: the record has fewer hops, or the offsets do not fit. -/
def State.entryFault (s : State) (G : GatherCtx) : Option Status :=
  if s.wordOf G.path 0 / 2 ^ 25 % 8 < G.g.hop then some (badDesc G.l.at_)
  else if (s.bags G.g G.path G.offs (s.entries G)).isNone then some (oor 6) else none

/-- Faults of the rows of a table in a version (R189, R193). -/
def State.rowFault (s : State) (G : GatherCtx) (stamp : Nat) : Option Status :=
  let n := (s.entries G).length
  match s.gatherTable G stamp with
  | none => some (oor 6)
  | some d =>
    if (s.entries G).any fun e => decide (tRows d ≤ entryRow e) then some (oor 6)
    else if opt G.slot (fun t => decide (n ≤ t.count)) && opt G.uniq (fun t => decide (2 * (n + 1) ≤ t.count)) then none
    else some (oor 6)

/-- A walk of a gather layer reads table rows: a forward walk from a handle. -/
def GatherCtx.readsTable (G : GatherCtx) (bwd : Bool) : Bool := G.g.src == 0 && !bwd

/-- Faults of the layer's data, met as its batch is presented (R189, R190, R193). -/
def State.gatherData (s : State) (G : GatherCtx) (bwd : Bool) (stamp : Nat) : Option Status :=
  s.entryFault G <|> if G.readsTable bwd then s.rowFault G stamp else none

/-- A request for a row record of another package (R195, R244). -/
def State.rowAsk (s : State) (m : Cmd) (dst handle row stamp op entry : Nat) : Pkt :=
  { type := .request, cls := 2, phase := 1, epoch := s.fld F.rtActive, len := 16, dst := dst, src := s.pkg, via := dst,
    job := m.job, ring := m.id.ring, seq := m.id.seq, sink := 2, body := .rowReq handle row stamp op entry }

/-- A row that an operation has asked for, in its Store Room or on its way. -/
def Op.asked (o : Op) (row : Nat) : Bool := o.got.any fun f => f.row == row

/-- A row that has reached the Store Room. -/
def Op.has (o : Op) (row : Nat) : Bool := o.got.any fun f => f.row == row && f.fmt != 0xFF

/-- The mark of a row that another package has been asked for. -/
def awaitedRow (entry row : Nat) : Fetched := { entry := entry, row := row, fmt := 0xFF, bytes := [] }

/-- Puts a row into an operation's Store Room, or its mark. -/
def addGot (f : Fetched) (o : Op) : Op := { o with got := (o.got.filter fun g => g.row != f.row) ++ [f] }

/-- Asks another package for a row, once for each distinct row (R194, R195). -/
def State.askFar (s : State) (m : Cmd) (i entry row owner handle stamp : Nat) : State :=
  (s.mapOp m.id i (addGot (awaitedRow entry row))).send (s.rowAsk m owner handle row stamp i entry)

/-- Finds the owner of each distinct row, from entry number n on, and asks other packages for theirs (R195). -/
def State.askRows (m : Cmd) (i : Nat) (d : List W) (handle stamp : Nat) : List (Nat × Nat) → State → State
  | [], s => s
  | (row, entry) :: rest, s =>
    let q := s.findOwner d row
    match q.2 with
    | .error st => q.1.failOp m.id i st
    | .ok owner =>
      askRows m i d handle stamp rest
        (if owner = s.pkg then q.1 else q.1.askFar m i entry row owner handle stamp)

/-- The distinct rows of a list of entries, each with the first entry that names it. -/
def firstEntries (es : List Nat) : List (Nat × Nat) :=
  (distinctRows (es.map entryRow)).map fun r => (r, es.findIdx fun e => entryRow e == r)

/-- A gather layer's batch is presented with every other condition of its issue met: the layer takes its stamp, and other
packages are asked for their rows (R195, R243; assumption 22). -/
def State.openGather (s : State) (m : Cmd) (i : Nat) (bwd : Bool) (G : GatherCtx) : State :=
  let stamp := s.tb.stime
  match s.gatherData G bwd stamp with
  | some st => s.failOp m.id i st
  | none =>
    let s := s.mapOp m.id i fun o => { o with stamp := some stamp }
    match G.readsTable bwd, s.gatherTable G stamp with
    | true, some d => State.askRows m i d (s.mainNo G.g.handle) stamp (firstEntries (s.entries G)) s
    | _, _ => s

/-- One local row reaches the Store Room (R185, R191), and its heat grows (R194). -/
def State.fetchRow (s : State) (m : Cmd) (i entry : Nat) (G : GatherCtx) (stamp : Nat) : State :=
  match (s.entries G)[entry]?, s.gatherTable G stamp with
  | some e, some d =>
    let row := entryRow e
    if s.rowOwner d row ≠ s.pkg then s else
    let r := s.readRow d row 6
    match r.2 with
    | .error st => r.1.failOp m.id i st
    | .ok (x, bs) =>
      if x.loc = 4 then r.1.askFar m i entry row (x.addr16 % 2 ^ 16) (r.1.mainNo G.g.handle) stamp
      else (r.1.setDir d row { x with heat := min 255 (x.heat + 1) }).mapOp m.id i
        (addGot { entry := entry, row := row, fmt := x.fmt, bytes := bs })
  | _, _ => s

/-- The fetched record of the row of index entry i. -/
def State.recOf (s : State) (G : GatherCtx) (o : Op) (i : Nat) : Option Fetched :=
  o.got.find? fun f => f.row == entryRow ((s.entries G).getD i 0)

/-- A value as FP32: an MXFP4 element above the FP32 range becomes an infinity (R56; assumption 20). -/
def toFp32 (v : Val) : Val × Flags := roundTo fp32 .nearest v

/-- The row of index entry i as FP32 values (R192). -/
def State.entryVals (s : State) (G : GatherCtx) (o : Op) (width i : Nat) : List (Val × Flags) :=
  match G.x with
  | some x => (List.range width).map fun e => toFp32 (s.elem x [e, i])
  | none => match s.recOf G o i with
    | some f => (rowVals width f.fmt f.bytes).map toFp32
    | none => []

/-- Stored elements of a row: their codes, the scale bytes of an MXFP4 row, and the element format. -/
structure RawRow where
  codes  : List Nat
  scales : List Nat
  fmt    : Nat

/-- The stored elements of row r of a tensor. -/
def State.rawRow (s : State) (t : Tensor) (width r : Nat) : RawRow :=
  { codes := (List.range width).map fun e => s.elemBits t [e, r]
    scales := if isMx t.fmt then (List.range (width / 32)).map fun b => ofLe (s.peek t.metaTier (t.scaleAddr [32 * b, r]) 1) else []
    fmt := t.fmt }

/-- The stored elements of entry i, for a row that passes unpooled. -/
def State.entryRaw (s : State) (G : GatherCtx) (o : Op) (width i : Nat) : Option RawRow :=
  match G.x with
  | some x => some (s.rawRow x width i)
  | none => (s.recOf G o i).map fun f =>
    { codes := (List.range width).map (rowCode f.fmt f.bytes)
      scales := if f.fmt = 3 then (List.range (width / 32)).map fun b => (f.bytes.getD (width / 2 + b) 0).toNat else []
      fmt := rowFormat f.fmt }

/-- The stored elements behind a row of values, where they have the format of the tensor they go to. -/
def RawRow.into (t : Tensor) (w : Option RawRow) : Option RawRow := w.filter fun w => w.fmt == t.fmt

/-- Element e of a row, converted to a tensor's format under R56; a NaN of that very format passes bit for bit (R52). -/
def passElem (t : Tensor) (raw : Option RawRow) (e : Nat) (v : Val) : Nat × Flags :=
  match isNaN v, raw.bind fun w => w.codes[e]? with
  | true, some c => (c, {})
  | _, _ => convert t.fmt Mode.nearest v

/-- Block b of a row, encoded under R58; a block of NaNs of MXFP4 itself passes bit for bit (R52). -/
def passBlock (raw : Option RawRow) (r b : Nat) (vals : List Val) : Block × Flags :=
  match raw.filter fun w => w.scales.getD b 0 == 0xFF with
  | some w => (⟨[32 * b, r], (w.codes.drop (32 * b)).take 32, 0xFF⟩, {})
  | none => let q := toMxBlock (vals.map fun v => (v, Mode.nearest)); (⟨[32 * b, r], q.1, q.2.1⟩, q.2.2)

/-- Writes a row of values into row r of a tensor, `raw` being the stored elements that the values are, if they are some
(R52, R56, R58, R192, R196, R197). -/
def State.putRow (s : State) (t : Tensor) (r : Nat) (raw : Option RawRow) (vals : List Val) : Written :=
  let raw := RawRow.into t raw
  if isMx t.fmt then
    let bs := (groups 32 (vals.length / 32 + 1) vals).zipIdx.map fun g => passBlock raw r g.2 g.1
    let w := s.writeBlocks t (bs.map (·.1))
    (w.1, w.2, Flags.all (bs.map (·.2)))
  else
    let es := vals.zipIdx.map fun v => (v.2, passElem t raw v.2 v.1)
    let w := s.writeElems t (es.map fun e => ([e.1, r], e.2.1))
    (w.1, w.2, Flags.all (es.map fun e => e.2.2))

/-- The value of a bag (R192). -/
def pooled (pool width : Nat) (members : List (List Val)) : List Val × Flags :=
  if members.isEmpty then (List.replicate width posZero, {}) else
  let cols := (List.range width).map fun e =>
    let r := seqSum negZero (members.map fun m => m.getD e negZero)
    if pool = 2 then let q := div r.1 (.fin false members.length 0); (q.1, r.2.or q.2) else r
  (cols.map (·.1), Flags.all (cols.map (·.2)))

/-- Writes words of an INT32 tensor from its start. -/
def State.putWords (s : State) (t : Tensor) (ws : List Nat) : Written :=
  let r := s.writeElems t ((t.run 0 ws.length).zip ws)
  (r.1, r.2, {})

/-- Slot and distinct-row outputs (R193). -/
def State.writeSlots (s : State) (G : GatherCtx) (rows : List Nat) : Written :=
  let ds := distinctRows rows
  let a : Written := match G.slot with
    | some t => s.putWords t (rows.map fun r => ds.findIdx (· == r))
    | none => (s, none, {})
  match G.uniq with
  | some t => State.andWrite a fun s => s.putWords t ((ds.length :: ds).flatMap fun r => [r % 2 ^ 32, r / 2 ^ 32])
  | none => a

/-- The value of output row b (R192). -/
def State.bagVals (s : State) (G : GatherCtx) (o : Op) (width : Nat) (bag : List Nat) : List Val × Flags :=
  let rows := bag.map (s.entryVals G o width)
  let fl := Flags.all (rows.flatMap fun r => r.map (·.2))
  let vals := rows.map fun r => r.map (·.1)
  if G.g.pool = 0 then (vals.headD [], fl) else let q := pooled G.g.pool width vals; (q.1, fl.or q.2)

/-- Writes one output row, decoded to FP32 and converted to y's format (R192). -/
def State.gatherRow (s : State) (G : GatherCtx) (o : Op) (y : Tensor) (width b : Nat) (bag : List Nat) : Written :=
  let v := s.bagVals G o width bag
  let raw := if G.g.pool = 0 then s.entryRaw G o width (bag.headD 0) else none
  let s := if bag.isEmpty then s.bump (cnt (Reg.erm 0x9C)) else s
  let r := s.putRow y b raw v.1
  (r.1, r.2.1, v.2.or r.2.2)

/-- Rows of a tensor, along dimension 1, and the length of each. -/
def Tensor.rows (t : Tensor) : Nat := if t.ndim < 2 then 1 else t.size 1
def Tensor.rowLen (t : Tensor) : Nat := t.size 0

/-- The forward batch of a gather layer: output rows, slots, distinct rows. -/
def State.gatherForward (s : State) (G : GatherCtx) (o : Op) : Written :=
  let es := s.entries G
  match G.y, s.bags G.g G.path G.offs es with
  | some y, some bags =>
    let width := match G.x with
      | some x => min x.rowLen y.rowLen
      | none => match s.gatherTable G (o.stamp.getD 0) with
        | some d => min (tWidth d) y.rowLen
        | none => y.rowLen
    let rows := bags.zipIdx.take (y.rows)
    let w := rows.foldl (fun acc b => State.andWrite acc fun s => s.gatherRow G o y width b.2 b.1) (s, none, {})
    if G.g.src = 0 then State.andWrite w fun s => s.writeSlots G (es.map entryRow) else w
  | _, _ => (s, none, {})

/-! ### Gradients and scatter batches (R196 to R200) -/

/-- Rows that are added into a destination tensor: for each source row in ascending position its destination row, and its
values; or, without a destination list, rows written as they come. -/
structure Scat where
  dest  : Tensor
  dests : List Nat
  zero  : Bool := false

/-- The output row whose gradient an index entry takes (R196). -/
def bagOf (bags : List (List Nat)) (i : Nat) : Nat := bags.findIdx fun l => l.contains i

/-- The gradient row of index entry i (R196). -/
def State.gradRow (s : State) (G : GatherCtx) (dy : Tensor) (bags : List (List Nat)) (i : Nat) : List Val × Flags :=
  let b := bagOf bags i
  let n := (bags.getD b []).length
  let row := (List.range dy.rowLen).map fun e => s.elem dy [e, b]
  if G.g.pool = 2 then
    let q := row.map fun v => div v (.fin false n 0)
    (q.map (·.1), Flags.all (q.map (·.2)))
  else (row, {})

/-- The source rows of a batch that starts a list of destinations: at most 512, and no destination takes a 17th addition
(R200). -/
def batchLen (dests : List Nat) : Nat :=
  (List.range (min 512 dests.length)).foldl (fun n i =>
    if n = i ∧ ((dests.take i).filter fun d => d == dests.getD i 0).length < 16 then i + 1 else n) 0

/-- What a gather layer's gradients add into dw: row slot(i). -/
def State.gradScat (s : State) (G : GatherCtx) : Option Scat :=
  match G.dw, G.slot with
  | some dw, some slot =>
    if G.g.src = 0 then some { dest := dw, dests := (List.range (s.entries G).length).map (s.wordOf slot) } else none
  | _, _ => none

/-- d(i) of a scatter layer, for each source row (R197). -/
def State.scatterDests (s : State) (l : Layer) (path : Tensor) (rows : Nat) : List Nat :=
  let hop := l.bits 6 19 16
  if hop = 15 then (List.range (min rows (path.count / 2))).map fun i => entryRow (s.longOf path (2 * i))
  else ((s.column path hop).take rows).map entryParent

def State.layerScat (s : State) (m : Cmd) (p : Program) (l : Layer) : Option Scat :=
  match m.tableTensor p l.path, m.tableTensor p l.x, m.tableTensor p l.y with
  | some path, some x, some y =>
    some { dest := y, dests := s.scatterDests l path x.rows, zero := l.bits 6 29 29 == 1 }
  | _, _, _ => none

/-- +0 into every destination row (R197), all or none. -/
def State.zeroDests (s : State) (c : Scat) : Written :=
  let q := s.writeElems c.dest ((distinctRows c.dests).flatMap fun r => (List.range c.dest.rowLen).map fun e => ([e, r], 0))
  (q.1, q.2, {})

/-- The integer that a source value adds to INT32 (R198); a value the spec states no integer for adds a free word
(assumption 2). -/
def intAdd (v : Val) : Int :=
  match v with
  | .fin n m e =>
    if 0 ≤ e ∨ m % 2 ^ e.natAbs = 0 then (if n then -1 else 1) * (scale m e : Int)
    else (Config.intWord (BitVec.ofNat 32 (encodeIeee fp32 (toFp32 v).1))).toInt
  | _ => (Config.intWord (BitVec.ofNat 32 (encodeIeee fp32 v))).toInt

/-- An element added into a destination (R198). -/
def scatterAdd (fmt old : Nat) (v : Val) : Nat × Flags :=
  if fmt = 7 then wrapInt (signed 32 old + intAdd v)
  else
    let w := toFp32 v
    let r := add (unpack fp32 old) w.1
    (encodeIeee fp32 r.1, w.2.or r.2)

/-- The elements of rows of a destination that a batch adds into. -/
def Scat.cells (c : Scat) (rows : List (Nat × List Val)) : List (List Nat) :=
  (distinctRows (rows.map (·.1))).flatMap fun r => (List.range c.dest.rowLen).map fun e => [e, r]

/-- Adds rows into a destination that is not in the Cellar, in ascending source position. -/
def State.addEach (s : State) (c : Scat) (rows : List (Nat × List Val)) : Written :=
  rows.foldl (fun acc r => State.andWrite acc fun s =>
    let es := (r.2.take c.dest.rowLen).zipIdx.map fun v =>
      let at_ := [v.2, r.1]
      let q := scatterAdd c.dest.fmt (s.elemBits c.dest at_) v.1
      (at_, q)
    let w := s.writeElems c.dest (es.map fun e => (e.1, e.2.1))
    (w.1, w.2, Flags.all (es.map fun e => e.2.2))) (s, none, {})

/-- Adds a batch of rows into such a destination, whose words are read and checked first (R45, R473). -/
def State.addRows (s : State) (c : Scat) (rows : List (Nat × List Val)) : Written :=
  let r := s.touchElems c.dest (c.cells rows)
  State.andWrite (r.1, r.2, {}) fun s => s.addEach c rows

/-- The word a near-memory add leaves alone: −0, or the integer 0. -/
def addIdentity (isInt : Bool) : W := if isInt then 0 else 0x80000000

/-- The word that a source value adds, with what its forming flags (R70): cut to 32 bits, or rounded to FP32. -/
def addWord (isInt : Bool) (v : Val) : W × Flags :=
  if isInt then let q := wrapInt (intAdd v); (BitVec.ofNat 32 q.1, q.2)
  else let q := toFp32 v; (BitVec.ofNat 32 (encodeIeee fp32 q.1), q.2)

/-- The request words for the lines of one row: each line's address and 16 words (R201), with the flags of forming them. -/
def State.rowAdds (s : State) (c : Scat) (row : Nat) (vals : List Val) : List (Nat × List W) × Flags :=
  let isInt := c.dest.fmt == 7
  let cells := (vals.take c.dest.rowLen).zipIdx.map fun v => (s.elemAddr c.dest [v.2, row], addWord isInt v.1)
  ((distinctRows (cells.map fun q => q.1 / 64)).map fun line =>
    (line * 64, (List.range 16).map fun k =>
      match cells.find? fun q => q.1 == line * 64 + 4 * k with
      | some q => q.2.1
      | none => addIdentity isInt), Flags.all (cells.map fun q => q.2.2))

/-- Sends the add requests of a batch, in ascending source position (R201). -/
def State.sendAdds (s : State) (cmd : CmdId) (op : Nat) (c : Scat) (rows : List (Nat × List Val)) : State :=
  let lines : List (List (Nat × List W) × Flags) := rows.map fun r => s.rowAdds c r.1 r.2
  let reqs := lines.flatMap fun l => l.1.map fun q =>
    ({ cmd := cmd, op := op, addr := q.1, isInt := c.dest.fmt == 7, vals := q.2 } : AddReq)
  let s := s.addFlags cmd (Flags.all (lines.map fun l => l.2))
  { s with erm := { s.erm with adds := s.erm.adds ++ reqs } }

/-- Stores a line with the uncorrectable-data marker (R45, R201). -/
def State.markLine (s : State) (addr : Nat) : State := s.setErr (memKey 3 addr) 5

/-- The unit of a stack applies the request that came first to its line: the codes of the request and of the stored line, the
16 additions, the compare of the two adders. -/
def nearMemoryAdd (c : CmdId) (addr : Nat) (isInt : Bool) (vals : List W) (check : AddCheck) (s : State) : State :=
  match s.erm.adds.find? fun a => a.addr == addr with
  | none => s
  | some a =>
    if a.cmd ≠ c ∨ a.isInt ≠ isInt ∨ a.vals ≠ vals then s else
    let s := { s with erm := { s.erm with adds := s.erm.adds.erase a } }
    let r := s.touch 3 addr 64
    if r.2.isSome || check != .good then (r.1.markLine addr).failOp c a.op (uncorrAt 3 addr)
    else
      let old := r.1.peekWords 3 addr 16
      let sums := List.zipWith (fun (o v : W) =>
        if isInt then wrapInt (signed 32 o.toNat + signed 32 v.toNat)
        else let q := add (of32 o) (of32 v); (encodeIeee fp32 q.1, q.2)) old vals
      ((r.1.put 3 addr (sums.flatMap fun q => leBytes 4 q.1)).addFlags c (Flags.all (sums.map (·.2))))

def execNearMemoryAdd (c : CmdId) (addr : Nat) (isInt : Bool) (vals : List W) (check : AddCheck) (s : State) :
    Host.Outcome State Fault Refusal := fin (s.onSpent c (nearMemoryAdd c addr isInt vals check))

/-- Gradient rows written to dx (R196, src 1), converted under R56. -/
def State.gradRows (s : State) (G : GatherCtx) : Written :=
  match G.dx, G.dy, s.bags G.g G.path G.offs (s.entries G) with
  | some dx, some dy, some bags =>
    (List.range (min dx.rows (s.entries G).length)).foldl (fun acc i => State.andWrite acc fun s =>
      let g := s.gradRow G dy bags i
      let raw := if G.g.pool = 2 then none else some (s.rawRow dy (min dx.rowLen dy.rowLen) (bagOf bags i))
      let r := s.putRow dx i raw (g.1.take dx.rowLen)
      (r.1, r.2.1, g.2.or r.2.2)) (s, none, {})
  | _, _, _ => (s, none, {})

/-- The backward walk of a scatter layer: dx row i receives dy row d(i), converted under R56 (R197). -/
def State.scatterBack (s : State) (dx dy : Tensor) (dests : List Nat) : Written :=
  dests.zipIdx.foldl (fun acc d => State.andWrite acc fun s =>
    let n := min dx.rowLen dy.rowLen
    s.putRow dx d.2 (some (s.rawRow dy n d.1)) ((List.range n).map fun e => s.elem dy [e, d.1])) (s, none, {})

/-! ### Gather Engines (R24, R199) -/

/-- The Gather Engines of the enabled galleries of some Halls: the first tile of each gallery, ascending. -/
def State.engines (s : State) (halls : Nat) : List Nat :=
  (hallsOf halls).flatMap fun h => (List.range s.galleries).map fun g => 640 * h + 32 * g

/-- The engine that carries out a layer's walk where no rule designates one (assumption 22). -/
def State.walkEngine (s : State) (halls pos : Nat) : Nat :=
  let es := s.engines halls
  es.getD (pos % max 1 es.length) 0

/-- The designated engine of destination row r: of the gallery that holds the row, or of gallery r mod G (R199). A row of the
Attic belongs to no gallery (assumption 22). -/
def State.destEngine (s : State) (t : Tensor) (halls r : Nat) : Nat :=
  let a := s.elemAddr t [0, r]
  match t.tier with
  | 0 => a / 2 ^ 18 / 32 * 32
  | 1 => a / 2 ^ 16 / 32 * 32
  | 2 => 640 * hallOf 2 a + 32 * (r % s.galleries)
  | _ => s.walkEngine halls r

/-- The engines that a destination designates, ascending. -/
def State.destEngines (s : State) (t : Tensor) (halls : Nat) : List Nat :=
  if 3 ≤ t.tier then s.engines halls else sortNat ((List.range t.rows).map (s.destEngine t halls)).dedup

/-- The rows of a destination that an engine applies. -/
def State.rowsAt (s : State) (t : Tensor) (halls engine : Nat) : List Nat :=
  (List.range t.rows).filter fun r => s.destEngine t halls r == engine

/-! ### Rows from other packages (R195, R244) -/

/-- A requested row record arrives; an empty record is a read that failed there (assumption 32). -/
def remoteRow (p : Pkt) (s : State) : State :=
  let s := s.unbox p
  match p.body with
  | .rowResp _ row op entry fmt known bs =>
    let c : CmdId := ⟨p.ring, p.seq⟩
    match s.op c op with
    | none => s
    | some (_, o) =>
      if o.stage ≠ .waiting ∨ o.has row = true then s
      else if !known then s.failOp c op (oor 6)
      else if bs.isEmpty then s.failOp c op (if fmt = 3 then badFormat 6 5 else uncorrAt 3 0)
      else s.mapOp c op (addGot { entry := entry, row := row, fmt := fmt, bytes := bs })
  | _ => s

end Sys2Proof.Machine
end

