-- ==== Sys2Proof/Machine/Contribute.lean ====
section
/-! DEFINITION. Contribution layers (R386 to R393): their words and checks, the gradient they send, low-rank factors, and
the packets of a contribution. -/

namespace Sys2Proof.Machine

open Fp

/-- Words 6 to 12 of a contribution layer (R386). -/
structure CSpec where
  ctype  : Nat
  rlog   : Nat
  perMb  : Bool
  mbs    : Nat
  sendAt : Nat
  owner  : Nat
  shard  : Nat
  mbuf   : Nat
  ef     : Nat
  uniq   : Nat
  handle : Nat
deriving DecidableEq, Repr

def cspec (l : Layer) : CSpec :=
  { ctype := l.bits 6 31 30, rlog := l.bits 6 29 27, perMb := l.bits 6 26 26 == 1, mbs := l.bits 6 15 0,
    sendAt := l.bits 7 31 16, owner := l.bits 7 15 0, shard := wordAt l.words 8,
    mbuf := wordAt l.words 9 + 2 ^ 32 * wordAt l.words 10, ef := l.bits 11 31 16, uniq := l.bits 11 15 0,
    handle := l.bits 12 7 0 }

/-- The conditions of R387 that the descriptor alone shows; a field that R386 fixes outside its ctype counts as reserved
there. -/
def contribOk (l : Layer) (tensors : Nat) : Bool :=
  let c := cspec l
  let has := fun (i : Nat) => i != noTensor
  l.bits 6 25 16 == 0 && l.bits 12 31 8 == 0 && ((List.range 3).all fun i => wordAt l.words (13 + i) == 0) &&
    decide (c.ctype < 3) && [c.ef, c.uniq].all (fun i => i == noTensor || decide (i < tensors)) && !l.fwd && l.bwd &&
    (if c.ctype = 1 then !c.perMb && decide (3 ≤ c.rlog) && has c.ef && c.mbuf != 0
     else c.rlog == 0 && !has c.ef && c.mbuf == 0) &&
    (if c.ctype = 2 then c.perMb && has c.uniq && c.owner == 0xFFFF else !has c.uniq) &&
    c.mbs != 0 && decide (c.sendAt < c.mbs)

/-- The gradient tensor of a Hall (R280): only memory on a tile is displaced. -/
def hallDw (t : Tensor) (h : Nat) : Tensor := if t.tier = 1 then dwOn t h else t

def State.contribCheck (s : State) (m : Cmd) (w : Nat) (p : Program) (l : Layer) : Except Status Unit := do
  let c := cspec l
  need (contribOk l p.tensors) (badDesc l.at_)
  for i in [l.x, l.w, l.y, l.saved, l.dy, l.dx, l.dw, l.path, c.ef, c.uniq] do
    if i = noTensor then pure () else do
      let _ ← s.layerTensor m w p i
      pure ()
  let t := m.tableTensor p
  needFmt w [(t c.ef, fun t => t.fmt == 1), (t l.dw, fun t => t.fmt == 0), (t c.uniq, fun t => t.fmt == 7)]
  needShape [(t c.ef, fun e => opt (t l.dw) fun d => e.ndim == d.ndim && e.sizes == d.sizes)]
  need (c.ctype == 2 || opt (t l.dw) fun d => d.tier != 1 || (hallsOf l.halls).all (s.dwFits d)) (oor w)
  need (c.ctype != 2 || (s.openFor m c.handle).isSome) (oor w)

/-- A contribution layer acts in the backward walk of a micro-batch (R388). -/
def CSpec.acts (c : CSpec) (mb : Nat) : Bool := c.perMb || mb % c.mbs == c.sendAt

/-- The step of a walk (R386). -/
def CSpec.step (c : CSpec) (mb : Nat) : Nat := mb / c.mbs

/-- The rank of a contribution. -/
def State.rankOf (s : State) (c : CSpec) (mb : Nat) : Nat := if c.perMb then mb else s.fld F.redRank

/-! ### Sketch and factors (R391, R392) -/

/-- The key of a shard's sketch in a step. -/
def sketchKey (seed : BitVec 64) (step shard : Nat) : BitVec 64 :=
  mix (mix (seed ^^^ BitVec.ofNat 64 step) ^^^ BitVec.ofNat 64 shard)

/-- Whether entry (n, j) of the sketch is −1. -/
def sketchNeg (key : BitVec 64) (r n j : Nat) : Bool := (mix (key + BitVec.ofNat 64 (n * r + j) * golden)).msb

/-- A value times an entry of the sketch, exactly. -/
def timesQ (key : BitVec 64) (r n j : Nat) (v : Val) : Val :=
  (mulExact v (if sketchNeg key r n j then neg one else one)).1

/-- Row i of the factor: the products over n in the order of R63. -/
def factorRow (key : BitVec 64) (r : Nat) (m : List Val) : List (Val × Flags) :=
  (List.range r).map fun j => sumFrom negZero (m.zipIdx.map fun q => timesQ key r q.2 j q.1)

/-- Row i of the product of a factor and the transposed sketch, over j in the order of R63. -/
def unfactorRow (key : BitVec 64) (r ns : Nat) (p : List Val) : List (Val × Flags) :=
  (List.range ns).map fun n => sumFrom negZero (p.zipIdx.map fun q => timesQ key r n q.2 q.1)

/-! ### Packets (R389, R428) -/

/-- Elements a packet carries. -/
def partElems : Nat := 512

/-- A contribution packet; the end marker is fenced (R449). -/
def State.contribPkt (s : State) (m : Cmd) (dst step shard rank len : Nat) (part : Part) : Pkt :=
  { type := .write, cls := 2, phase := 1, epoch := s.fld F.rtActive, len := len, dst := dst, src := s.pkg, via := dst,
    fence := (match part with
      | .fin _ => true
      | _ => false)
    job := m.job, ring := m.id.ring, seq := m.id.seq, sink := 1, body := .contrib step shard rank part }

/-- Lists of at most 512 elements with the place of their first. -/
def slices : Nat → Nat → List W → List (Nat × List W)
  | 0, _, _ => []
  | n + 1, off, l => match l with
    | [] => []
    | _ => (off, l.take partElems) :: slices n (off + partElems) (l.drop partElems)

def slicesOf (l : List W) : List (Nat × List W) := slices (l.length / partElems + 1) 0 l

def payload (l : List W) : Nat := upDiv (4 * l.length) 16 * 16

/-- The packets of dense elements with their end marker. -/
def State.denseParts (s : State) (m : Cmd) (dst step shard rank : Nat) (l : List W) : List Pkt :=
  (slicesOf l).map (fun q => s.contribPkt m dst step shard rank (payload q.2) (.elems q.1 q.2)) ++
    [s.contribPkt m dst step shard rank 16 (.fin l.length)]

/-! ### What the layer does -/

/-- Reads whole tensors. -/
def State.touchAll (s : State) : List Tensor → State × Option (Nat × Nat)
  | [] => (s, none)
  | t :: ts =>
    let r := s.touchElems t (t.run 0 t.count)
    match r.2 with
    | some x => (r.1, some x)
    | none => r.1.touchAll ts

/-- G: the sum over the Halls, ascending, from −0 (R388). -/
def State.gradient (s : State) (t : Tensor) (halls : List Nat) : List (Val × Flags) :=
  (t.run 0 t.count).map fun e => seqSum negZero (halls.map fun h => s.elem (hallDw t h) e)

/-- −0 into every element of each Hall's dw. -/
def State.clearDw (s : State) (t : Tensor) (halls : List Nat) : Written :=
  halls.foldl (fun acc h => State.andWrite acc fun s => s.startDw (hallDw t h)) (s, none, {})

/-- A dense contribution (ctype 0). -/
def State.sendDense (s : State) (m : Cmd) (c : CSpec) (mb : Nat) (t : Tensor) (halls : List Nat) : Written :=
  let g := s.gradient t halls
  let s := s.sendAll (s.denseParts m c.owner (c.step mb) c.shard (s.rankOf c mb) (g.map fun v => bits32 v.1))
  let r := s.clearDw t halls
  (r.1, r.2.1, (Flags.all (g.map (·.2))).or r.2.2)

/-- A low-rank contribution (ctype 1): m and p to the factor buffer, p to the owner, the pending update recorded
(R392, R393). -/
def State.sendFactor (s : State) (m : Cmd) (p : Program) (c : CSpec) (mb : Nat) (t ef : Tensor) (halls : List Nat) :
    Written :=
  let ks := t.dim 1
  let ns := t.dim 0
  let r := 2 ^ c.rlog
  let key := sketchKey s.seed (c.step mb) c.shard
  let g := s.gradient t halls
  let sums := List.zipWith (fun (v : Val × Flags) e => let a := add v.1 (s.elem ef e); (a.1, v.2.or a.2)) g
    (ef.run 0 ef.count)
  let ps := (List.range ks).flatMap fun i => factorRow key r (((sums.drop (i * ns)).take ns).map (·.1))
  let fl := (Flags.all (sums.map (·.2))).or (Flags.all (ps.map (·.2)))
  let mw := sums.map fun v => bits32 v.1
  let pw := ps.map fun v => bits32 v.1
  let w := s.write 3 c.mbuf (wordBytes (mw ++ pw))
  match w.2 with
  | some a => (w.1, some (3, a), fl)
  | none =>
    let s := w.1.sendAll (w.1.denseParts m c.owner (c.step mb) c.shard (w.1.rankOf c mb) pw)
    let efWords := match m.capBytes p.table.code (p.table.addr + 64 * c.ef) 64 with
      | some b => bytesWords 16 b.1
      | none => []
    let e : EfRec := { job := m.job, step := c.step mb, shard := c.shard, ef := efWords, mbuf := c.mbuf, rlog := c.rlog,
                       ks := ks, ns := ns, seed := s.seed }
    let s := if s.isPoisoned m.job (c.step mb) then s else { s with red := { s.red with efs := s.red.efs ++ [e] } }
    let z := s.clearDw t halls
    (z.1, z.2.1, fl.or z.2.2)

/-- The packages a table's shard map names (R389). -/
def State.mapPackages (s : State) (d : List W) : List Nat :=
  if tMap d = 0 then [s.pkg] else ((List.range (tMapLen d)).map (s.mapEntry d)).dedup

/-- The rows a distinct-row tensor names (R193), as far as the staging tensor holds them. -/
def State.stagedRows (s : State) (uniq t : Tensor) : List Nat :=
  (List.range (min (s.longOf uniq 0) t.rows)).map fun i => s.longOf uniq (2 + 2 * i)

/-- A contribution of embedding rows (ctype 2). -/
def State.sendRows (s : State) (m : Cmd) (c : CSpec) (mb : Nat) (t uniq : Tensor) : Written :=
  match s.handle c.handle with
  | none => (s, none, {})
  | some h =>
    let d := (s.mainOf h).desc
    let map_ := s.touchMap d
    if let some a := map_.2 then (map_.1, some (3, a), {}) else
    let s := map_.1
    let rows := s.stagedRows uniq t
    let at_ := fun (dst : Nat) => rows.zipIdx.filter fun q => s.rowOwner d q.1 == dst
    let rowOf := fun (i : Nat) => (List.range (min (tWidth d) t.rowLen)).map fun e => BitVec.ofNat 32 (s.elemBits t [e, i])
    let pkt := s.contribPkt m
    let ps := (s.mapPackages d).flatMap fun dst =>
      ((at_ dst).flatMap fun q => (slicesOf (rowOf q.2)).map fun k =>
        pkt dst (c.step mb) c.shard (s.rankOf c mb) (payload k.2) (.row q.1 k.1 k.2)) ++
      [pkt dst (c.step mb) c.shard (s.rankOf c mb) 16 (.fin (at_ dst).length)]
    let s := s.sendAll ps
    rows.zipIdx.foldl (fun acc q => State.andWrite acc fun s =>
      let r := s.writeElems t ((List.range t.rowLen).map fun e => ([e, q.2], encodeIeee fp32 negZero))
      (r.1, r.2, {})) (s, none, {})

/-- The tensors a contribution layer reads. -/
def contribReads (t : Nat → Option Tensor) (l : Layer) : List Tensor :=
  let c := cspec l
  (match t l.dw with
    | some d => if c.ctype = 2 then [d] else (hallsOf l.halls).map (hallDw d)
    | none => []) ++ (t c.ef).toList ++ (t c.uniq).toList

/-- A contribution layer's work in the backward walk of a micro-batch. -/
def State.contribute (s : State) (m : Cmd) (p : Program) (l : Layer) (mb : Nat) : Written :=
  let c := cspec l
  let t := m.tableTensor p
  let r := s.touchAll (contribReads t l)
  match r.2 with
  | some x => (r.1, some x, {})
  | none =>
    match c.ctype, t l.dw, t c.ef, t c.uniq with
    | 0, some d, _, _ => r.1.sendDense m c mb d (hallsOf l.halls)
    | 1, some d, some e, _ => r.1.sendFactor m p c mb d e (hallsOf l.halls)
    | 2, some d, _, some u => r.1.sendRows m c mb d u
    | _, _, _, _ => (r.1, none, {})

end Sys2Proof.Machine
end

