-- ==== Sys2Proof/Machine/Reduce.lean ====
section
/-! DEFINITION. The Reduction Engine before the commit (R395 to R401): shard descriptors and hyperparameters, buffered
contributions and their order, the sum, the reduced gradient, the new values of the update rules (R410), and the digests
of twin mode (R481, R482). -/

namespace Sys2Proof.Machine

open Fp

/-! ### Descriptors (R400, R401) -/

def sRule (d : List W) : Nat := wbits d 0 25 24
def sRlog (d : List W) : Nat := wbits d 0 23 21
def sPerMb (d : List W) : Bool := wbits d 0 20 20 == 1
def sN (d : List W) : Nat := wbits d 0 15 0
def sShard (d : List W) : Nat := wordAt d 1
def sHandle (d : List W) : Nat := wbits d 3 7 0
def sMaster (d : List W) : Nat := wide d 4
def sMom (d : List W) : Nat := wide d 6
def sWork (d : List W) : Nat := wide d 8
def sRed (d : List W) : Nat := wide d 10
def sGroup (d : List W) : Nat := wbits d 12 31 16

/-- Elements of the sum of a dense shard: the parameters, or the factor of ctype 1. -/
def sSum (d : List W) : Nat := if sCtype d = 1 then sRows d * 2 ^ sRlog d else sParams d

/-- The shard descriptors of a COMMIT, as captured. -/
def Cmd.shards (m : Cmd) : List (List W) :=
  let n := m.bits 6 12 0
  let ws := m.capAt (m.ptr 4) (64 * n)
  (List.range n).map fun i => (ws.drop (16 * i)).take 16

def Cmd.shard (m : Cmd) (pos : Nat) : List W := m.shards.getD pos []

/-- Word i of the hyperparameter block as FP32: 1 lr, 2 mu, 3 b1, 4 c1, 5 b2, 6 c2, 7 k1, 8 k2, 9 eps, 10 wd, 11 scale. -/
def Cmd.hp (m : Cmd) (i : Nat) : Val := of32 ((m.capAt (m.ptr 7) 64).getD i 0)

def Cmd.step (m : Cmd) : Nat := m.word 9

/-- The lowest expected rank of a shard (R395). -/
def Cmd.rank0 (m : Cmd) (d : List W) : Nat := if sPerMb d then m.word 10 else 0

/-! ### Runs -/

def isRun (job step shard : Nat) (r : ShardRun) : Bool := r.job == job && r.step == step && r.shard == shard

def State.run? (s : State) (job step shard : Nat) : Option ShardRun := s.red.shards.find? (isRun job step shard)

def State.mapRun (s : State) (r : ShardRun) (f : ShardRun → ShardRun) : State :=
  { s with red := { s.red with shards := s.red.shards.map fun q => if isRun r.job r.step r.shard q then f q else q } }

/-- The runs of a COMMIT. -/
def State.runsOf (s : State) (c : CmdId) : List ShardRun := s.red.shards.filter fun r => decide (r.cmd = c)

/-- nf_policy in force (R397, R416). -/
def State.policy (s : State) : Nat := if s.attested || s.fld F.nfPolicy == 3 then 0 else s.fld F.nfPolicy

/-! ### The reduced gradient (R398) -/

def State.sumAt (s : State) (d : List W) (i : Nat) : Val := of32 (BitVec.ofNat 32 (s.word 3 (sRed d + 4 * i)))

/-- g of parameter i of a dense shard, its sketch from a generator seed. -/
def State.gradAt (s : State) (seed : BitVec 64) (m : Cmd) (d : List W) (i : Nat) : Val × Flags :=
  if sCtype d = 1 then
    let r := 2 ^ sRlog d
    let key := sketchKey seed m.step (sShard d)
    let row := (List.range r).map fun j => timesQ key r (i % sCols d) j (s.sumAt d (i / sCols d * r + j))
    let t := sumFrom negZero row
    let a := mul t.1 (.fin false 1 (-(sRlog d : Int)))
    let b := mul a.1 (m.hp 11)
    (b.1, (t.2.or a.2).or b.2)
  else mul (s.sumAt d i) (m.hp 11)

/-! ### The dense update rules (R410) -/

/-- New values of one parameter: master, first and second moment, working copy. -/
structure NewVal where
  w    : Val
  m    : Val
  v    : Val
  work : Nat
  fl   : Flags
deriving DecidableEq, Repr

def sgdStep (hp : Nat → Val) (g w m v : Val) : NewVal :=
  let m' := fma (hp 2) m g
  let p := mul (hp 1) m'.1
  let w' := sub w p.1
  let k := convert 1 .nearest w'.1
  ⟨w'.1, m'.1, v, k.1, Flags.all [m'.2, p.2, w'.2, k.2]⟩

def adamStep (hp : Nat → Val) (g w m v : Val) : NewVal :=
  let a := mul (hp 4) g
  let m' := fma (hp 3) m a.1
  let gg := mul g g
  let b := mul (hp 6) gg.1
  let v' := fma (hp 5) v b.1
  let num := mul m'.1 (hp 7)
  let vk := mul v'.1 (hp 8)
  let rt := sqrt vk.1
  let den := add rt.1 (hp 9)
  let u := div num.1 den.1
  let t := fma (hp 10) w u.1
  let p := mul (hp 1) t.1
  let w' := sub w p.1
  let k := convert 1 .nearest w'.1
  ⟨w'.1, m'.1, v'.1, k.1, Flags.all [a.2, m'.2, gg.2, b.2, v'.2, num.2, vk.2, rt.2, den.2, u.2, t.2, p.2, w'.2, k.2]⟩

def newVal (rule : Nat) (hp : Nat → Val) (g w m v : Val) : NewVal :=
  if rule = 0 then sgdStep hp g w m v else adamStep hp g w m v

/-- Parameters of segment j: the first and how many. -/
def segParams (d : List W) (j : Nat) : Nat × Nat := (4096 * j, min 4096 (sParams d - 4096 * j))

def denseSegs (d : List W) : Nat := upDiv (sParams d) 4096

/-- The values of an FP32 array from an element on. -/
def State.vals32 (s : State) (addr n : Nat) : List Val := (s.peekWords 3 addr n).map of32

/-- The new values of a dense segment, from the old values and g. -/
def State.newDense (s : State) (seed : BitVec 64) (m : Cmd) (d : List W) (j : Nat) : List NewVal :=
  let q := segParams d j
  let ws := s.vals32 (sMaster d + 4 * q.1) q.2
  let ms := s.vals32 (sMom d + 4 * q.1) q.2
  let vs := s.vals32 (sMom d + 4 * (sParams d + q.1)) q.2
  (List.range q.2).map fun i =>
    let g := s.gradAt seed m d (q.1 + i)
    let n := newVal (sRule d) m.hp g.1 (ws.getD i posZero) (ms.getD i posZero) (vs.getD i posZero)
    { n with fl := n.fl.or g.2 }

/-- The ranges that a dense segment reads: sum, master, moments. -/
def segReads (d : List W) (j : Nat) : List (Nat × Nat × Nat) :=
  let q := segParams d j
  let sum := if sCtype d = 1 then
      let r := 4 * 2 ^ sRlog d
      (3, sRed d + q.1 / sCols d * r, ((q.1 + q.2 - 1) / sCols d - q.1 / sCols d + 1) * r)
    else (3, sRed d + 4 * q.1, 4 * q.2)
  [sum, (3, sMaster d + 4 * q.1, 4 * q.2), (3, sMom d + 4 * q.1, 4 * q.2), (3, sMom d + 4 * (sParams d + q.1), 4 * q.2)]

/-- Whether new values hold a NaN or an infinity. -/
def newBad (l : List NewVal) : Bool :=
  l.any fun n => !(isFinite n.w && isFinite n.m && isFinite n.v && isFinite (decode 1 n.work 0))

def fp32Bytes (l : List Val) : List Byte := wordBytes (l.map bits32)

/-- The bytes of a dense segment's new values, as the apply slot and the digests take them (R410, R481). -/
def denseBytes (l : List NewVal) : List Byte :=
  fp32Bytes (l.map (·.w)) ++ fp32Bytes (l.map (·.m)) ++ fp32Bytes (l.map (·.v)) ++ l.flatMap fun n => leBytes 2 n.work

/-! ### The row-wise rule (R410) -/

/-- A row's elements and accumulator after the rule. -/
structure NewRow where
  vals : List Val
  acc  : Val
  fl   : Flags
deriving DecidableEq, Repr

def rowStep (width : Nat) (hp : Nat → Val) (g w : List Val) (acc : Val) : NewRow :=
  let sq := g.map fun x => mul x x
  let q := sumFrom negZero (sq.map (·.1))
  let a := div q.1 (.fin false width 0)
  let acc' := add acc a.1
  let rt := sqrt acc'.1
  let den := add rt.1 (hp 9)
  let sc := div (hp 1) den.1
  let out := List.zipWith (fun wi gi => let p := mul sc.1 gi; let x := sub wi p.1; (x.1, p.2.or x.2)) w g
  ⟨out.map (·.1), acc'.1,
    Flags.all ([q.2, a.2, acc'.2, rt.2, den.2, sc.2, Flags.all (sq.map (·.2)), Flags.all (out.map (·.2))])⟩

/-- g of a row-table entry. -/
def rowGrad (m : Cmd) (sum : List W) : List (Val × Flags) := sum.map fun x => mul (of32 x) (m.hp 11)

/-- The descriptor of the table of an embedding shard: its main handle's version in force. -/
def State.shardTable (s : State) (d : List W) : Option (List W) := (s.handle (sHandle d)).map (·.desc)

/-- The elements and accumulator of a row, or none where they are on their way from another package: a row that has moved
there (loc 4) is read as R195 reads one. -/
def State.oldRow (s : State) (t : List W) (row : Nat) (got : List Fetched) :
    State × Except Status (Option (List Val × Val)) :=
  let r := s.readRow t row 4
  match r.2 with
  | .error st => (r.1, .error st)
  | .ok (e, bs) =>
    let rec? := if e.loc = 4 then (got.find? fun f => f.row == row).map fun f => (f.fmt, f.bytes) else some (e.fmt, bs)
    match rec? with
    | none => (r.1, .ok none)
    | some (_, []) => (r.1, .error (uncorrAt 3 0))
    | some (fmt, bs) => (r.1, .ok (some (rowVals (tWidth t) fmt bs, unpack fp32 (rowAcc t fmt bs))))

/-- The new values of a row-table entry. -/
def newRow (m : Cmd) (t : List W) (sum : List W) (old : List Val × Val) : NewRow :=
  let g := rowGrad m sum
  let n := rowStep (tWidth t) m.hp (g.map (·.1)) old.1 old.2
  { n with fl := n.fl.or (Flags.all (g.map (·.2))) }

/-- The bytes of a row-table entry's new values. -/
def rowBytes (row : Nat) (n : NewRow) : List Byte := leBytes 8 row ++ fp32Bytes n.vals ++ fp32Bytes [n.acc]

/-- Asks another package for the record of a row that has moved there; entry 0xFFFFFFFF names the shard's run. -/
def State.askRow (s : State) (m : Cmd) (d t : List W) (row : Nat) : State :=
  let e := s.dir t row
  if e.loc ≠ 4 then s else
  let dst := e.addr16 % 2 ^ 16
  s.send { type := .request, cls := 2, phase := 1, dst := dst, src := s.pkg, via := dst, job := m.job, ring := m.id.ring,
           seq := m.id.seq, sink := 2, body := .rowReq (sHandle d) row s.tb.stime (sShard d) 0xFFFFFFFF }

/-! ### Digests (R481) -/

/-- The bytes of every new value of a shard, in the order of R481, and the flags of forming them; none while a row is on its way,
or unreadable. -/
def State.trialBytes (s : State) (m : Cmd) (d : List W) (r : ShardRun) : State × Option (List Byte × Flags) :=
  if sCtype d = 2 then
    match s.shardTable d with
    | none => (s, none)
    | some t => r.rows.foldl (fun (acc : State × Option (List Byte × Flags)) e =>
        match acc.2 with
        | none => acc
        | some bs =>
          let o := acc.1.oldRow t e.1 r.got
          match o.2 with
          | .ok (some old) => let n := newRow m t e.2 old; (o.1, some (bs.1 ++ rowBytes e.1 n, bs.2.or n.fl))
          | _ => (o.1, none)) (s, some ([], {}))
  else (List.range (denseSegs d)).foldl (fun (acc : State × Option (List Byte × Flags)) j =>
    match acc.2 with
    | none => acc
    | some bs =>
      let t := acc.1.touches (segReads d j)
      if t.2.isSome then (t.1, none) else
      let new := t.1.newDense s.seed m d j
      (t.1, some (bs.1 ++ denseBytes new, bs.2.or (Flags.all (new.map (·.fl)))))) (s, some ([], {}))

/-! ### Checks of the sum and the new values (R397) -/

/-- The sum of a shard holds a NaN or an infinity. -/
def State.sumBad (s : State) (d : List W) (r : ShardRun) : Bool :=
  if sCtype d = 2 then r.rows.any fun e => e.2.any fun x => !isFinite (of32 x)
  else (List.range (sSum d)).any fun i => !isFinite (s.sumAt d i)

/-- New values that are not finite, and the flags of forming them (R70). A segment with data that cannot be read is left to its
apply (R412, assumption 64). -/
def State.newFails (s : State) (m : Cmd) (d : List W) (r : ShardRun) : State × Bool × Flags :=
  if sCtype d = 2 then
    match s.shardTable d with
    | none => (s, false, {})
    | some t =>
      if !tEmbed t then (s, false, {}) else
      r.rows.foldl (fun (acc : State × Bool × Flags) e =>
        let o := acc.1.oldRow t e.1 r.got
        match o.2 with
        | .ok (some old) =>
          let n := newRow m t e.2 old
          (o.1, acc.2.1 || !(n.vals.all isFinite && isFinite n.acc), acc.2.2.or n.fl)
        | .ok none => (o.1, acc.2)
        | .error _ => acc) (s, false, {})
  else (List.range (denseSegs d)).foldl (fun (acc : State × Bool × Flags) j =>
    let t := acc.1.touches (segReads d j)
    if t.2.isSome then acc else
    let new := t.1.newDense s.seed m d j
    (t.1, acc.2.1 || newBad new, acc.2.2.or (Flags.all (new.map (·.fl))))) (s, false, {})

/-- Forms the new values of a shard, which its COMMIT counts in its flags, and poisons the step where one is not finite
(R70, R397). -/
def State.checkNew (s : State) (m : Cmd) (d : List W) (r : ShardRun) : State :=
  let f := s.newFails m d r
  let s := f.1.addFlags m.id f.2.2
  if f.2.1 then s.raisePoison r.job r.step 1 else s

/-- Every rank has been added: rows elsewhere are asked for, and sum and new values are checked. -/
def State.formShard (s : State) (m : Cmd) (d : List W) (r : ShardRun) : State :=
  let s := s.mapRun r fun q => { q with formed := true }
  let s : State := match sCtype d, s.shardTable d with
    | 2, some t => r.rows.foldl (fun s e => s.askRow m d t e.1) s
    | _, _ => s
  if s.policy = 2 then s
  else if s.sumBad d r then s.raisePoison r.job r.step 1
  else s.checkNew m d r

/-! ### Buffered contributions (R396) -/

/-- RED.BUF_BASE, and RED.BUF_SIZE in bytes. -/
def State.bufferBase (s : State) : Nat := s.reg64 (Reg.red 0x10) (Reg.red 0x14)
def State.bufferSize (s : State) : Nat := 4096 * (s.reg (Reg.red 0x18)).toNat

/-- The elements a part carries; an end marker has none. -/
def partVals : Part → List W
  | .elems _ vs => vs
  | .row _ _ vs => vs
  | .fin _ => []

def partWith (vs : List W) : Part → Part
  | .elems o _ => .elems o vs
  | .row r o _ => .row r o vs
  | .fin n => .fin n

/-- Buffer bytes of a part. -/
def partBytes (p : Part) : Nat := payload (partVals p)

/-- Bytes of the region that parts take, each with its end. -/
def State.takenPlaces (s : State) : List (Nat × Nat) :=
  s.red.parts.filterMap fun q => q.place.map fun a => (a, a + partBytes q.part)

/-- The lowest place of the region that has room for n bytes; the layout of the region is the device's (assumption 84). -/
def State.partPlace (s : State) (n : Nat) : Option Nat :=
  let taken := s.takenPlaces
  let fits := fun (a : Nat) => decide (a + n ≤ s.bufferSize) && taken.all fun t => decide (t.2 ≤ a) || decide (a + n ≤ t.1)
  (sortNat (0 :: taken.map (·.2))).find? fits

/-- Buffers a part: its elements go to their place in the region. -/
def State.bufferPart (s : State) (q : PartRec) : State :=
  let a := s.partPlace (partBytes q.part)
  let s := match a with
    | some o => s.put 3 (s.bufferBase + o) (wordBytes (partVals q.part))
    | none => s
  { s with red := { s.red with parts := s.red.parts ++ [{ q with place := a }] } }

/-- A part with its elements as the region holds them now. -/
def State.partNow (s : State) (q : PartRec) : Part :=
  match q.place with
  | some o => partWith (s.peekWords 3 (s.bufferBase + o) (partVals q.part).length) q.part
  | none => q.part

/-- The reads of parts from the region (R45). -/
def State.partReads (s : State) (qs : List PartRec) : List (Nat × Nat × Nat) :=
  qs.filterMap fun q => q.place.map fun o => (3, s.bufferBase + o, 4 * (partVals q.part).length)

def partOf (job step shard rank : Nat) (p : PartRec) : Bool :=
  p.job == job && p.step == step && p.shard == shard && p.rank == rank

/-- Two parts that carry the same thing. -/
def samePart : Part → Part → Bool
  | .elems a _, .elems b _ => a == b
  | .row a i _, .row b j _ => a == b && i == j
  | .fin _, .fin _ => true
  | _, _ => false

/-- Joins the slices of a vector by their offsets. -/
def joinAt (l : List (Nat × List W)) : List W := (sortBy (fun a b => decide (a.1 ≤ b.1)) l).flatMap (·.2)

/-- The rows of a rank's parts in the order they came, each with its elements. -/
def rowsOf (ps : List Part) : List (Nat × List W) :=
  let keys := (ps.filterMap fun p => match p with
    | .row r _ _ => some r
    | _ => none).reverse.dedup.reverse
  keys.map fun r => (r, joinAt (ps.filterMap fun p => match p with
    | .row q o vs => if q = r then some (o, vs) else none
    | _ => none))

/-- The elements of a rank's parts. -/
def elemsOf (ps : List Part) : List W := joinAt (ps.filterMap fun p => match p with
  | .elems o vs => some (o, vs)
  | _ => none)

def finOf (ps : List Part) : Option Nat := ps.findSome? fun p => match p with
  | .fin n => some n
  | _ => none

/-- A rank has arrived whole: its end marker, and as many elements or rows as that gives and the shard has. -/
def rankWhole (d : List W) (width : Nat) (ps : List Part) : Bool :=
  match finOf ps with
  | none => false
  | some n =>
    if sCtype d = 2 then
      let rs := rowsOf ps
      rs.length == n && rs.all fun r => r.2.length == width
    else (elemsOf ps).length == n && n == sSum d

/-- As many elements or rows as the end marker gives have come: the rank has been received (R396). -/
def rankCounted (ps : List Part) : Bool :=
  match finOf ps with
  | none => false
  | some n => (elemsOf ps).length + (rowsOf ps).length == n

/-- Adds the elements of a rank into S. -/
def State.addDense (s : State) (d : List W) (vs : List W) : State × Option Nat × Flags :=
  let n := sSum d
  let t := s.touch 3 (sRed d) (4 * n)
  match t.2 with
  | some a => (t.1, some a, {})
  | none =>
    let r := List.zipWith (fun a b => add (of32 a) (of32 b)) (t.1.peekWords 3 (sRed d) n) vs
    let w := t.1.write 3 (sRed d) (fp32Bytes (r.map (·.1)))
    (w.1, w.2, Flags.all (r.map (·.2)))

/-- Adds a rank's rows into the row table; none when the table is full. -/
def addTable (cap : Nat) (tab : List (Nat × List W)) : List (Nat × List W) → Option (List (Nat × List W) × Flags)
  | [] => some (tab, {})
  | (row, vs) :: rest =>
    let adds := fun (old : List W) => List.zipWith (fun a b => add (of32 a) (of32 b)) old vs
    let step : Option (List (Nat × List W) × Flags) :=
      match tab.find? fun e => e.1 == row with
      | some e =>
        let r := adds e.2
        some (tab.map fun q => if q.1 = row then (row, r.map fun x => bits32 x.1) else q, Flags.all (r.map (·.2)))
      | none =>
        if cap ≤ tab.length then none else
        let r := adds (vs.map fun _ => bits32 negZero)
        some (tab ++ [(row, r.map fun x => bits32 x.1)], Flags.all (r.map (·.2)))
    match step with
    | none => none
    | some (tab', f) => (addTable cap tab' rest).map fun q => (q.1, q.2.or f)

/-- The table width of an embedding shard. -/
def State.shardWidth (s : State) (d : List W) : Nat := match s.shardTable d with
  | some t => tWidth t
  | none => 0

/-- Deals with the lowest rank not yet added, if it has arrived whole and the step is not poisoned. The Bool says that it
did. -/
def State.addRank (s : State) (m : Cmd) (r : ShardRun) : State × Bool :=
  let d := m.shard r.pos
  let rank := m.rank0 d + r.added
  let mine := partOf r.job r.step r.shard rank
  let qs := s.red.parts.filter mine
  if s.isPoisoned r.job r.step || r.added == sN d || !rankWhole d (s.shardWidth d) (qs.map (·.part)) then (s, false) else
  let t := s.touches (s.partReads qs)
  let ps := qs.map t.1.partNow
  let s := { t.1 with red := { t.1.red with parts := t.1.red.parts.filter fun p => !mine p } }
  if t.2.isSome then (s.raisePoison r.job r.step 1, true) else
  let vals := if sCtype d = 2 then (rowsOf ps).flatMap (·.2) else elemsOf ps
  let bad := vals.any fun x => !isFinite (of32 x)
  let next := fun (q : ShardRun) => { q with added := q.added + 1 }
  if bad && s.policy == 0 then (s.raisePoison r.job r.step 1, true)
  else if bad && s.policy == 1 then
    ((s.mapRun r fun q => { next q with skipped := q.skipped + 1 }).bump (cnt (Reg.red 0x50)), true)
  else if sCtype d = 2 then
    match addTable (sRows d) r.rows (rowsOf ps) with
    | none => (s.raisePoison r.job r.step 6, true)
    | some (tab, f) => ((s.mapRun r fun q => { next q with rows := tab }).addFlags m.id f, true)
  else
    let a := s.addDense d vals
    match a.2.1 with
    | some _ => (a.1.raisePoison r.job r.step 1, true)
    | none => ((a.1.mapRun r next).addFlags m.id a.2.2, true)

/-- Adds every rank whose turn has come; the last one forms g. -/
def State.addRanks (s : State) (m : Cmd) (job step shard : Nat) : Nat → State
  | 0 => s
  | n + 1 =>
    match s.run? job step shard with
    | none => s
    | some r =>
      let q := s.addRank m r
      if q.2 then q.1.addRanks m job step shard n else s

/-- Adds what can be added to a shard's sum; the last rank forms g (R395, R397). -/
def State.advanceShard (s : State) (m : Cmd) (job step shard : Nat) : State :=
  match s.run? job step shard with
  | none => s
  | some r =>
    let d := m.shard r.pos
    let s := s.addRanks m job step shard (sN d - r.added)
    match s.run? job step shard with
    | none => s
    | some r => if r.added = sN d ∧ r.formed = false ∧ s.isPoisoned job step = false then s.formShard m d r else s

/-- The same, where the two datapaths differ on a value formed now: the step is poisoned (R398). -/
def State.formChecked (s : State) (m : Cmd) (job step shard : Nat) (differ : Bool) : State :=
  let t := s.advanceShard m job step shard
  let done := fun (s : State) => (s.run? job step shard).map fun r => (r.added, r.formed)
  if differ && done s != done t && !t.isPoisoned job step then t.raisePoison job step 1 else t

/-! ### CONTRIBUTION_PACKET -/

/-- A COMMIT of a job and step that has been accepted and is not past its T. -/
def State.armedCommit (s : State) (job step : Nat) : Bool :=
  s.cmds.any fun m => m.opcode == 0x60 && m.job == job && m.step == step && m.phase == .armed

/-- A step that takes no contribution any more: committed, poisoned, or no longer kept (R396, R407). -/
def State.stepClosed (s : State) (job step : Nat) : Bool :=
  let r := s.stepRec job step
  r.committed || !r.poisons.isEmpty || (match s.jobEntry job with
    | some e => decide (step + 64 ≤ latestStep e)
    | none => false)

/-- Counts one discarded contribution (R396). The spec gives its event record no source, code or detail: free values. -/
def State.countBad (s : State) : State :=
  let a := (s.bump (cnt (Reg.red 0x54))).freeWord
  let b := a.1.freeWord
  b.1.event (bits a.2 15 12) (bits a.2 11 0) (bits b.2 31 16) (bits b.2 15 0)

def isEnd : Part → Bool
  | .fin _ => true
  | _ => false

/-- Discards a packet of a contribution; its end marker counts the contribution once (R396, assumption 61). -/
def State.badContribution (s : State) (p : Pkt) (part : Part) : State :=
  if isEnd part then (s.unbox p).countBad else s.unbox p

/-- Discards the buffered contributions that an accepted COMMIT does not expect: another shard, or a rank out of range. -/
def State.dropStrays (s : State) (m : Cmd) : State :=
  let wanted := fun (q : PartRec) => m.shards.any fun d =>
    sShard d == q.shard && decide (m.rank0 d ≤ q.rank) && decide (q.rank < m.rank0 d + sN d)
  let stray := fun (q : PartRec) => q.job == m.job && q.step == m.step && !wanted q
  let n := (s.red.parts.filter fun q => stray q && isEnd q.part).length
  let s := { s with red := { s.red with parts := s.red.parts.filter fun q => !stray q } }
  (List.range n).foldl (fun (s : State) _ => s.countBad) s

/-- What becomes of a part: discarded, waiting in the fabric, or buffered. -/
inductive PartFate where
  | bad | waits | taken
deriving DecidableEq, Repr

def State.partFate (s : State) (job step shard rank : Nat) (part : Part) : PartFate :=
  let held := s.red.parts.filter (partOf job step shard rank)
  let again := rankCounted (held.map (·.part)) || held.any fun q => samePart q.part part
  let room := (s.partPlace (partBytes part)).isSome
  if s.stepClosed job step then .bad else
  match s.run? job step shard with
  | some r =>
    match s.findCmd r.cmd with
    | none => .bad
    | some m =>
      let d := m.shard r.pos
      let lo := m.rank0 d
      if rank < lo + r.added ∨ lo + sN d ≤ rank ∨ again = true then .bad
      else if rank = lo + r.added ∨ room = true then .taken else .waits
  | none => if s.armedCommit job step || again then .bad else if room then .taken else .waits

/-- An earlier packet of the same contribution still waits ahead of this one. -/
def State.partBehind (s : State) (p : Pkt) (step shard rank : Nat) : Bool :=
  (s.fab.inbox.takeWhile (· ≠ p)).any fun q => q.job == p.job && match q.body with
    | .contrib a b c _ => a == step && b == shard && c == rank
    | _ => false

/-- A contribution packet (R389, R395 to R398); `differ`: the two datapaths differ on a value formed now. -/
def contribution (p : Pkt) (differ : Bool) (s : State) : State :=
  match p.body with
  | .contrib step shard rank part =>
    match if s.partBehind p step shard rank then .waits else s.partFate p.job step shard rank part with
    | .bad => s.badContribution p part
    | .waits => s
    | .taken =>
      let s := (s.unbox p).bufferPart { job := p.job, step := step, shard := shard, rank := rank, part := part }
      match (s.run? p.job step shard).bind fun r => s.findCmd r.cmd with
      | some m => s.formChecked m p.job step shard differ
      | none => s
  | _ => s

def execContributionPacket (p : Compared Pkt) (s : State) : Host.Outcome State Fault Refusal :=
  fin (contribution p.of p.differ s)

/-! ### Rows from other packages (R195, R410) -/

/-- A record that an embedding shard's run asked for. -/
def State.shardRow (s : State) (p : Pkt) (shard row fmt : Nat) (bs : List Byte) : State :=
  let f : Fetched := { entry := 0, row := row, fmt := fmt, bytes := bs }
  match s.red.shards.find? fun r => decide (r.cmd = ⟨p.ring, p.seq⟩) && r.shard == shard with
  | none => s
  | some r =>
    let s := s.mapRun r fun q => { q with got := f :: q.got.filter fun g => g.row != row }
    match s.findCmd r.cmd, s.run? r.job r.step r.shard with
    | some m, some r =>
      if m.phase = .armed ∧ s.policy ≠ 2 ∧ s.isPoisoned r.job r.step = false then
        s.checkNew m (m.shard r.pos) r
      else s
    | _, _ => s

/-- A record for the checkpoint stream. -/
def State.streamRecord (s : State) (handle row fmt : Nat) (bs : List Byte) : State :=
  match s.ck.stream with
  | none => s
  | some k =>
    let got := (k.got.filter fun f => !(f.entry == handle && f.row == row)) ++
      [{ entry := handle, row := row, fmt := fmt, bytes := bs }]
    { s with ck := { s.ck with stream := some { k with got := got } } }

def rowResponse (p : Pkt) (s : State) : State :=
  match p.body with
  | .rowResp handle row op entry fmt known bs =>
    if entry = 0xFFFFFFFF then (s.unbox p).shardRow p op row fmt (if known then bs else [])
    else if entry = 0xFFFFFFFE then (s.unbox p).streamRecord handle row fmt (if known then bs else [])
    else remoteRow p s
  | _ => s.unbox p

def execRemoteRowResponse (p : Pkt) (s : State) : Host.Outcome State Fault Refusal := fin (rowResponse p s)

/-! ### Twin digests (R481, R482) -/

/-- A digest packet to the partner. -/
def State.digestPkt (s : State) (m : Cmd) (shard : Nat) (dg : BitVec 64) : Pkt :=
  let dst := s.fld F.twinPartner
  { type := .write, cls := 2, phase := 1, epoch := s.fld F.rtActive, len := 16, dst := dst, src := s.pkg, via := dst,
    job := m.job, ring := m.id.ring, seq := m.id.seq, sink := 1, body := .digest m.step shard dg }

/-- The trial pass of a shard ends: the owner's digest is formed and sent; `differ`: the two datapaths differ on a value formed
(R398). -/
def trialEnd (c : CmdId) (idx : Nat) (differ : Bool) (s : State) : State :=
  match s.findCmd c, (s.runsOf c).find? fun r => r.pos == idx with
  | some m, some r =>
    if s.flag F.twinEnable = false ∨ r.formed = false ∨ r.own.isSome = true ∨ m.phase ≠ .armed ∨
        s.isPoisoned r.job r.step = true then s
    else
      let b := s.trialBytes m (m.shard idx) r
      match b.2 with
      | none => b.1
      | some (bs, fl) =>
        let s := b.1.addFlags c fl
        if differ then s.raisePoison r.job r.step 1 else
        let dg := crc64From 0 bs
        (s.mapRun r fun q => { q with own := some dg }).send (s.digestPkt m r.shard dg)
  | _, _ => s

def execTwinTrialPassEnd (c : CmdId) (idx : Compared Nat) (s : State) : Host.Outcome State Fault Refusal :=
  fin (trialEnd c idx.of idx.differ s)

/-- The partner's digest arrives; it is kept until its shard's COMMIT is accepted. -/
def twinDigest (p : Pkt) (s : State) : State :=
  let s := s.unbox p
  match p.body with
  | .digest step shard dg =>
    if p.src ≠ s.fld F.twinPartner then s else
    match s.run? p.job step shard with
    | some r => s.mapRun r fun q => { q with peer := some dg }
    | none => if s.stepClosed p.job step then s else
      { s with red := { s.red with digests := s.red.digests ++ [(p.job, step, shard, dg)] } }
  | _ => s

def execTwinDigestPacket (p : Pkt) (s : State) : Host.Outcome State Fault Refusal := fin (twinDigest p s)

end Sys2Proof.Machine
end

