-- ==== Sys2Proof/Machine/Rings.lean ====
section
/-! DEFINITION. Rings and doorbells (R92 to R96, R587), the fetch, check and acceptance of packets (R97 to R105, R115,
R583, R584), the administration commands (R103), and the writes of the ring registers (R119 to R123). -/

namespace Sys2Proof.Machine

/-! ### The opcode table (R102, R103 and each chapter's table) -/

/-- An assigned opcode: its one len, whether it is schedulable, and the reserved bits of its operand words (R99, R124). -/
structure OpSpec where
  op    : Nat
  len   : Nat
  sched : Bool := false
  resv  : List (Nat × Nat) := []
deriving DecidableEq, Repr

/-- Reserved bits of a pointer's low word (R124). -/
def ptrResv : Nat := 0x3F

def opTable1 : List OpSpec :=
  [{ op := 0x00, len := 3, sched := true },
   { op := 0x01, len := 6, resv := [(4, 0xFFFFF000), (5, 0xFFFF0000)] },
   { op := 0x02, len := 4, resv := [(4, 0xFFFFF000)] },
   { op := 0x03, len := 5 },
   { op := 0x10, len := 7, resv := [(4, ptrResv), (6, ptrResv)] },
   { op := 0x11, len := 6, resv := [(4, ptrResv)] },
   { op := 0x20, len := 10, resv := [(4, ptrResv), (6, ptrResv), (8, ptrResv)] },
   { op := 0x21, len := 8, resv := [(4, ptrResv), (7, 0xFFFFFF00)] },
   { op := 0x30, len := 6, resv := [(4, 0xFFFFFF00), (5, ptrResv)] },
   { op := 0x31, len := 4, resv := [(4, 0xFFFFFF00)] },
   { op := 0x32, len := 7, resv := [(4, ptrResv), (6, 0xFFFFFFFE)] },
   { op := 0x33, len := 8, resv := [(4, 0xFFFFFF00), (6, 0xFFFFFF00), (8, 0xFFFFFFFE)] },
   { op := 0x34, len := 4 },
   { op := 0x35, len := 6, resv := [(4, 0x70000000), (5, ptrResv)] },
   { op := 0x36, len := 5, sched := true, resv := [(4, 0x7FFFF000), (5, 0xFFFF0000)] },
   { op := 0x37, len := 8, resv := [(4, 0xFFFFFE00), (5, ptrResv), (7, ptrResv)] },
   { op := 0x38, len := 6, resv := [(4, 0xFFFF0000), (5, ptrResv)] },
   { op := 0x39, len := 9, resv := [(4, 0xFFFFFE00), (6, 0xFFFFFF00), (8, ptrResv)] },
   { op := 0x3A, len := 4, sched := true, resv := [(4, 0xFFFF0000)] }]

def opTable2 : List OpSpec :=
  [{ op := 0x40, len := 7, resv := [(4, ptrResv), (6, 0xFFFFFFFC)] },
   { op := 0x41, len := 12, resv := [(4, ptrResv), (6, ptrResv), (8, ptrResv), (10, 0x00FFFFFF), (12, 0xFFFF0000)] },
   { op := 0x48, len := 8, resv := [(4, ptrResv), (6, ptrResv), (8, 0xFFFC0000)] },
   { op := 0x49, len := 6, resv := [(4, ptrResv), (6, 0xFFFF0000)] },
   { op := 0x50, len := 7, resv := [(4, ptrResv), (6, 0xFFFFFFFE)] },
   { op := 0x51, len := 5, resv := [(4, ptrResv)] },
   { op := 0x52, len := 5, resv := [(4, ptrResv)] },
   { op := 0x60, len := 11, sched := true, resv := [(4, ptrResv), (6, 0xFFFFE000), (7, ptrResv), (11, 0xFF)] },
   { op := 0x61, len := 5, resv := [(4, 0xFFFF0000)] },
   { op := 0x70, len := 4, resv := [(4, 0x7FFF0000)] },
   { op := 0x71, len := 5, resv := [(4, ptrResv)] },
   { op := 0x72, len := 5, resv := [(4, 0xFFFFFFFE)] },
   { op := 0x73, len := 5 },
   { op := 0x74, len := 3 },
   { op := 0x75, len := 4 },
   { op := 0x76, len := 3 },
   { op := 0x77, len := 3 },
   { op := 0x78, len := 4, resv := [(4, 0x7FFF0000)] },
   { op := 0x80, len := 8, sched := true, resv := [(4, ptrResv), (6, 0x1FFF0000)] },
   { op := 0x90, len := 6, resv := [(4, ptrResv), (6, 0xFFFFFFFE)] },
   { op := 0x91, len := 4, sched := true, resv := [(4, 0xFFFFFFFE)] },
   { op := 0x92, len := 4, resv := [(4, 0x7FFC0000)] },
   { op := 0x93, len := 7, resv := [(4, ptrResv), (6, 0x0000FFFF)] },
   { op := 0x94, len := 7, resv := [(4, ptrResv), (6, 0x0000FFFF)] },
   { op := 0x95, len := 6, resv := [(4, 0xFFFF0000), (5, ptrResv)] },
   { op := 0x96, len := 4, resv := [(4, 0x7FFFFFC0)] },
   { op := 0xA0, len := 4, resv := [(4, 0xFFFFFFFE)] },
   { op := 0xA1, len := 4, resv := [(4, 0x7FF00000)] },
   { op := 0xA2, len := 5, resv := [(4, ptrResv)] },
   { op := 0xA3, len := 5, resv := [(4, 0xFFFFFE00)] }]

def opSpec (op : Nat) : Option OpSpec := (opTable1 ++ opTable2).find? fun o => o.op == op

/-! ### Doorbells -/

/-- R95. BOOT, RESETTING, FAILSAFE and the states without main supply ignore doorbells (R499). -/
def State.takesBells (s : State) : Bool :=
  let d := s.fld F.devState
  d == Dev.ready || d == Dev.running || d == Dev.quiesced || d == Dev.retired

/-- A producer index written to a command ring's page; a management-port ring uses no doorbell (R118). -/
def commandDoorbell (n : Nat) (v : W) (s : State) : State :=
  if !s.takesBells || decide (4096 ≤ n) then s else
  if !s.flag (F.ringEnable n) then s.setFld (F.ringBadDoorbell n) 1 else
  if s.fld (F.ringSource n) = 2 then s else
  let x := s.ringx n
  if 2 ^ 31 < (v - x.prod).toNat then s else
  if 2 ^ s.fld (F.ringLog2 n) < (v - s.reg (Reg.ring n + 0x10)).toNat then
    (s.setFld (F.ringBadDoorbell n) 1).postReply (s.fld (F.ringCq n)) n (s.fld (F.ringExpected n)) 0xFF 0 0
      ⟨St.badDoorbell, v.toNat, s.fld (F.ringCons n)⟩ false
  else
    ({ s with arb := { s.arb with arrivals := s.arb.arrivals + 1 } }).setRingx n
      { x with prod := v, bells := if v = x.prod then x.bells else x.bells ++ [(s.arb.arrivals, v)] }

/-- R587. -/
def completionDoorbell (n : Nat) (v : W) (s : State) : State :=
  if !s.takesBells || decide (4096 ≤ n) then s else
  if !s.flag (F.cqEnable n) then s.setFld (F.cqBadDoorbell n) 1 else
  let x := s.cqx n
  if 2 ^ 31 < (v - x.cons).toNat then s else
  if 2 ^ 31 < (x.prod - v).toNat then s.setFld (F.cqBadDoorbell n) 1 else
  s.setCqx n { x with cons := v }

/-- An access to page n of BAR2 (R94): a write at 0x000 and one at 0x004 are the doorbells of rings n, other writes have no
effect, and a read returns 0. -/
def bar2Access (n off : Nat) (value : Option W) (s : State) : State :=
  match value with
  | none => s.emit (.readData 0)
  | some v => if off = 0x000 then commandDoorbell n v s else if off = 0x004 then completionDoorbell n v s else s

def execCommandRingDoorbell (ring : Nat) (access : PageAccess) (s : State) : Host.Outcome State Fault Refusal :=
  fin (bar2Access ring access.off access.value s)

def execCompletionRingDoorbell (ring : Nat) (access : PageAccess) (s : State) : Host.Outcome State Fault Refusal :=
  fin (bar2Access ring access.off access.value s)

/-! ### Choosing a ring (R96, R115) -/

/-- The number of pending packets of a ring (R93). -/
def State.pendingCount (s : State) (n : Nat) : Nat := ((s.ringx n).prod - s.reg (Reg.ring n + 0x10)).toNat

/-- Tier code and address of the packet at the consumer index of a ring in memory (R93, R119). -/
def State.packetAt (s : State) (n : Nat) : Nat × Nat :=
  (if s.fld (F.ringSource n) = 1 then 3 else 5,
   s.reg64 (Reg.ring n) (Reg.ring n + 4) + s.fld (F.ringCons n) % 2 ^ s.fld (F.ringLog2 n) * 64)

/-- The sequence number whose Ledger slot the next packet takes (R115). -/
def State.nextSeq (s : State) (n : Nat) : Nat :=
  let x := s.ringx n
  if x.expSet then s.fld (F.ringExpected n) else
  match x.mgmt with
  | (_, ws) :: _ => wbits ws 0 15 0
  | [] => let p := s.packetAt n; s.word p.1 p.2 % 2 ^ 16

/-- The packet that names the slot can be read (R45, R115): the slot is known without it, or its line is good. -/
def State.slotKnown (s : State) (n : Nat) : Bool :=
  let x := s.ringx n
  x.expSet || !x.mgmt.isEmpty || s.good (s.packetAt n).1 (s.packetAt n).2 4

/-- The ring waits for the Ledger slot of its next packet (R115). A slot that cannot be read shows no status. -/
def State.ledgerWaits (s : State) (n : Nat) : Bool :=
  s.flag (F.ringEnable n) && decide (0 < s.pendingCount n) && s.slotKnown n &&
    s.good 3 (s.ledgerAddr n (s.nextSeq n)) 4 &&
    decide (s.word 3 (s.ledgerAddr n (s.nextSeq n)) % 2 ^ 16 = 0xFFFF)

/-- A ring from which a packet can be fetched now: a management-port ring's packets come in frames alone (R118, R119). -/
def State.ringReady (s : State) (n : Nat) : Bool :=
  s.flag (F.ringEnable n) && decide (0 < s.pendingCount n) && !s.ledgerWaits n &&
    (s.fld (F.ringSource n) != 2 || !(s.ringx n).mgmt.isEmpty)

/-- Rings with something pending, ascending: every other ring holds its default. -/
def State.readyRings (s : State) : List Nat := (s.rings.map (·.1)).filter fun n => decide (n < 4096) && s.ringReady n

/-- The highest class among rings. -/
def topClass (s : State) (rs : List Nat) : Nat := (rs.map fun n => s.fld (F.ringPrio n)).foldl max 0

/-- The first of a class's rings after the one served last, in ascending order round (R96). -/
def roundRobin (rs : List Nat) (last : Nat) : Option Nat :=
  (rs.find? fun n => decide (last < n)) <|> rs.head?

/-- The ring whose oldest pending doorbell arrived earliest, ties to the lowest ring (R96). -/
def oldestBell (s : State) : List Nat → Option Nat
  | [] => none
  | n :: ns =>
    match oldestBell s ns with
    | none => some n
    | some k =>
      let a := fun i => ((s.ringx i).bells.head?.map (·.1)).getD s.arb.arrivals
      if a n ≤ a k then some n else some k

/-- The ring the Command Processor decodes from next (R96). -/
def State.chooseRing (s : State) : Option Nat :=
  let rs := s.readyRings
  if (s.arb.decodes + 1) % 16 = 0 then oldestBell s rs
  else
    let c := topClass s rs
    roundRobin (rs.filter fun n => s.fld (F.ringPrio n) == c) (s.arb.last.getD c 4095)

/-- The decode count and the class's turn move on (R96). DESIGN CHOICE (assumption 80): the 16th decode, which goes to the oldest
doorbell, leaves its class's turn where it was. -/
def State.served (s : State) (n : Nat) : State :=
  let aging := (s.arb.decodes + 1) % 16 = 0
  { s with arb := { s.arb with
      decodes := s.arb.decodes + 1
      last := if aging then s.arb.last else s.arb.last.set (s.fld (F.ringPrio n)) n } }

/-- Consumes the entry at the consumer index (R101). -/
def State.consume (s : State) (n : Nat) : State :=
  let cons := s.reg (Reg.ring n + 0x10) + 1
  let x := s.ringx n
  (s.setReg (Reg.ring n + 0x10) cons).setRingx n
    { x with mgmt := x.mgmt.drop 1, bells := x.bells.filter fun b => decide (0 < (b.2 - cons).toNat ∧ (b.2 - cons).toNat ≤ 2 ^ 31) }

/-! ### Checks (R100, R101) -/

/-- The first word with a reserved bit set, and its offending bits (R99). -/
def reservedHit (ws : List W) : List (Nat × Nat) → Option (Nat × Nat)
  | [] => none
  | (i, mask) :: ms =>
    let v := wordAt ws i &&& mask
    if v ≠ 0 then some (i, v) else reservedHit ws ms

/-- Reserved bits of the header (R97). -/
def headerResv (sched : Bool) : List (Nat × Nat) :=
  (1, 0xF000) :: if sched then [] else [(2, 0xFFFFFFFF), (3, 0xFFFFFFFF)]

/-- Checks 3 to 6 of R100. -/
def checkBody (ws : List W) : Option Status :=
  match opSpec (wbits ws 0 31 24) with
  | none => some ⟨St.badOpcode, 0, 0⟩
  | some o =>
    if wbits ws 0 19 16 ≠ o.len then some ⟨St.badLength, o.len, o.len⟩
    else if wbits ws 0 22 22 = 1 ∧ o.sched = false then some ⟨St.badFlags, 0, 0⟩
    else match reservedHit ws (headerResv (wbits ws 0 22 22 == 1) ++ o.resv) with
      | some (i, v) => some ⟨St.badReserved, i, v⟩
      | none => none

/-- The outcome of the checks: the failing status if any, and the expected number afterwards where it changes. -/
def State.checkPacket (s : State) (n : Nat) (ws : List W) : Option Status × Option Nat :=
  let ring := wbits ws 1 11 0
  let seq := wbits ws 0 15 0
  let next := (seq + 1) % 2 ^ 16
  if ring ≠ n then (some ⟨St.badRing, ring, 0⟩, none) else
  let expected := s.fld (F.ringExpected n)
  let d := (expected + 2 ^ 16 - seq) % 2 ^ 16
  if (s.ringx n).expSet ∧ 1 ≤ d ∧ d ≤ 32768 then (some ⟨St.seqDup, expected, 0⟩, none)
  else if (s.ringx n).expSet ∧ 32769 ≤ d then (some ⟨St.seqGap, expected, 0⟩, some next)
  else (checkBody ws, some next)

def State.setExpected (s : State) (n : Nat) : Option Nat → State
  | none => s
  | some e => (s.setFld (F.ringExpected n) e).setRingx n { s.ringx n with expSet := true }

/-! ### Acceptance (R584, R85, R511, R512) -/

/-- The ring of the oldest command that holds a launch timer (R145, assumption 77). -/
def State.timerRing (s : State) : Nat := (s.timerHolders.head?.map (·.id.ring)).getD noHolder

/-- Checks 1 to 4 of R584 on an accepted command. -/
def State.acceptCheck (s : State) (m : Cmd) : Option Status :=
  let inRecord := s.abortRec m.job
  if !accepts (s.fld F.devState) m.opcode then some ⟨St.quenched, 0, 0⟩
  else if m.job ≠ 0 ∧ inRecord.isSome then some ⟨St.jobAbort, m.job, (inRecord.map (·.origin)).getD 0⟩
  else if m.job ≠ 0 ∧ s.flag F.abortOverflow = true then some ⟨St.jobAbort, m.job, s.pkg⟩
  else if !m.sched then none
  else if s.fld F.tbState ≠ TbSt.locked ∧ s.fld F.tbState ≠ TbSt.holdover then
    some ⟨St.unsyncTime, s.fld F.tbState, 0⟩
  else if m.t < s.tb.stime + 2000 then some ⟨St.lateInstant, s.tb.stime % 2 ^ 32, s.tb.stime / 2 ^ 32⟩
  else if s.tb.stime + 60000000000 < m.t then some (oor 2)
  else if 256 ≤ s.timers then some (busy 0x0030 s.timerRing)
  else none

/-- A boundary is captured at a COMMIT of a job (R517, R534). -/
def State.capturesAt (s : State) (job : Nat) : Bool :=
  s.bndBase != 0 && (match s.ck.plan with
    | some p => wbits p.words 0 15 0 == job
    | none => false)

/-- R112, R113: the marker of each running command of a ring is written. -/
def progressUpdate (n : Nat) (s : State) : State :=
  (s.cmds.filter fun m => m.id.ring == n && m.phase == .running).foldl (fun s m => s.journal m 0xFFFF 0) s

def execLedgerProgressUpdate (ring : Nat) (s : State) : Host.Outcome State Fault Refusal := fin (progressUpdate ring s)

/-! ### Administration commands (R103) -/

/-- A NOP without sched completes; with sched it waits for its T. -/
def runNop (c : CmdId) (s : State) : State :=
  match s.runnable c 0x00 with
  | none => s
  | some m => if m.sched then s.arm c else (s.begin c).complete c okStatus

def execNop (c : CmdId) (s : State) : Host.Outcome State Fault Refusal := fin (runNop c s)

/-- The Ledger status of a ring's sequence number, where the entry is that number's. -/
def State.ledgerStatus (s : State) (ring seq : Nat) : Option Nat :=
  let w := s.word 3 (s.ledgerAddr ring seq)
  if w / 2 ^ 16 = seq % 2 ^ 16 then some (w % 2 ^ 16) else none

/-- Ring w's Ledger shows seq complete. -/
def State.ledgerDone (s : State) (ring seq : Nat) : Bool :=
  match s.ledgerStatus ring seq with
  | some st => decide (st ≠ 0xFFFF)
  | none => false

/-- What WAIT_RING finds in the Ledger entry it waits for: UNCORRECTABLE where the entry cannot be read (R45, R473), OK where it
shows the command complete, nothing before. -/
def State.awaited (s : State) (m : Cmd) : State × Option Status :=
  let w := m.bits 4 11 0
  let q := m.bits 5 15 0
  let r := s.touch 3 (s.ledgerAddr w q) 32
  match r.2 with
  | some a => (r.1, some (uncorrAt 3 a))
  | none => (r.1, if s.ledgerDone w q then some okStatus else none)

/-- WAIT_RING at its start: OUT_OF_RANGE on a ring that is not enabled; OK when the awaited command has completed; else it
waits. -/
def runWaitRing (c : CmdId) (s : State) : State :=
  s.run c 0x01 fun m s =>
    if !s.flag (F.ringEnable (m.bits 4 11 0)) then s.refuse c (oor 4)
    else match s.awaited m with
      | (s, some st) => s.complete c st
      | (s, none) => s

def execWaitRing (c : CmdId) (s : State) : Host.Outcome State Fault Refusal := fin (runWaitRing c s)

/-- A WAIT_RING that is waiting. -/
def State.waitingRing (s : State) (c : CmdId) : Option Cmd :=
  match s.findCmd c with
  | some m => if m.opcode = 0x01 ∧ m.phase = .running then some m else none
  | none => none

def waitSatisfied (c : CmdId) (s : State) : State :=
  match s.waitingRing c with
  | none => s
  | some m => match s.awaited m with
    | (s, some st) => s.complete c st
    | (s, none) => s

def execWaitRingSatisfied (c : CmdId) (s : State) : Host.Outcome State Fault Refusal := fin (waitSatisfied c s)

/-- The timeout of WAIT_RING, counted from its start (R103, R109). -/
def waitTimeout (c : CmdId) (s : State) : State :=
  match s.waitingRing c with
  | none => s
  | some m =>
    if s.tb.stime < m.start + 1000 * m.word 6 then s else
    match s.awaited m with
    | (s, some st) => if st.code = St.ok then s else s.complete c st
    | (s, none) => s.complete c ⟨St.timeout, ((s.ringx (m.bits 4 11 0)).lastDone).getD 0xFFFFFFFF, 0⟩

def execWaitRingTimeout (c : CmdId) (s : State) : Host.Outcome State Fault Refusal := fin (waitTimeout c s)

/-- A command has started once its first work has issued (R103): one that is laid out and has issued no operation has not. -/
def Cmd.started (m : Cmd) : Bool := m.phase == .running && (m.ops.isEmpty || m.ops.any fun o => o.stage != .waiting)

/-- ABORT_RING: every accepted command of ring w that has not started completes with RING_ABORT, oldest first. -/
def runAbortRing (c : CmdId) (s : State) : State :=
  s.run c 0x02 fun m s =>
    let w := m.bits 4 11 0
    let victims := (s.cmds.filter fun o => o.id.ring == w && !o.started && decide (o.id ≠ c)).map (·.id)
    (s.failAll victims ⟨St.ringAbort, c.ring, 0⟩).complete c okStatus

def execAbortRing (c : CmdId) (s : State) : Host.Outcome State Fault Refusal := fin (runAbortRing c s)

/-! ### Ring registers -/

/-- An enabled ring's block keeps every field but enable (R120, R122). -/
def cfgWrite (s : State) (off : Nat) (mask : Nat) (enable err : Fld) (refuse : W → Bool) (v : W)
    (onEnable : State → State) : State :=
  let old := s.reg off
  let new := merge mask old v
  if s.flag enable then
    let differs := merge 0x7FFFFFFF old new != old
    let s := if differs then s.setFld err 1 else s
    s.setFld enable (bits v 31 31)
  else if bits v 31 31 = 0 then s.setReg off new
  else if refuse new then s.setFld err 1
  else onEnable (s.setReg off new)

/-- R120's reasons to refuse an enable. -/
def ringRefused (s : State) (n : Nat) (v : W) : Bool :=
  let rl := bits v 25 21
  let ll := bits v 20 16
  let src := bits v 27 26
  let base := s.reg64 (Reg.ring n) (Reg.ring n + 4)
  decide (rl < 6) || decide (16 < rl) || decide (ll < 6) || decide (16 < ll) || src == 3 ||
    (src == 1 && decide (cellarEnd < base + 64 * 2 ^ rl)) ||
    decide (cellarEnd < s.fld (F.ledgerBase n) * 4096 + 32 * 2 ^ ll)

/-- On enable both indices, the expected number and the malformed count restart (R93, R101, R121). -/
def startRing (n : Nat) (s : State) : State :=
  ((s.setReg (Reg.ring n + 0x10) 0).setFld (F.ringExpected n) 0 |>.setFld (F.ringMalformed n) 0).setRingx n {}

def ringCfgWrite (n : Nat) (v : W) (s : State) : State :=
  cfgWrite s (Reg.ring n + 8) 0xFFFF0FFF (F.ringEnable n) (F.ringCfgErr n) (ringRefused s n) v (startRing n)

/-- R122's reasons to refuse an enable. -/
def cqRefused (s : State) (n : Nat) (v : W) : Bool :=
  let l := bits v 30 26
  let base := s.reg64 (Reg.cq n) (Reg.cq n + 4)
  decide (l < 6) || decide (16 < l) || decide (2 ≤ bits v 25 24) ||
    (bits v 25 24 == 1 && decide (cellarEnd < base + 32 * 2 ^ l))

def cqCfgWrite (n : Nat) (v : W) (s : State) : State :=
  cfgWrite s (Reg.cq n + 8) 0xFF800FFF (F.cqEnable n) (F.cqCfgErr n) (cqRefused s n) v (fun s => s.setCqx n {})

/-- R123: each 1 clears its bit; a 1 to overflow clears lost too. -/
def cqStatusWrite (n : Nat) (v : W) (s : State) : State :=
  let s := if bits v 31 31 = 1 then (s.setFld (F.cqOverflow n) 0).setFld (F.cqLost n) 0 else s
  let s := if bits v 30 30 = 1 then s.setFld (F.cqCfgErr n) 0 else s
  if bits v 29 29 = 1 then s.setFld (F.cqBadDoorbell n) 0 else s

end Sys2Proof.Machine
end

