-- ==== Sys2Proof/Machine/Boundary.lean ====
section
/-! DEFINITION. Boundaries (R514 to R517): their capture, and their commit. -/

namespace Sys2Proof.Machine

/-! ### Boundary slots -/

/-- The other slot. -/
def otherSlot (i : Nat) : Nat := 1 - i

/-- Bytes of the generator image. -/
def State.imageBytes (s : State) : Nat := 4 * s.imageWords

/-- The last-use table (R514). -/
def State.lastUses (s : State) : List W :=
  (List.range (64 * s.tileCount)).map fun i => Tab.get noMb s.lastMb (genKey (s.nthTile (i / 64)) (i % 64))

/-- Address of the cursor block that a plan names (R521). -/
def CkPlan.cursor (p : CkPlan) : Nat := wide p.words 6

/-- The capture of a COMMIT is over. -/
def State.noCapture (s : State) (c : CmdId) : State := s.mapCmd c fun m => { m with aux := m.aux.set 1 2 }

/-- The header of a slot (R514). -/
def State.slotHead (s : State) (m : Cmd) (state mb : Nat) : List Byte :=
  wordBytes (([0xF * 2 ^ 28 + state * 2 ^ 26 + m.job, m.step, mb] ++ words64 s.tb.stime ++ List.replicate 11 0).map
    fun n => BitVec.ofNat 32 n)

/-- The bytes of a slot from its header on (R514). -/
def State.slotBytes (s : State) (m : Cmd) (state : Nat) (cursor : List Byte) : List Byte :=
  s.slotHead m state (ofLe ((cursor.drop 4).take 4)) ++ wordBytes (s.imageNow.map fun n => BitVec.ofNat 32 n) ++
    wordBytes s.lastUses ++ cursor

/-- The slot that is not committed. -/
def State.spareSlot (s : State) : Nat := match s.bndIn 2 with
  | some i => otherSlot i
  | none => 0

/-- A COMMIT of the plan's job that is accepted takes the slot that is not committed, pending from now on; its contents follow at
the capture (R517). -/
def State.takeSlot (s : State) (m : Cmd) : State :=
  if m.opcode = 0x60 ∧ (s.findCmd m.id).isSome = true ∧ s.capturesAt m.job = true then
    (s.put 3 (s.bndSlot s.spareSlot) (s.slotHead m 1 0)).mapCmd m.id fun m => { m with aux := m.aux.set 1 1 }
  else s

/-- The committed slot is i from now on: the other is empty (R517). -/
def State.commitSlot (s : State) (i efDone job step : Nat) : State :=
  let s := s.setBnd i 2 efDone job
  (s.setBnd (otherSlot i) 0 0 job).setReg Reg.ckptBndStep (BitVec.ofNat 32 step)

/-- An error-feedback update of a committed step is still to be applied. -/
def State.efDue (s : State) (job step : Nat) : Bool := s.red.efs.any fun e => e.due && e.job == job && e.step == step

/-- Captures the boundary of a COMMIT (R517). A step that has committed meanwhile commits its slot at once. -/
def State.captureBoundary (s : State) (m : Cmd) : State :=
  let s := s.noCapture m.id
  match s.ck.plan with
  | none => s.emptyPending m.job m.step
  | some p =>
    if s.bndBase = 0 ∨ s.isPoisoned m.job m.step = true then s else
    let t := s.touch 3 p.cursor 64
    match t.2 with
    | some _ => t.1.raisePoison m.job m.step 1
    | none =>
      let s := t.1
      let i := (s.pendingSlot m.job m.step).getD s.spareSlot
      let s := s.put 3 (s.bndSlot i) (s.slotBytes m 1 (s.peek 3 p.cursor 64))
      if (s.stepRec m.job m.step).committed then s.commitSlot i (!s.efDue m.job m.step).toNat m.job m.step else s

/-- Captures whose draws have been made take place, oldest first (R366). -/
def State.runCaptures (s : State) : State :=
  (s.cmds.filter fun m => m.captures && m.phase != .accepted).foldl (fun s m =>
    match s.findCmd m.id with
    | some m => if m.captures && !s.genWaits m then s.captureBoundary m else s
    | none => s) s

end Sys2Proof.Machine
end

