-- ==== Sys2Proof/Machine/Reference.lean ====
section
/-! DEFINITION. The reference of the time base: its states (R80), the hop count and the upstream port (R77), and what the
loss of a link does to them. -/

namespace Sys2Proof.Machine

/-! ### States (R80) -/

/-- An armed scheduled action of system scope has a job tag other than 0 (R83). -/
def State.systemJobs (s : State) : List Nat :=
  ((s.cmds.filter fun m => m.sched && m.phase != .running && m.job != 0).map (·.job)).dedup

/-- Entering UNSYNC or FAULT aborts the jobs of the armed actions of system scope (R83). -/
def State.loseTime (s : State) (st : Nat) : State := (s.setFld F.tbState st).abortAll 2 s.systemJobs

/-- Enters a state of the time base: LOCKED holds an epoch (R71) and keeps the latest offsets (R79); ACQUIRING takes the epoch base (R91); a HOLDOVER with
limit 0 is UNSYNC at once (R88). -/
def State.setTb (s : State) (st : Nat) : State :=
  if s.fld F.tbState = st then s else
  let t := s.tb
  if st = TbSt.locked then
    { s.setFld F.tbState st with tb := { t with epoch := true, bad := 0 } }
  else if st = TbSt.acquiring then
    { s.setFld F.tbState st with tb := { t with good := 0, offs := [], slew := 0, bSlew := 0, epochBase := s.reg64 0x10010 0x10014 } }
  else if st = TbSt.holdover then
    if s.fld F.tbHoldover = 0 then s.loseTime TbSt.unsync
    else { s.setFld F.tbState st with tb := { t with holdoverAt := t.stime } }
  else if st = TbSt.unsync ∨ st = TbSt.fault then s.loseTime st
  else s.setFld F.tbState st

def State.hasTime (s : State) : Bool := s.fld F.tbState == TbSt.locked || s.fld F.tbState == TbSt.holdover

def State.timePort (s : State) (p : Nat) : TimePort := s.tb.ports.getD p {}

/-- The hop count a package reports (R76, R77, R89): 15 without time; 0 at the grandmaster. DESIGN CHOICE (assumption 74): a
package has time in LOCKED and HOLDOVER alone, and a follower in HOLDOVER without an upstream port reports 15. -/
def State.ownHops (s : State) : Nat :=
  if !s.hasTime then 15
  else if s.fld F.tbRole ≠ 0 then 0
  else if s.fld F.tbUpstream = 0xFF then 15
  else min 15 ((s.timePort (s.fld F.tbUpstream)).hops + 1)

def State.publishHops (s : State) : State := s.setFld F.tbHops s.ownHops

/-- Whether a port's link carries time words: it has trained (R76, R426). -/
def State.timeLink (s : State) (p : Nat) : Bool := [2, 3, 5].contains (s.fld (F.portState p))

/-- Chooses the upstream port (R77): the present one while its link is up and its peer has time. -/
def State.chooseUpstream (s : State) : State :=
  let ok := fun (p : Nat) => s.timeLink p && decide ((s.timePort p).hops < 15)
  let up := s.fld F.tbUpstream
  if s.fld F.tbRole ≠ 0 then s.setFld F.tbUpstream 0xFF
  else if up < 48 ∧ ok up = true then s
  else
    let ps := (List.range 48).filter ok
    let low := (ps.map fun p => (s.timePort p).hops).foldl min 15
    match ps.find? fun p => (s.timePort p).hops == low with
    | some p => s.setFld F.tbUpstream p
    | none => s.setFld F.tbUpstream 0xFF

def State.mapTimePort (s : State) (p : Nat) (f : TimePort → TimePort) : State :=
  { s with tb := { s.tb with ports := s.tb.ports.modify p f } }

/-- The reference is lost (R80). -/
def State.loseReference (s : State) : State :=
  (if s.fld F.tbState = TbSt.locked then s.setTb TbSt.holdover else s).publishHops

/-- The credit that a peer has given a port is void: a link that trains anew grants it anew (R425). -/
def State.voidCredit (s : State) (p : Nat) : State := (List.range 8).foldl (fun (s : State) v => s.setCredit p v (0, 0)) s

/-- The link of a port has stopped: its credit and its peer's report are void, and the package chooses another upstream port
where it was the upstream one (R77, R425). -/
def State.linkLost (s : State) (p : Nat) : State :=
  let s := (s.voidCredit p).mapTimePort p fun t => { t with hops := 15 }
  if s.fld F.tbUpstream ≠ p then s else
  let s := s.chooseUpstream
  if s.fld F.tbUpstream = 0xFF then s.loseReference else s.publishHops

end Sys2Proof.Machine
end

