-- ==== Sys2Proof/Machine/Device.lean ====
section
/-! DEFINITION. What changes the whole device: fences of ports (R426), quench (R456, R457), the end of a checkpoint stream
(R526), entering QUIESCED (R502) and RESETTING (R504), and the hold of both between a lock point and its T (R513). -/

namespace Sys2Proof.Machine

/-! ### Ports (R426) -/

namespace Port
def down := 0
def training := 1
def up := 2
def degraded := 3
def retrain := 4
def fenced := 5
def miswired := 6
end Port

/-- Something on this side or the peer's holds the port fenced. -/
def State.fencesPort (s : State) (p : Nat) : Bool :=
  s.flag (F.portFence p) || s.fab.selfFence || (s.portX p).peerFenced

/-- A port that is UP or DEGRADED and fenced becomes FENCED, and one that is FENCED and no longer fenced trains, with no lane in
use. -/
def State.settlePort (s : State) (p : Nat) : State :=
  let st := s.fld (F.portState p)
  if (st == Port.up || st == Port.degraded) && s.fencesPort p then s.setFld (F.portState p) Port.fenced
  else if st == Port.fenced && !s.fencesPort p then
    ((s.setFld (F.portState p) Port.training).setFld (F.portLanes p) 0).linkLost p
  else s

/-- The package fences or frees all of its ports, and tells each peer. -/
def State.fenceOwn (s : State) (on : Bool) : State :=
  let s := { s with fab := { s.fab with selfFence := on } }
  (List.range 48).foldl (fun s p =>
    let live := s.fld (F.portState p) == Port.up || s.fld (F.portState p) == Port.degraded ||
      s.fld (F.portState p) == Port.fenced
    (if live then s.emit (.fenceSignal p (on || s.flag (F.portFence p))) else s).settlePort p) s

/-! ### Quench (R456, R457) -/

/-- Job tags quenched in scope 1. -/
def State.quenchedJobs (s : State) : List Nat :=
  (List.range (s.fld F.quenchJobs)).map fun n => bits (s.reg (Reg.fab (0x80 + 4 * n))) 15 0

/-- Whether a packet may not be injected now. -/
def State.quenches (s : State) (p : Pkt) : Bool :=
  p.cls != 0 && (s.fab.quench0 || s.fab.quench2 || s.quenchedJobs.contains p.job)

/-- A packet that a command sent; a RESPONSE or ACK names the command of another package. -/
def ofCmd (m : Cmd) (p : Pkt) : Bool :=
  p.cls != 0 && p.ring == m.id.ring && p.seq == m.id.seq && p.job == m.job && p.type != .response && p.type != .ack

/-- A command with packets not yet injected: waiting at the Landings, or still to be made by a running transfer, whose aux says
2 once its data is made, or by a running contribution. -/
def State.hasUnsent (s : State) (m : Cmd) : Bool :=
  s.fab.outq.any (ofCmd m) ||
    (m.phase == .running && ((m.opcode == 0x93 && m.aux.head? != some 2) ||
      m.ops.any fun o => o.stage == .issued && (match o.kind with
        | .contribution _ => true
        | _ => false)))

/-- What the early end of a stream leaves: no generation, the gate open, the next stream full, and a record (R526). -/
def State.dropStream (s : State) : State :=
  if s.ck.stream.isNone then s else
  let s := { s with ck := { s.ck with stream := none } }
  let s := (s.setFld F.ckptActive 0).setFld F.fullNext 1
  (s.bump (cnt Reg.ckptEnded)).event 0 0 0x0B03 2

/-- A stream ends early, with its command's status (R526). -/
def State.endStream (s : State) (st : Status) : State :=
  match s.ck.stream.bind fun k => k.cmd with
  | some c => s.dropStream.complete c st
  | none => s.dropStream

/-- A packet of the command waits for the end of a quench. -/
def State.heldBack (s : State) (m : Cmd) : Bool := s.fab.outq.any fun p => ofCmd m p && s.quenches p

/-- Steps whose end markers are among some packets (R389). -/
def endSteps (ps : List Pkt) : List Nat := (ps.filterMap fun p => match p.body with
  | .contrib step _ _ (.fin _) => some step
  | _ => none).dedup

/-- Ends a command that has packets not yet injected: they are dropped, but for those of a COMMIT, whose apply runs on. A step
whose end markers do not leave is poisoned (R390). -/
def State.endUnsent (s : State) (m : Cmd) : State :=
  if (s.findCmd m.id).isNone then s else
  let mine := s.fab.outq.filter fun p => m.opcode != 0x60 && ofCmd m p
  let s := { s with fab := { s.fab with outq := s.fab.outq.filter fun p => !(m.opcode != 0x60 && ofCmd m p) } }
  let s := (endSteps mine).foldl (fun (s : State) k => s.raisePoison m.job k 4) s
  if (s.ck.stream.bind fun k => k.cmd) = some m.id then s.endStream ⟨St.quenched, 0, 0⟩
  else s.failCmd m.id ⟨St.quenched, 0, 0⟩

/-- Ends the commands in the scope that have packets not yet injected. -/
def State.endQuenched (s : State) (inScope : Cmd → Bool) : State :=
  (s.cmds.filter fun m => inScope m && s.hasUnsent m).foldl State.endUnsent s

def State.showQuench (s : State) : State := s.setFld F.quenchPackage (s.fab.quench0 || s.fab.quench2).toNat

/-- Quench of scope 0. -/
def State.quenchPackage (s : State) : State :=
  ({ s with fab := { s.fab with quench0 := true } }).showQuench.endQuenched fun _ => true

/-- Writes the registers of R458 from a list of jobs. -/
def State.setQuenchJobs (s : State) (jobs : List Nat) : State :=
  let s1 := (List.range 16).foldl (fun (s : State) n => s.setReg (Reg.fab (0x80 + 4 * n)) (match jobs[n]? with
    | some j => BitVec.ofNat 32 (2 ^ 31 + j)
    | none => 0)) s
  s1.setFld F.quenchJobs jobs.length

/-- A quench of a scope on this package (R456, R457). -/
def State.quenchScope (s : State) (scope job : Nat) : State :=
  if scope = 0 then s.quenchPackage
  else if scope = 2 then ({ s with fab := { s.fab with quench2 := true } }).showQuench.endQuenched fun _ => true
  else
    let jobs := s.quenchedJobs
    if jobs.contains job then s
    else if jobs.length < 16 then (s.setQuenchJobs (jobs ++ [job])).endQuenched fun m => m.job == job
    else s.quenchPackage.setFld F.quenchOverflow 1

/-- The release of a scope. -/
def State.releaseScope (s : State) (scope job : Nat) : State :=
  if scope = 0 then (({ s with fab := { s.fab with quench0 := false } }).showQuench).setFld F.quenchOverflow 0
  else if scope = 2 then ({ s with fab := { s.fab with quench2 := false } }).showQuench
  else s.setQuenchJobs (s.quenchedJobs.filter (· ≠ job))

/-! ### The hold of R513 -/

/-- An accepted COMMIT is between its lock point and its T and has not written its apply records. aux holds the lock_lead
it took at acceptance, in ns (R405). -/
def State.commitHold (s : State) : Bool :=
  s.cmds.any fun m => m.opcode == 0x60 && m.phase == .armed && decide (m.t ≤ s.tb.stime + m.aux.getD 0 0)

def State.hold (s : State) (h : HeldEntry) : State := { s with rst := { s.rst with held := s.rst.held ++ [h] } }

/-! ### QUIESCED (R502) -/

/-- Jobs with accepted commands whose abort is not yet raised. -/
def State.jobsToAbort (s : State) : List Nat := s.activeJobs.filter fun j => !(s.rst.jobs.any fun r => r.job == j)

/-- The abort reason of an entry (R509), by its qcause code. -/
def quiesceReason (qcause : Nat) : Nat := if qcause = 1 then 7 else if qcause = 2 then 5 else 6

/-- Entering QUIESCED, from READY or RUNNING (R501). -/
def State.enterQuiesced (s : State) (qcause : Nat) (cmd : Option CmdId) : State :=
  if s.fld F.devState ≠ Dev.ready ∧ s.fld F.devState ≠ Dev.running then s else
  let s := (s.setDev Dev.quiesced).setFld F.qcause qcause
  let s := s.abortAll (quiesceReason qcause) s.jobsToAbort
  let s := s.endStream ⟨St.quenched, 0, 0⟩
  let s := { s with rst := { s.rst with stopped := true, quiesceAt := s.tb.stime, ownQuench := !s.fab.quench0 } }
  let s := s.quenchPackage.fenceOwn true
  match cmd with
  | some c => s.complete c okStatus
  | none => s

/-- Asks for QUIESCED: held between a lock point and its T (R513). -/
def State.askQuiesce (s : State) (qcause : Nat) (cmd : Option CmdId := none) : State :=
  if s.commitHold then s.hold (.quiesce qcause cmd) else s.enterQuiesced qcause cmd

/-! ### RESETTING (R504, R506, R507) -/

/-- The states a warm reset request takes effect in (R501). -/
def State.canReset (s : State) : Bool :=
  [Dev.ready, Dev.running, Dev.quiesced, Dev.retired].contains (s.fld F.devState)

/-- A counted reset enters the history (R507). -/
def State.countReset (s : State) (cause : Nat) : State :=
  if cause = 5 then s else { s with rst := { s.rst with history := s.rst.opsec :: s.rst.history } }

/-- Actions 1 to 4 of a warm reset; action 5 is WARM_RESET_ACTIONS_DONE's. -/
def State.beginReset (s : State) (cause : Nat) : State :=
  let s := s.countReset cause
  let s := (s.setDev Dev.resetting).setFld F.cause cause
  let s := (s.abortAll 1 s.jobsToAbort).dropStream
  let s := s.fenceOwn true
  (List.range 12).foldl (fun (s : State) k => s.setFld (F.selfRefresh k) 1) s

/-- reset_timeout of RST.CFG in s; 0 is taken as 1 (R533). -/
def State.resetLimit (s : State) : Nat := max 1 (s.fld F.resetTimeout)

/-- A warm reset begins, and Control Die B's watchdog is armed for reset_timeout, in operating seconds (R506, assumption 90). -/
def State.enterReset (s : State) (cause : Nat) : State :=
  if s.canReset then
    let due := s.rst.opsec + s.resetLimit
    let s := s.beginReset cause
    { s with rst := { s.rst with wdB := true, wdA := false, wdDue := due, pinHeld := none } }
  else s

/-- Asks for a warm reset: held between a lock point and its T (R513). -/
def State.askReset (s : State) (cause : Nat) : State :=
  if !s.canReset then s
  else if s.commitHold then
    let s := s.hold (.reset cause)
    if cause = 1 then { s with rst := { s.rst with pinHeld := some s.tb.stime } } else s
  else s.enterReset cause

/-- Raises the abort of an ABORT_JOB and completes it. -/
def State.abortByCommand (s : State) (job : Nat) (c : CmdId) : State := (s.raiseAbort job 8).complete c okStatus

def State.doHeld (s : State) : List HeldEntry → State
  | [] => s
  | .quiesce q c :: hs => (s.enterQuiesced q c).doHeld hs
  | .reset c :: hs => (s.enterReset c).doHeld hs
  | .abort j c :: hs => (s.abortByCommand j c).doHeld hs

/-- The longest hold of a pin reset: the largest lock_lead of R417, in ns. -/
def pinHoldMax : Nat := 255000

/-- What R513 held takes place once nothing holds it; a pin reset waits at most the largest lock_lead. -/
def State.releaseHeld (s : State) : State :=
  if s.commitHold then
    match s.rst.pinHeld with
    | some t => if t + pinHoldMax ≤ s.tb.stime then
        ({ s with rst := { s.rst with held := s.rst.held.filter fun h => h != HeldEntry.reset 1 } }).enterReset 1 else s
    | none => s
  else
    let hs := s.rst.held
    ({ s with rst := { s.rst with held := [], pinHeld := none } }).doHeld hs

/-! ### The commands QUIESCE, RESUME, PKG_RESET, READMIT, ABORT_JOB (R508, R511, R512, R532) -/

def runQuiesce (c : CmdId) (s : State) : State := s.run c 0x76 fun _ s => s.askQuiesce 1 (some c)

def execQuiesce (c : CmdId) (s : State) : Host.Outcome State Fault Refusal := fin (runQuiesce c s)

/-- RESUME undoes the stop of issue, the fences and the quench that the entry set (assumption 34). -/
def runResume (c : CmdId) (s : State) : State :=
  s.run c 0x77 fun _ s =>
    if s.fld F.devState = Dev.quiesced ∧ s.fld F.qcause = 1 then
      let s := if s.rst.ownQuench then s.releaseScope 0 0 else s
      let s := { s with rst := { s.rst with stopped := false, ownQuench := false } }
      let s := ((s.fenceOwn false).setFld F.qcause 0).setDev Dev.running
      s.complete c okStatus
    else s.refuse c (oor 0)

def execResume (c : CmdId) (s : State) : Host.Outcome State Fault Refusal := fin (runResume c s)

/-- PKG_RESET: no reply is written. -/
def runPkgReset (c : CmdId) (s : State) : State := s.run c 0x74 fun _ s => (s.vanish c).askReset 2

def execPkgReset (c : CmdId) (s : State) : Host.Outcome State Fault Refusal := fin (runPkgReset c s)

/-- READMIT (R508): no reply is written when it is accepted. -/
def runReadmit (c : CmdId) (s : State) : State :=
  s.run c 0x75 fun m s =>
    if m.word 4 = 0xAD000000 + s.pkg then
      (({ s with rst := { s.rst with retired := false, history := [] } }).vanish c).askReset 5
    else s.refuse c (oor 4)

def execReadmit (c : CmdId) (s : State) : Host.Outcome State Fault Refusal := fin (runReadmit c s)

/-- ABORT_JOB with clear set (R511, R512). -/
def State.clearAbort (s : State) (job : Nat) : State :=
  if job = 0 then
    (({ s with rst := { s.rst with jobs := [] } }).setFld F.abortCount 0).setFld F.abortOverflow 0
  else
    let jobs := s.rst.jobs.filter fun j => j.job != job
    ({ s with rst := { s.rst with jobs := jobs } }).setFld F.abortCount jobs.length

def runAbortJob (c : CmdId) (s : State) : State :=
  s.run c 0x78 fun m s =>
    let j := m.bits 4 15 0
    if m.bits 4 31 31 = 1 then (s.clearAbort j).complete c okStatus
    else if s.commitHold then s.hold (.abort j c)
    else s.abortByCommand j c

def execAbortJob (c : CmdId) (s : State) : Host.Outcome State Fault Refusal := fin (runAbortJob c s)

/-! ### Events -/

/-- Every engine, sampler, streamer and Landing injection queue is idle (R503). -/
def State.packageIdle (s : State) : Bool :=
  (s.busyCmds.all fun m => !m.busy) && s.fab.outq.isEmpty && s.erm.adds.isEmpty

/-- quiesce_timeout of RST.CFG in ns; 0 is taken as 1 ms. -/
def State.quiesceLimit (s : State) : Nat := 1000000 * max 1 (s.fld F.quiesceTimeout)

def quiesceExpiry (s : State) : State :=
  if s.fld F.devState = Dev.quiesced ∧ s.rst.quiesceAt + s.quiesceLimit ≤ s.tb.stime ∧ s.packageIdle = false then
    s.askReset 3
  else s

def execQuiesceTimeout (s : State) : Host.Outcome State Fault Refusal := fin (quiesceExpiry s)

/-- MOD_RESET_N: an assertion of at least 1 µs counts (R539). -/
def pinReset (pin : ResetPin) (s : State) : State :=
  match pin with
  | .pulse ns => if 1000 ≤ ns then s.askReset 1 else s
  | .held => ({ s with board := { s.board with resetN := false } }).askReset 1
  | .released => { s with board := { s.board with resetN := true } }

def execModResetNAssert (pin : ResetPin) (s : State) : Host.Outcome State Fault Refusal := fin (pinReset pin s)

/-- An abort notice from another package (R453, R454, R510). -/
def abortNotice (p : Pkt) (inPort : Option Nat) (s : State) : State :=
  let s := { s with fab := { s.fab with inbox := s.fab.inbox.erase p } }
  let r := s.recvFlood p inPort
  if r.2 then (r.1.abortJob p.job p.src p.stime).releaseHeld else r.1

def execJobAbortNotice (p : Pkt) (inPort : Option Nat) (s : State) : Host.Outcome State Fault Refusal :=
  fin (abortNotice p inPort s)

end Sys2Proof.Machine
end

