-- ==== Sys2Proof/Machine/Walks.lean ====
section
/-! DEFINITION. The walks of a program (R133) and the operations of each (R137): their order, the engines they run on (R260,
R261, R319, R368), and the operand tiles each one needs. -/

namespace Sys2Proof.Machine

open Fp

/-! ### Walks -/

/-- One walk of one layer. -/
structure Walk where
  pos : Nat
  l   : Layer
  bwd : Bool
deriving DecidableEq, Repr

/-- GATHER_RUN and CHAIN_RUN count a layer they skip (R187, R367). -/
def Cmd.countsAll (m : Cmd) : Bool := m.opcode == 0x32 || m.opcode == 0x50

/-- The walks of a command in order, one unit each. -/
def Cmd.walks (m : Cmd) (p : Program) : List Walk :=
  let ls := p.layers.zipIdx
  let f := if m.dirs.1 then (ls.filter fun q => m.countsAll || q.1.fwd).map fun q => ⟨q.2, q.1, false⟩ else []
  let b := if m.dirs.2 then ((ls.filter fun q => m.countsAll || q.1.bwd).map fun q => ⟨q.2, q.1, true⟩).reverse else []
  f ++ b

/-- Forward units of a command; the backward ones follow. -/
def Cmd.fwdUnits (m : Cmd) (p : Program) : Nat := ((m.walks p).filter fun w => !w.bwd).length

/-- The micro-batch number of a program. -/
def Cmd.mb (m : Cmd) : Nat := m.word 7

/-! ### Placement -/

def zeroNat (_ : Nat) : Nat := 0

/-- Numbers the elements of each class from 0. -/
def numbered (key : α → Nat) : List α → Tab Nat → List (α × Nat)
  | [], _ => []
  | a :: as, t =>
    let n := Tab.get zeroNat t (key a)
    (a, n) :: numbered key as (Tab.put zeroNat t (key a) (n + 1))

/-- The class of an operation within its Hall (R261). -/
def classKey (o : Op) : Nat :=
  o.hall + 16 * (match o.unit with
    | .array => if o.side = 2 then 1 else 0
    | .sparse => 2
    | .drain => 3
    | _ => 4)

/-- The array that takes operation n of a class of single-array operations of a Hall: tile and side. -/
def State.arrayFor (s : State) (h n : Nat) : Nat × Nat :=
  let e := n % (2 * s.hallTiles)
  (640 * h + e / 2, e % 2)

/-- Puts operation n of its class on its engine. -/
def State.placeOp (s : State) (o : Op) (n : Nat) : Op :=
  match o.unit with
  | .array =>
    if o.side = 2 then { o with tile := s.tileFor o.hall n }
    else let e := s.arrayFor o.hall n; { o with tile := e.1, side := e.2 }
  | .sparse => { o with tile := s.tileFor o.hall n }
  | .drain => { o with tile := s.tileFor o.hall n }
  | _ => o

def State.placeOps (s : State) (os : List Op) : List Op := (numbered classKey os []).map fun q => s.placeOp q.1 q.2

/-! ### Matrix layers -/

def arrayOp (k : OpKind) (h : Nat) : Op := { kind := k, hall := h, unit := .array }
def pairOp (k : OpKind) (h : Nat) : Op := { kind := k, hall := h, unit := .array, side := 2 }
def sparseOp (k : OpKind) (h : Nat) : Op := { kind := k, hall := h, unit := .sparse }
def drainOp (k : OpKind) (h : Nat) (draws : Bool) : Op := { kind := k, hall := h, unit := .drain, draws := draws }

/-- An operation of the Hall Scheduler itself, on the first Hall of a mask. -/
def schedOp (k : OpKind) (halls : Nat) : Op :=
  let h := (hallsOf halls).headD 0
  { kind := k, hall := h, tile := 640 * h, unit := .scheduler }

/-- The operations that form output tile (mb, nb) of a forward walk. -/
def State.fwdTileOps (s : State) (L : MatLayer) (mb nb : Nat) : List Op :=
  let h := s.blockHall L mb
  if L.l.op = 0 then [{ arrayOp (.fwd L.pos mb nb) h with draws := L.sp.round }]
  else
    (List.range L.kbs).filterMap (fun kb =>
      let tag := s.wTag L kb nb
      if tag = 3 then none
      else some ((if isSpTag tag then sparseOp else arrayOp) (.chunk L.pos mb nb kb) h)) ++
    [drainOp (.drain L.pos mb nb) h L.sp.round]

def blocks (rows cols : Nat) : List (Nat × Nat) :=
  (List.range rows).flatMap fun i => (List.range cols).map fun j => (i, j)

def State.fwdOps (s : State) (L : MatLayer) : List Op :=
  (if L.sp.zout then [schedOp (.init L.pos false) L.l.halls] else []) ++
    (blocks L.mbs L.nbs).flatMap fun q => s.fwdTileOps L q.1 q.2

/-- A layer's pre-activations on a Hall are recomputed (R274). -/
def State.recomputes (s : State) (m : Cmd) (p : Program) (L : MatLayer) (h : Nat) : Bool :=
  match s.zPlace m p L h with
  | .recompute => true
  | _ => false

/-- The recompute operation of z tile (mb, nb) of a layer. -/
def State.recomputeOps (s : State) (P : MatLayer) (h mb nb : Nat) : List Op :=
  if P.l.op = 0 then [arrayOp (.recompute P.pos mb nb) h]
  else
    (List.range P.kbs).filterMap (fun kb =>
      let tag := s.wTag P kb nb
      if tag = 3 then none
      else some ((if isSpTag tag then sparseOp else arrayOp) (.rechunk P.pos mb nb kb) h)) ++
    [drainOp (.recompute P.pos mb nb) h false]

/-- The producer layer of dmode 1. -/
def Cmd.producer (m : Cmd) (p : Program) (L : MatLayer) : Option MatLayer :=
  if L.sp.dmode = 1 then (p.layers[L.sp.dlayer]?).map (m.matLayer p L.sp.dlayer) else none

/-- What comes before the products of row block mb: recomputed tiles, the producer's as it keeps them on its own Hall of the row
block, and the pre-pass. -/
def State.prepOps (s : State) (m : Cmd) (p : Program) (L : MatLayer) (h mb : Nat) : List Op :=
  (match m.producer p L with
    | some P => if L.dx.isSome && s.recomputes m p P (s.blockHall P mb) then
        (List.range L.kbs).flatMap fun ib => s.recomputeOps P h mb ib else []
    | none => []) ++
  (if L.sp.dmode = 2 then
    (if s.recomputes m p L h then (List.range L.nbs).flatMap fun nb => s.recomputeOps L h mb nb else []) ++
      (List.range L.nbs).map fun nb => drainOp (.pre L.pos mb nb) h false
   else [])

/-- The operations of dx tile (mb, ib) and the dw chunks that go with it (R276, R318). -/
def State.bwdTileOps (s : State) (L : MatLayer) (h mb ib : Nat) : List Op :=
  if L.l.op = 0 then [{ pairOp (.pair L.pos mb ib) h with draws := L.sp.round && L.dx.isSome }]
  else
    (List.range L.nbs).flatMap (fun nb =>
      let tag := s.wTag L ib nb
      let full := if L.sp.dwFull && L.dw.isSome then [arrayOp (.dwFull L.pos mb ib nb) h] else []
      if tag = 0 then [pairOp (.triple L.pos mb ib nb) h]
      else if tag = 3 then full
      else (if L.dx.isSome || (L.dw.isSome && !L.sp.dwFull) then [sparseOp (.triple L.pos mb ib nb) h] else []) ++ full) ++
    (if L.dx.isSome then [drainOp (.drainDx L.pos mb ib) h L.sp.round] else [])

def State.bwdOps (s : State) (m : Cmd) (p : Program) (L : MatLayer) : List Op :=
  (if L.dw.isSome && !L.sp.dwAcc then [schedOp (.init L.pos true) L.l.halls] else []) ++
    (List.range L.mbs).flatMap fun mb =>
      let h := s.blockHall L mb
      s.prepOps m p L h mb ++ (List.range L.kbs).flatMap fun ib => s.bwdTileOps L h mb ib

/-! ### MATMUL (R296) -/

structure MM where
  a     : Tensor
  b     : Tensor
  c     : Tensor
  ta    : Bool
  tb    : Bool
  acc   : Bool
  round : Bool
  func  : Nat
  alpha : W
  halls : Nat
deriving DecidableEq, Repr

def Cmd.matmulOf (m : Cmd) : MM :=
  { a := m.rawTensor 4, b := m.rawTensor 6, c := m.rawTensor 8, ta := m.bits 10 31 31 == 1, tb := m.bits 10 30 30 == 1,
    acc := m.bits 10 29 29 == 1, round := m.bits 10 28 28 == 1, func := m.bits 10 27 24, alpha := m.words.getD 11 0,
    halls := m.bits 12 15 0 }

def MM.m (q : MM) : Nat := q.a.size (if q.ta then 0 else 1)
def MM.k (q : MM) : Nat := q.a.size (if q.ta then 1 else 0)
def MM.n (q : MM) : Nat := q.b.size (if q.tb then 1 else 0)
def MM.nbs (q : MM) : Nat := upDiv q.n 32

def State.matmulOps (s : State) (q : MM) : List Op :=
  (blocks (upDiv q.m 32) q.nbs).zipIdx.map fun t =>
    let h := maskHall q.halls t.2
    let e := s.arrayFor h (t.2 / max 1 (hallsOf q.halls).length)
    { kind := .matmul t.1.1 t.1.2, hall := h, tile := e.1, side := e.2, unit := .array, draws := q.round, part := t.2,
      onDie := decide (q.c.tier < 3) }

/-! ### Other layers -/

/-- The operations of a vector chain layer (R368). -/
def State.chainOps (s : State) (m : Cmd) (p : Program) (w : Walk) : List Op :=
  match m.chainLayer p w.l w.bwd with
  | none => []
  | some L => (List.range L.ops).map fun n =>
      let t := s.chainTile L n
      { kind := .chain w.pos n w.bwd, hall := t / 640, tile := t, unit := .vector, draws := decide (0 < L.c.rands) }

/-- An operation of the Gather Engine whose gallery begins with a tile. -/
def engineOp (k : OpKind) (engine : Nat) : Op := { kind := k, hall := engine / 640, tile := engine, unit := .gather }

/-- The tensor into whose rows a walk of a gather or scatter layer adds (R196, R197). -/
def Cmd.addsInto (m : Cmd) (p : Program) (w : Walk) : Option Tensor :=
  if w.l.op = 3 then (if w.bwd then none else m.tableTensor p w.l.y)
  else if w.bwd ∧ (gspec w.l).src = 0 then m.tableTensor p w.l.dw else none

/-- The Gather Engines of a walk: each designated engine of the rows it adds into (R199), else one (assumption 22). -/
def State.walkEngines (s : State) (m : Cmd) (p : Program) (w : Walk) : List Nat :=
  match m.addsInto p w with
  | some t => s.destEngines t w.l.halls
  | none => [s.walkEngine w.l.halls w.pos]

/-- The tile of a sample layer's job. -/
def Cmd.sampleTile (m : Cmd) (l : Layer) : Nat := wbits (m.capAt (ptrAt l.words 6) 64) 1 13 0

/-- The operations of one walk, in walk order. -/
def State.layerOps (s : State) (m : Cmd) (p : Program) (w : Walk) : List Op :=
  if !(if w.bwd then w.l.bwd else w.l.fwd) then [] else
  match w.l.op with
  | 0 | 1 =>
    let L := m.matLayer p w.pos w.l
    s.placeOps (if w.bwd then s.bwdOps m p L else s.fwdOps L)
  | 2 => (s.walkEngines m p w).map (engineOp (.gather w.pos w.bwd))
  | 3 => (s.walkEngines m p w).map (engineOp (.scatter w.pos w.bwd))
  | 4 => s.chainOps m p w
  | 5 =>
    let t := m.sampleTile w.l
    [{ kind := .sample w.pos, hall := t / 640, tile := t, unit := .sampler, draws := true }]
  | _ =>
    match layerStep m.mb w.l with
    | some k => [{ schedOp (.contribution w.pos) w.l.halls with pos := k }]
    | none => []

/-- The outputs of a walk, as the progress marker sees them (R295); a saved tensor in the Attic lies on die. -/
def State.walkOnDie (s : State) (m : Cmd) (p : Program) (w : Walk) : Bool :=
  let t := m.tableTensor p
  let die := fun (x : Option Tensor) => match x with
    | some x => decide (x.tier < 3)
    | none => false
  match w.l.op with
  | 0 | 1 =>
    let L := m.matLayer p w.pos w.l
    if w.bwd then die L.dx || die L.dw
    else
      let attic := w.l.keep && (hallsOf w.l.halls).any fun h => (s.atticPlan m p h).any fun q => q.1 == w.pos
      die L.y || die L.yz || (L.sp.pred && die L.mask) || attic || (!w.l.keep && !w.l.recompute && die L.saved)
  | 2 => if w.bwd then die (t w.l.dx) || die (t w.l.dw)
    else die (t w.l.y) || die (t (gspec w.l).slot) || die (t (gspec w.l).uniq)
  | 3 => if w.bwd then die (t w.l.dx) else die (t w.l.y)
  | 4 => let c := chainOf w.l w.bwd; die (t c.out) || die (t c.aux)
  | 5 => die (t w.l.path)
  | _ => die (t w.l.dw)

/-! ### Operand tiles -/

/-- The tiles of an operand row or column: tensor index, stored tile row, stored tile column. -/
abbrev TileRef := Nat × Nat × Nat

def MatLayer.wRef (L : MatLayer) (kb nb : Nat) : TileRef := if L.sp.wt then (L.l.w, nb, kb) else (L.l.w, kb, nb)

/-- Every weight tile of a sparse tensor that feeds an output tile: its tag must be known and right (R325). -/
def MatLayer.spRefs (L : MatLayer) (refs : List TileRef) : List TileRef :=
  match L.w with
  | some t => if t.sparse then refs else []
  | none => []

def MatLayer.maskRef (L : MatLayer) (mb : Nat) : List TileRef := if L.sp.pred then [(L.sp.mask, mb, 0)] else []

/-- The dy tile that dz is formed from: with dmode 2 the Store Room holds dz itself (R279). -/
def MatLayer.dyRef (L : MatLayer) (mb nb : Nat) : List TileRef := if L.sp.dmode = 2 then [] else [(L.l.dy, mb, nb)]

/-- The operand tiles of an operation of a matrix layer. -/
def Cmd.matRefs (m : Cmd) (p : Program) (L : MatLayer) : OpKind → List TileRef
  | .fwd _ mb nb => (List.range L.kbs).flatMap (fun kb => [(L.l.x, mb, kb), L.wRef kb nb]) ++ [(L.sp.bias, 0, nb)]
  | .recompute _ mb nb =>
    if L.l.op = 0 then (List.range L.kbs).flatMap (fun kb => [(L.sp.ckpt, mb, kb), L.wRef kb nb]) ++ [(L.sp.bias, 0, nb)]
    else L.spRefs ((List.range L.kbs).map fun kb => L.wRef kb nb) ++ [(L.sp.bias, 0, nb)]
  | .rechunk _ mb nb kb => [(L.sp.ckpt, mb, kb), L.wRef kb nb]
  | .pre _ mb nb => [(L.l.dy, mb, nb), (L.l.saved, mb, nb)]
  | .pair _ mb ib =>
    (List.range L.nbs).flatMap (fun nb => L.dyRef mb nb ++ if L.dx.isSome then [L.wRef ib nb] else []) ++
      (if L.dw.isSome then [(L.l.x, mb, ib)] else []) ++
      (if L.dx.isSome then (match m.producer p L with
        | some P => [(P.l.saved, mb, ib)]
        | none => []) else [])
  | .chunk _ mb nb kb => [(L.l.x, mb, kb), L.wRef kb nb] ++ L.maskRef mb
  | .drain _ mb nb => L.spRefs ((List.range L.kbs).map fun kb => L.wRef kb nb) ++ [(L.sp.bias, 0, nb)] ++ L.maskRef mb
  | .triple _ mb ib nb => L.dyRef mb nb ++ [L.wRef ib nb] ++ if L.dw.isSome then [(L.l.x, mb, ib)] else []
  | .dwFull _ mb ib nb => L.dyRef mb nb ++ [(L.l.x, mb, ib)] ++ L.spRefs [L.wRef ib nb]
  | .drainDx _ mb ib =>
    L.spRefs ((List.range L.nbs).map fun nb => L.wRef ib nb) ++ (match m.producer p L with
      | some P => [(P.l.saved, mb, ib)]
      | none => [])
  | _ => []

/-- The layer an operation belongs to. -/
def OpKind.layer : OpKind → Nat
  | .fwd l _ _ => l
  | .recompute l _ _ => l
  | .rechunk l _ _ _ => l
  | .pre l _ _ => l
  | .pair l _ _ => l
  | .chunk l _ _ _ => l
  | .drain l _ _ => l
  | .triple l _ _ _ => l
  | .dwFull l _ _ _ => l
  | .drainDx l _ _ => l
  | .init l _ => l
  | .chain l _ _ => l
  | .gather l _ => l
  | .scatter l _ => l
  | .sample l => l
  | .contribution l => l
  | .matmul _ _ => 0

/-- A byte lies where an operation on a tile can read it (R137 item 1): on the tile, or in its Hall's Attic. -/
def nearTile (tier addr tile : Nat) : Bool :=
  match tier with
  | 0 => addr / 2 ^ 18 == tile
  | 1 => addr / 2 ^ 16 == tile
  | 2 => hallOf 2 addr == tile / 640
  | _ => false

/-- A stored tile, with the scale bytes of MXFP4, lies where the operation can read it. -/
def State.residesAt (s : State) (t : Tensor) (row col tile : Nat) : Bool :=
  let c := if t.ndim = 1 then [32 * col] else [32 * col, 32 * row]
  nearTile t.tier (s.elemAddr t c) tile && (!isMx t.fmt || nearTile t.metaTier (t.scaleAddr c) tile)

/-- A tile of z of a layer lies in the Attic of the layer's Hall of its row block, or is recomputed: nothing is fetched for it. -/
def State.zNear (s : State) (m : Cmd) (p : Program) (r : TileRef) : Bool :=
  (m.matLayers p).any fun L => L.l.saved == r.1 && r.1 != noTensor && (match s.zPlace m p L (s.blockHall L r.2.1) with
    | .at_ t _ => t.tier == 2
    | .recompute => true
    | .none => true)

/-- Some elements of a tensor, and their scale bytes, lie in a tile's Store Room (R343). -/
def State.inStoreRoom (s : State) (t : Tensor) (tile : Nat) (cells : List (List Nat)) : Bool :=
  t.tier == 0 && (cells.all fun c => s.elemAddr t c / 2 ^ 18 == tile) &&
    (!isMx t.fmt || (t.metaTier == 0 && cells.all fun c => t.scaleAddr c / 2 ^ 18 == tile))

/-- The sources of a chain's operation that must be brought into its tile's Store Room (R343): a row's elements ascend, so its
first and its last tell. -/
def State.chainNeeds (s : State) (m : Cmd) (p : Program) (L : ChainLayer) (n tile : Nat) : List TileRef :=
  let shape := L.rowsOf n
  let ends := shape.1.flatMap fun r => [shape.2.1 :: r, (shape.2.1 + (shape.2.2 - 1)) :: r]
  ([L.c.in0, L.c.in1, L.c.in2].filter fun i => match m.tableTensor p i with
    | none => false
    | some t => !s.inStoreRoom t tile ((ends.map (srcCoord t)).dedup)).map fun i => (i, n, 0)

/-- The operand tiles of a program's operation that something must still bring. -/
def State.opNeeds (s : State) (m : Cmd) (p : Program) (o : Op) : List TileRef :=
  match p.layers[o.kind.layer]?, o.kind with
  | none, _ => []
  | some q, .chain _ n bwd => match m.chainLayer p q bwd with
    | some L => s.chainNeeds m p L n o.tile
    | none => []
  | some q, k =>
    if 1 < q.op then [] else
    let L := m.matLayer p k.layer q
    (m.matRefs p L k).dedup.filter fun r => match m.tableTensor p r.1 with
      | none => false
      | some t => (L.sp.pred && r.1 == L.sp.mask) ||
          !(s.residesAt t r.2.1 r.2.2 o.tile || s.zNear m p r)

def MM.refs (q : MM) (mb nb : Nat) : List TileRef :=
  (List.range (upDiv q.k 32)).flatMap (fun kb =>
    [if q.ta then (0, kb, mb) else (0, mb, kb), if q.tb then (1, nb, kb) else (1, kb, nb)]) ++
  if q.acc then [(2, mb, nb)] else []

def MM.operand (q : MM) : Nat → Tensor
  | 0 => q.a
  | 1 => q.b
  | _ => q.c

def State.matmulNeeds (s : State) (q : MM) (o : Op) : List TileRef :=
  match o.kind with
  | .matmul mb nb => (q.refs mb nb).filter fun r => !s.residesAt (q.operand r.1) r.2.1 r.2.2 o.tile
  | _ => []

/-- The operations of one walk; where it has none and yet has an output on die (a sparse backward walk whose weight tiles are
all absent), one that has ended stands for that output in the progress marker (R113, R295). -/
def State.walkOps (s : State) (m : Cmd) (p : Program) (w : Walk) (die : Bool) : List Op :=
  let os := s.layerOps m p w
  if os.isEmpty && die && w.l.op == 1 && w.bwd && w.l.bwd then [{ schedOp (.init w.pos true) w.l.halls with stage := .done }]
  else os

/-- All operations of a program, in walk order, with their needs. -/
def State.programOps (s : State) (m : Cmd) (p : Program) : List Op :=
  (m.walks p).zipIdx.flatMap fun w =>
    let die := s.walkOnDie m p w.1
    (s.walkOps m p w.1 die).map fun o => { o with part := w.2, onDie := die, needs := s.opNeeds m p o }

end Sys2Proof.Machine
end

