-- ==== Sys2Proof/Machine/Issue.lean ====
section
/-! DEFINITION. The issue rule (R137 to R140): what an operation reads, writes and accumulates, what it waits for, the stall
counters, and OPERATION_ISSUE. -/

namespace Sys2Proof.Machine

/-! ### Regions -/

/-- A range of one tier, in bits: from lo up to hi. -/
structure Span where
  tier : Nat
  lo   : Nat
  hi   : Nat
deriving DecidableEq, Repr

def Span.meets (a b : Span) : Bool := a.tier == b.tier && decide (a.lo < b.hi) && decide (b.lo < a.hi)

def spansMeet (a b : List Span) : Bool := a.any fun x => b.any fun y => x.meets y

/-- The byte range of a span. -/
def Span.bytes (x : Span) : Nat × Nat := (x.lo / 8, (x.hi + 7) / 8 - x.lo / 8)

/-- Reads spans: tier after tier; an uncorrectable unit with its tier. -/
def State.touchSpans (s : State) (l : List Span) : State × Option (Nat × Nat) :=
  (List.range 6).foldl (fun acc tier =>
    let rs := (l.filter fun x => x.tier == tier).map Span.bytes
    if rs.isEmpty then acc else
    let r := acc.1.touchSet tier rs
    (r.1, acc.2 <|> r.2.map fun a => (tier, a))) (s, none)

/-- The first bit of an element. -/
def State.elemBit (s : State) (t : Tensor) (c : List Nat) : Nat :=
  let p := s.place t c
  8 * p.1 + p.2 * (4 * t.halves)

def State.cellSpan (s : State) (t : Tensor) (c : List Nat) : Span :=
  ⟨t.tier, s.elemBit t c, s.elemBit t c + 4 * t.halves⟩

/-- The scale bytes of the MXFP4 blocks that some elements lie in (R59). -/
def Tensor.scaleSpans (t : Tensor) (cells : List (List Nat)) : List Span :=
  if isMx t.fmt then ((cells.map t.scaleAddr).dedup).map fun a => ⟨t.metaTier, 8 * a, 8 * a + 8⟩ else []

def State.cellSpans (s : State) (t : Tensor) (cells : List (List Nat)) : List Span :=
  cells.map (s.cellSpan t) ++ t.scaleSpans cells

/-- The elements of some rows and columns of a matrix: one range a row where the row is contiguous. -/
def State.blockSpans (s : State) (t : Tensor) (rows cols : List Nat) : List Span :=
  rows.flatMap fun r =>
    (if t.stride 0 = 1 then match cols.head?, cols.getLast? with
      | some a, some b => [⟨t.tier, s.elemBit t [a, r], s.elemBit t [b, r] + 4 * t.halves⟩]
      | _, _ => []
    else cols.map fun c => s.cellSpan t [c, r]) ++ t.scaleSpans (cols.map fun c => [c, r])

/-- The whole interval a tensor addresses. -/
def State.wholeSpan (s : State) (t : Tensor) : Span := ⟨t.tier, 8 * (s.extent t).1, 8 * (s.extent t).2 + 8⟩

/-- With the scale bytes of an MXFP4 tensor. -/
def State.wholeSpans (s : State) (t : Tensor) : List Span :=
  s.wholeSpan t :: if isMx t.fmt then [⟨t.metaTier, 8 * t.metaAt, 8 * (t.metaAt + t.count / 32)⟩] else []

/-- One bit of a bit map (R332). -/
def State.mapSpan (s : State) (t : Tensor) (b : Nat) : Span :=
  let a := s.elemBit t (t.coord (b / 32)) + b % 32
  ⟨t.tier, a, a + 1⟩

/-- What an operation does to memory. -/
structure Uses where
  reads  : List Span := []
  writes : List Span := []
  accs   : List Span := []

def Uses.all : List Uses → Uses
  | [] => {}
  | u :: us => let r := Uses.all us; ⟨u.reads ++ r.reads, u.writes ++ r.writes, u.accs ++ r.accs⟩

def State.optBlock (s : State) (t : Option Tensor) (rows cols : List Nat) : List Span := match t with
  | some t => s.blockSpans t rows cols
  | none => []

def State.optMap (s : State) (t : Option Tensor) (b : Nat) : List Span := match t with
  | some t => [s.mapSpan t b]
  | none => []

/-- The weight tile (kb, nb) of a layer. -/
def State.wSpans (s : State) (L : MatLayer) (kb nb : Nat) : List Span :=
  match L.w with
  | none => []
  | some t =>
    if t.sparse then
      let i := kb * t.nb + nb
      [⟨3, 8 * slotOf t i, 8 * (slotOf t i + 2304)⟩, ⟨3, 8 * spDirAt t i, 8 * (spDirAt t i + 8)⟩]
    else if L.sp.wt then s.blockSpans t (blockLines L.n nb) (blockLines L.k kb)
    else s.blockSpans t (blockLines L.k kb) (blockLines L.n nb)

def State.biasSpans (s : State) (L : MatLayer) (nb : Nat) : List Span := match L.bias with
  | some t => (blockLines L.n nb).map fun j => s.cellSpan t [j]
  | none => []

/-- z tile (mb, nb) of a layer as stored. -/
def State.zSpans (s : State) (m : Cmd) (p : Program) (L : MatLayer) (mb nb : Nat) : List Span :=
  match s.zPlace m p L (s.blockHall L mb) with
  | .at_ t row => s.blockSpans t ((blockLines L.m mb).map row) (blockLines L.n nb)
  | _ => []

/-- What the product of row block mb of a tensor and column block nb of w reads. -/
def State.productReads (s : State) (L : MatLayer) (src : Option Tensor) (mb nb : Nat) : List Span :=
  s.optBlock src (blockLines L.m mb) (List.range L.k) ++ (List.range L.kbs).flatMap fun kb => s.wSpans L kb nb

/-- The forward Drain of tile (mb, nb). -/
def State.drainUses (s : State) (m : Cmd) (p : Program) (L : MatLayer) (mb nb : Nat) : Uses :=
  let rows := blockLines L.m mb
  let copies := nb == 0 && s.recomputes m p L (s.blockHall L mb)
  { reads := s.biasSpans L nb ++ s.optMap L.mask (mb * L.nbs + nb) ++
      if copies then s.optBlock L.x rows (List.range L.k) else []
    writes := s.optBlock L.y rows (blockLines L.n nb) ++ s.zSpans m p L mb nb ++ s.optMap L.yz (mb * L.nbs + nb) ++
      if copies then s.optBlock L.ckpt rows (List.range L.k) else [] }

/-- dw tile (ib, nb) on the Hall of a row block. -/
def State.dwSpans (s : State) (L : MatLayer) (mb ib nb : Nat) : List Span := match L.dw with
  | some t => s.blockSpans (dwOn t (s.blockHall L mb)) (blockLines L.k ib) (blockLines L.n nb)
  | none => []

/-- dz tile (mb, nb): dy, its mask, and the saved tile of a pre-pass. -/
def State.dzReads (s : State) (m : Cmd) (p : Program) (L : MatLayer) (mb nb : Nat) : List Span :=
  s.optBlock L.dy (blockLines L.m mb) (blockLines L.n nb) ++ s.optMap L.mask (mb * L.nbs + nb) ++
    if L.sp.dmode = 2 then s.zSpans m p L mb nb else []

/-- What a product takes dz tile (mb, nb) from: with dmode 2 the Store Room holds it, and the mask bit alone is read (R279). -/
def State.dzTaken (s : State) (m : Cmd) (p : Program) (L : MatLayer) (mb nb : Nat) : List Span :=
  if L.sp.dmode = 2 then s.optMap L.mask (mb * L.nbs + nb) else s.dzReads m p L mb nb

/-- What an operation reads for dw alone, or for dx alone (R276). -/
def readsFor (out : Option Tensor) (l : List Span) : List Span := if out.isSome then l else []

def State.xTile (s : State) (L : MatLayer) (mb ib : Nat) : List Span :=
  s.optBlock L.x (blockLines L.m mb) (blockLines L.k ib) ++ s.optMap L.xz (mb * L.kbs + ib)

/-- The dx Drain of tile (mb, ib). -/
def State.dxUses (s : State) (m : Cmd) (p : Program) (L : MatLayer) (mb ib : Nat) : Uses :=
  { reads := readsFor L.dx (match m.producer p L with
      | some P => s.zSpans m p P mb ib
      | none => [])
    writes := s.optBlock L.dx (blockLines L.m mb) (blockLines L.k ib) }

/-- What an operation of a matrix layer does to memory. -/
def State.matUses (s : State) (m : Cmd) (p : Program) (L : MatLayer) : OpKind → Uses
  | .fwd _ mb nb => Uses.all [{ reads := s.productReads L L.x mb nb }, s.drainUses m p L mb nb]
  | .recompute _ mb nb =>
    { reads := (if L.l.op = 0 then s.productReads L L.ckpt mb nb else []) ++ s.biasSpans L nb ++
        s.optMap L.mask (mb * L.nbs + nb) }
  | .rechunk _ mb nb kb =>
    { reads := s.optBlock L.ckpt (blockLines L.m mb) (blockLines L.k kb) ++ s.wSpans L kb nb ++
        s.optMap L.mask (mb * L.nbs + nb) ++ s.optMap L.xz (mb * L.kbs + kb) }
  | .pre _ mb nb => { reads := s.dzReads m p L mb nb }
  | .pair _ mb ib =>
    Uses.all [{ reads := (List.range L.nbs).flatMap (fun nb => s.dzTaken m p L mb nb ++ readsFor L.dx (s.wSpans L ib nb)) ++
                  readsFor L.dw (s.xTile L mb ib),
                accs := (List.range L.nbs).flatMap (s.dwSpans L mb ib) }, s.dxUses m p L mb ib]
  | .chunk _ mb nb kb =>
    { reads := s.optBlock L.x (blockLines L.m mb) (blockLines L.k kb) ++ s.wSpans L kb nb ++
        s.optMap L.mask (mb * L.nbs + nb) ++ s.optMap L.xz (mb * L.kbs + kb) }
  | .drain _ mb nb => s.drainUses m p L mb nb
  | .triple _ mb ib nb =>
    { reads := s.dzTaken m p L mb nb ++ s.wSpans L ib nb ++ readsFor L.dw (s.xTile L mb ib), accs := s.dwSpans L mb ib nb }
  | .dwFull _ mb ib nb => { reads := s.dzTaken m p L mb nb ++ s.xTile L mb ib, accs := s.dwSpans L mb ib nb }
  | .drainDx _ mb ib => s.dxUses m p L mb ib
  | .init _ bwd =>
    if bwd then { writes := match L.dw with
      | some t => (hallsOf L.l.halls).map fun h => s.wholeSpan (dwOn t h)
      | none => [] }
    else { writes := match L.yz with
      | some t => (List.range (L.mbs * L.nbs)).map (s.mapSpan t)
      | none => [] }
  | _ => {}

/-- What operation n of a chain does to memory. -/
def State.chainUses (s : State) (L : ChainLayer) (n : Nat) : Uses :=
  let shape := L.rowsOf n
  let idx := shape.1.flatMap fun r => (List.range shape.2.2).map fun j => (shape.2.1 + j) :: r
  let src := fun (t : Option Tensor) => match t with
    | some t => s.cellSpans t ((idx.map (srcCoord t)).dedup)
    | none => []
  let outs := if L.out.dim 0 = 1 then shape.1.map fun r => 0 :: r else idx
  { reads := src L.in0 ++ src L.in1 ++ src L.in2
    writes := s.cellSpans L.out ((outs.map fun c => (List.range L.out.ndim).map fun d => c.getD d 0).dedup) ++
      (match L.aux with
        | some a => shape.1.map fun r => s.mapSpan a (L.out.rowNo r)
        | none => []) }

/-- Whole tensors by index. -/
def State.spansOf (s : State) (m : Cmd) (p : Program) (idx : List Nat) : List Span :=
  idx.flatMap fun i => match m.tableTensor p i with
    | some t => s.wholeSpans t
    | none => []

/-- The rows of a destination that an engine's operation adds into (R199). -/
def State.engineSpans (s : State) (t : Option Tensor) (halls engine : Nat) : List Span := match t with
  | some t => s.blockSpans t (s.rowsAt t halls engine) (List.range t.rowLen)
  | none => []

/-- What an operation of a program does to memory. -/
def State.opUses (s : State) (m : Cmd) (p : Program) (o : Op) : Uses :=
  match p.layers[o.kind.layer]? with
  | none => {}
  | some l =>
    match o.kind with
    | .chain _ n bwd => match m.chainLayer p l bwd with
      | some L => s.chainUses L n
      | none => {}
    | .gather _ bwd =>
      let g := gspec l
      if bwd then
        { reads := s.spansOf m p [l.dy, l.path, g.offs, g.slot]
          writes := if g.src = 1 then s.spansOf m p [l.dx] else []
          accs := if g.src = 0 then s.engineSpans (m.tableTensor p l.dw) l.halls o.tile else [] }
      else { reads := s.spansOf m p [l.x, l.path, g.offs], writes := s.spansOf m p [l.y, g.slot, g.uniq] }
    | .scatter _ bwd =>
      if bwd then { reads := s.spansOf m p [l.dy, l.path], writes := s.spansOf m p [l.dx] }
      else
        let rows := s.engineSpans (m.tableTensor p l.y) l.halls o.tile
        if l.bits 6 29 29 = 1 then { reads := s.spansOf m p [l.x, l.path], writes := rows }
        else { reads := s.spansOf m p [l.x, l.path], accs := rows }
    | .sample _ => { reads := s.spansOf m p [l.x], writes := s.spansOf m p [l.path] }
    | .contribution _ =>
      let c := cspec l
      let dws := match m.tableTensor p l.dw with
        | some d => (if c.ctype = 2 then [d] else (hallsOf l.halls).map (hallDw d)).map s.wholeSpan
        | none => []
      { reads := s.spansOf m p [c.ef, c.uniq] ++ dws, writes := dws }
    | k => s.matUses m p (m.matLayer p k.layer l) k

def State.matmulUses (s : State) (q : MM) (mb nb : Nat) : Uses :=
  let rows := blockLines q.m mb
  let cols := blockLines q.n nb
  let ks := List.range q.k
  let c := s.blockSpans q.c rows cols
  { reads := (if q.ta then s.blockSpans q.a ks rows else s.blockSpans q.a rows ks) ++
      (if q.tb then s.blockSpans q.b cols ks else s.blockSpans q.b ks cols)
    writes := if q.acc then [] else c
    accs := if q.acc then c else [] }

/-- What an operation of a command does to memory. -/
def State.uses (s : State) (m : Cmd) (o : Op) : Uses :=
  match m.opcode, o.kind with
  | 0x41, .matmul mb nb => s.matmulUses m.matmulOf mb nb
  | 0x20, _ => { reads := [s.wholeSpan (m.rawTensor 6)], writes := [s.wholeSpan (m.rawTensor 8)] }
  | _, _ => s.opUses m m.rawProgram o

/-- The tensors a layer writes in the walks of a command. -/
def layerOuts (l : Layer) (fwd bwd : Bool) : List Nat :=
  let sp := matSpec l
  let g := gspec l
  (if fwd && l.fwd then [l.y, l.saved] ++ (match l.op with
    | 0 => [sp.ckpt]
    | 1 => [sp.ckpt, sp.mask, sp.yz]
    | 2 => [g.slot, g.uniq]
    | 4 => [l.bits 15 15 0]
    | 5 => [l.path]
    | _ => []) else []) ++
  (if bwd && l.bwd then [l.dx, l.dw] ++ (if l.op = 4 then [l.bits 15 15 0] else []) else [])

/-- The arrays of the shards of a COMMIT (R400): master, moments, working copy. -/
def Cmd.shardSpans (m : Cmd) : List Span :=
  let ws := m.capAt (m.ptr 4) (64 * m.bits 6 12 0)
  (List.range (m.bits 6 12 0)).flatMap fun i =>
    let w := (ws.drop (16 * i)).take 16
    let n := wordAt w 2 * wordAt w 3
    let at_ := fun (k b : Nat) => let a := wordAt w k + 2 ^ 32 * wordAt w (k + 1); (⟨3, 8 * a, 8 * (a + b * n)⟩ : Span)
    if wbits w 0 27 26 = 2 then [] else [at_ 4 4, at_ 6 8, at_ 8 2]

/-- What a command that has laid out no operations may still write: tensors of its operands, the outputs of a program that
has not started, and what a COMMIT applies from its T on. -/
def State.cmdWrites (s : State) (m : Cmd) : List Span :=
  if !m.ops.isEmpty then [] else
  match m.opcode with
  | 0x10 => s.wholeSpans (m.rawTensor 6)
  | 0x11 => s.wholeSpans (m.rawTensor 4)
  | 0x20 => s.wholeSpans (m.rawTensor 8)
  | 0x41 => s.wholeSpans (m.rawTensor 8)
  | 0x48 => let t := m.rawTensor 6; ⟨3, 8 * t.metaAt, 8 * (t.metaAt + 8 * t.kb * t.nb)⟩ :: s.wholeSpans t
  | 0x52 => s.wholeSpans (m.rawTensor 4)
  | 0x94 => s.wholeSpans (m.rawTensor 4)
  | 0x60 =>
    if m.phase = .running then
      m.shardSpans ++ (s.red.efs.filter fun e => e.due && e.job == m.job).flatMap fun e => s.wholeSpans (tensorOf e.ef 0)
    else []
  | op =>
    if op = 0x32 ∨ runsLayers op = true then
      let p := m.rawProgram
      s.spansOf m p ((p.layers.flatMap fun l => layerOuts l m.dirs.1 m.dirs.2).dedup)
    else []

/-! ### What an operation waits for -/

/-- Operations before number i of a command: its own, and those of commands accepted earlier, which run on where the command has
completed (R138, R139, R377). -/
def State.earlierOps (s : State) (m : Cmd) (i : Nat) : List (Cmd × Op) :=
  ((s.busyCmds.filter fun o => decide (o.order < m.order)).flatMap fun o => o.ops.map fun q => (o, q)) ++
    (m.ops.take i).map fun q => (m, q)

def notDone (o : Op) : Bool := o.stage != .done

/-- An earlier operation that is not done: whether an accumulation of the same layer may go on beside it once it has
issued, and what it does to memory. -/
structure Earlier where
  beside : Bool
  uses   : Uses

/-- Earlier operations that are not done, and earlier commands whose writes are still to come. Accumulations of one layer of one command meet in one chain accumulator, which
orders them (R254); any other two into one region follow each other. -/
def State.pendingUses (s : State) (m : Cmd) (i : Nat) (o : Op) : List Earlier :=
  (((s.earlierOps m i).filter fun e => notDone e.2).map fun e =>
    { beside := decide (e.1.id = m.id) && e.2.kind.layer == o.kind.layer && e.2.stage == .issued, uses := s.uses e.1 e.2 }) ++
    (s.cmds.filter fun e => decide (e.order < m.order)).map fun e => { beside := false, uses := { writes := s.cmdWrites e } }

/-- A writer of some spans has not completed. -/
def writerBusy (us : List Earlier) (spans : List Span) : Bool :=
  us.any fun e => spansMeet spans e.uses.writes || spansMeet spans e.uses.accs

/-- R137 item 3; accumulations into one region issue in order (R139). -/
def regionBusy (us : List Earlier) (u : Uses) : Bool :=
  us.any fun e =>
    spansMeet (u.writes ++ u.accs) (e.uses.reads ++ e.uses.writes) || spansMeet u.writes e.uses.accs ||
      (!e.beside && spansMeet u.accs e.uses.accs)

/-- The dw tensors of a program that has not started, on each Hall. -/
def State.laterDw (s : State) (m : Cmd) : List Span :=
  if !(m.opcode == 0x40 || m.opcode == 0x80) || !m.ops.isEmpty || !m.walksBack then [] else
  let p := m.rawProgram
  p.layers.flatMap fun l =>
    if l.op < 2 ∧ l.bwd = true then match m.tableTensor p l.dw with
      | some t => (hallsOf l.halls).map fun h => s.wholeSpan (dwOn t h)
      | none => []
    else []

/-- An earlier accepted command that has not started will accumulate into the region (R377). -/
def State.accWaits (s : State) (m : Cmd) (u : Uses) : Bool :=
  !u.accs.isEmpty && s.cmds.any fun o => decide (o.order < m.order) && spansMeet u.accs (s.laterDw o)

/-- Copies that have an outstanding writer (R413). -/
def State.copySpans (s : State) : List Span :=
  s.red.copies.map fun c => ⟨3, 8 * c.addr, 8 * (c.addr + 8192 * c.want)⟩

/-- The results in a Store Room that an operation takes from earlier ones of its walk. -/
def OpKind.takes (dlayer : Nat) (k e : OpKind) : Bool :=
  match k, e with
  | .drain l mb nb, .chunk l' mb' nb' _ => l == l' && mb == mb' && nb == nb'
  | .recompute l mb nb, .rechunk l' mb' nb' _ => l == l' && mb == mb' && nb == nb'
  | .pre l mb nb, .recompute l' mb' nb' => l == l' && mb == mb' && nb == nb'
  | .pair l mb _, .pre l' mb' _ => l == l' && mb == mb'
  | .pair _ mb ib, .recompute l' mb' nb' => dlayer == l' && mb == mb' && ib == nb'
  | .triple l mb _ nb, .pre l' mb' nb' => l == l' && mb == mb' && nb == nb'
  | .dwFull l mb _ nb, .pre l' mb' nb' => l == l' && mb == mb' && nb == nb'
  | .drainDx l mb ib, .triple l' mb' ib' _ => l == l' && mb == mb' && ib == ib'
  | .drainDx _ mb ib, .recompute l' mb' nb' => dlayer == l' && mb == mb' && ib == nb'
  | _, _ => false

/-- An earlier operation whose result this one takes is not done. -/
def Cmd.resultWaits (m : Cmd) (i : Nat) (o : Op) : Bool :=
  let dl := match m.rawLayers[o.kind.layer]? with
    | some l => (matSpec l).dlayer
    | none => noTensor
  (m.ops.take i).any fun e => notDone e && o.kind.takes dl e.kind

/-- Commands that walk a program. -/
def walksProgram (op : Nat) : Bool := op == 0x32 || runsLayers op

/-- An uncompleted command still has forward walks of a micro-batch of a program to do. -/
def Cmd.forwardLeft (o : Cmd) (mb : Nat) (p : DPtr) : Bool :=
  walksProgram o.opcode && o.dirs.1 && o.mb == mb && o.ptr 4 == p &&
    (if o.ops.isEmpty then o.phase != .running
     else let n := o.fwdUnits o.rawProgram; o.ops.any fun e => decide (e.part < n) && notDone e)

/-- A backward walk waits for the forward walk of its micro-batch, of its own command or of one accepted earlier that walks the
same program (R133; assumption 17). -/
def State.walkWaits (s : State) (m : Cmd) (o : Op) : Bool :=
  walksProgram m.opcode && decide (m.fwdUnits m.rawProgram ≤ o.part) &&
    s.cmds.any fun e => decide (e.order ≤ m.order) && e.forwardLeft m.mb (m.ptr 4)

/-- Two operations need one engine (R12 level 3, R24); a Hall's eight samplers count as one here. -/
def Op.sharesEngine (a b : Op) : Bool :=
  a.unit == b.unit && (match a.unit with
    | .scheduler => false
    | .sampler => a.hall == b.hall
    | .array => a.tile == b.tile && (a.side == b.side || a.side == 2 || b.side == 2)
    | _ => a.tile == b.tile)

/-- The operations that run. -/
def State.running (s : State) : List (Cmd × Op) :=
  (s.busyCmds.flatMap fun k => k.ops.map fun e => (k, e)).filter fun e => e.2.stage == .issued

/-- The engine of an operation is running another one (R137 item 4); a Hall has eight samplers (R159). -/
def State.engineBusy (s : State) (o : Op) : Bool :=
  let same := s.running.filter fun e => e.2.sharesEngine o
  if o.unit = .sampler then decide (8 ≤ same.length) else !same.isEmpty

/-- No earlier operation waits for the engine: the operation is the next in its engine's walk order (R140). -/
def State.isNext (s : State) (m : Cmd) (i : Nat) (o : Op) : Bool :=
  !(s.earlierOps m i).any fun e => e.2.stage == .waiting && e.2.sharesEngine o

/-! ### Scatter batches (R199 to R201) -/

/-- What a scattering operation adds: the source rows that its engine applies, in ascending position, and the values of source
row i. -/
structure Batch where
  c    : Scat
  own  : List Nat
  row  : Nat → List Val × Flags
  /-- The source tensor, and the row of it that source row i lies in. -/
  src  : Tensor
  at_  : Nat → Nat

/-- The source rows whose destination designates an engine (R199). -/
def State.ownRows (s : State) (c : Scat) (halls engine : Nat) : List Nat :=
  (List.range c.dests.length).filter fun i => s.destEngine c.dest halls (c.dests.getD i 0) == engine

/-- The additions of a scatter layer's forward walk, or of a gather layer's gradients into dw, that an operation makes. -/
def State.batchOf (s : State) (m : Cmd) (o : Op) : Option Batch :=
  let p := m.rawProgram
  match o.kind, p.layers[o.kind.layer]? with
  | .scatter _ false, some l => match s.layerScat m p l, m.tableTensor p l.x with
    | some c, some x => some { c := c, own := s.ownRows c l.halls o.tile, src := x, at_ := id,
                               row := fun i => ((List.range x.rowLen).map fun e => s.elem x [e, i], {}) }
    | _, _ => none
  | .gather _ true, some l => match m.gatherLayer p l with
    | none => none
    | some G => match s.gradScat G, G.dy, s.bags G.g G.path G.offs (s.entries G) with
      | some c, some dy, some bags => some { c := c, own := s.ownRows c l.halls o.tile, src := dy, at_ := bagOf bags,
                                             row := s.gradRow G dy bags }
      | _, _, _ => none
  | _, _ => none

/-- A destination row at or above the tensor's row count (R197). -/
def outsideDest (c : Scat) : Bool := c.dests.any fun d => decide (c.dest.rows ≤ d)

/-- The destinations of an engine's source rows from its position on. -/
def Batch.left (b : Batch) (pos : Nat) : List Nat := (b.own.drop pos).map fun i => b.c.dests.getD i 0

/-- The source rows of the batch in flight, or of the next one: since one engine applies every addition into a row in ascending
position, each earlier row of a destination of the batch has been applied or lies in the batch (R199). -/
def Batch.rows (b : Batch) (o : Op) : List Nat :=
  (b.own.drop o.pos).take (if o.stage = .issued then o.batch else batchLen (b.left o.pos))

/-- The elements of some source rows. -/
def Batch.cells (b : Batch) (rows : List Nat) : List (List Nat) :=
  (rows.map b.at_).dedup.flatMap fun r => (List.range b.src.rowLen).map fun e => [e, r]

/-- Reads the source rows of a batch. -/
def State.readBatch (s : State) (b : Batch) (rows : List Nat) : State × Option (Nat × Nat) :=
  s.touchElems b.src (b.cells rows)

/-- The destination rows and values of a batch, and its flags. -/
def Batch.adds (b : Batch) (rows : List Nat) : List (Nat × List Val) × Flags :=
  (rows.map fun i => (b.c.dests.getD i 0, (b.row i).1), Flags.all (rows.map fun i => (b.row i).2))

/-! ### Rows that an operation of a Gather Engine takes (R191) -/

/-- The tensor whose rows an operation reads, and the rows it needs. -/
def State.sourceRows (s : State) (m : Cmd) (o : Op) : Option (Tensor × List Nat) :=
  let p := m.rawProgram
  match s.batchOf m o with
  | some b => some (b.src, ((b.rows o).map b.at_).dedup)
  | none => match o.kind, p.layers[o.kind.layer]? with
    | .gather _ bwd, some l => match m.gatherLayer p l with
      | none => none
      | some G =>
        let n := (s.entries G).length
        if bwd then match G.dy, s.bags G.g G.path G.offs (s.entries G) with
          | some dy, some bags => if G.g.src = 1 then some (dy, ((List.range n).map (bagOf bags)).dedup) else none
          | _, _ => none
        else G.x.map fun x => (x, List.range n)
    | .scatter _ true, some l => match m.tableTensor p l.path, m.tableTensor p l.dx, m.tableTensor p l.dy with
      | some path, some dx, some dy => some (dy, (s.scatterDests l path dx.rows).dedup)
      | _, _, _ => none
    | _, _ => none

/-- The layer of a gather operation. -/
def Cmd.gatherOf (m : Cmd) (o : Op) : Option GatherCtx :=
  match o.kind with
  | .gather l _ => (m.rawProgram.layers[l]?).bind (m.gatherLayer m.rawProgram)
  | _ => none

def OpKind.backward : OpKind → Bool
  | .gather _ b => b
  | .scatter _ b => b
  | .chain _ _ b => b
  | _ => false

/-- The table rows that an operation reads. -/
def State.tableRows (s : State) (m : Cmd) (o : Op) : List Nat := match m.gatherOf o with
  | some G => if G.readsTable o.kind.backward then distinctRows ((s.entries G).map entryRow) else []
  | none => []

/-- Rows of a gather or scatter batch that are still to come: table rows, and rows of a tensor that lies off die. -/
def State.rowsWaiting (s : State) (m : Cmd) (o : Op) : Bool :=
  ((s.tableRows m o).any fun r => !o.has r) ||
    match s.sourceRows m o with
    | some (t, rows) => decide (3 ≤ t.tier) && rows.any fun r => !o.has r
    | none => false

/-- The tiles whose Banked Accumulator Buffers take a batch's additions (R323). -/
def State.scatterTiles (s : State) (m : Cmd) (o : Op) : List Nat :=
  match s.batchOf m o with
  | some b =>
    if b.c.dest.tier = 1 then ((b.rows o).map fun i => s.elemAddr b.c.dest [0, b.c.dests.getD i 0] / 2 ^ 16).dedup else []
  | none => []

/-- R323: a scatter batch into a tile's Banked Accumulator Buffer and a Sparse Engine operation of that tile exclude each
other. -/
def State.excluded (s : State) (m : Cmd) (o : Op) : Bool :=
  if o.unit = .sparse then s.running.any fun e => (s.scatterTiles e.1 e.2).contains o.tile
  else
    let ts := s.scatterTiles m o
    s.running.any fun e => e.2.unit == .sparse && ts.contains e.2.tile

/-! ### Draws (R363) -/

/-- The tiles a command is still to draw on: of its operations, or of those it will lay out. -/
def State.drawTiles (s : State) (o : Cmd) : List Nat :=
  if !o.willDraw then o.drawing.map (·.tile) else
  match o.opcode with
  | 0x20 => [wbits (o.capAt (o.ptr 4) 64) 1 13 0]
  | 0x41 => (s.matmulOps o.matmulOf).map (·.tile)
  | _ => ((s.programOps o o.rawProgram).filter (·.draws)).map (·.tile)

/-- An earlier drawing operation on the tile, in walk order and order of acceptance, has not completed (R159, R363). -/
def State.drawWaits (s : State) (m : Cmd) (i tile : Nat) : Bool :=
  (s.busyCmds.any fun o => decide (o.order < m.order) && (o.ordersDraws || (s.drawTiles o).contains tile)) ||
    (m.ops.take i).any fun q => q.draws && q.tile == tile && q.stage != .done

/-! ### Output space (R137 item 2, R138, R254, R320) -/

/-- Bytes of an output tile of 32 × 32 FP32 results. -/
def tileBytes : Nat := 4096

/-- What an operation's output takes in the Store Room and in the Banked Accumulator Buffer of its tile: the Sparse Engine 20 KiB
of the latter (R320), the others one tile or, of a chain, its elements in the former (assumption 18). Operand tiles that it leaves
no space in the Store Room lie in the Hall's Attic (R137 item 1). -/
def State.roomFor (m : Cmd) (o : Op) : Nat × Nat :=
  match o.unit, o.kind with
  | .sparse, _ => (0, 20480)
  | .vector, .chain l n bwd => match (m.rawLayers[l]?).bind fun q => m.chainLayer m.rawProgram q bwd with
    | some L => let r := L.rowsOf n; (min (2 ^ 18) (4 * r.1.length * r.2.2), 0)
    | none => (0, 0)
  | _, _ => (tileBytes, 0)

/-- The tile has the room beside what the operations that run have reserved. -/
def State.roomFree (s : State) (m : Cmd) (o : Op) : Bool :=
  let held := (s.running.filter fun e => e.2.tile == o.tile).map fun e => e.2.room
  let want := State.roomFor m o
  decide ((held.map (·.1)).foldl (· + ·) want.1 ≤ 2 ^ 18) && decide ((held.map (·.2)).foldl (· + ·) want.2 ≤ 2 ^ 16)

/-- The chain accumulators that an operation sends chunk sums to (R254): a number for what they form, and the output tile. -/
def sumKeys (L : MatLayer) (o : Op) : List (Nat × Nat × Nat) :=
  let dw := fun (ib nb : Nat) => if L.dw.isSome then [(16 + o.hall, ib, nb)] else []
  match o.kind with
  | .chunk _ mb nb _ => [(0, mb, nb)]
  | .rechunk _ mb nb _ => [(1, mb, nb)]
  | .triple _ mb ib nb => (if L.dx.isSome then [(2, mb, ib)] else []) ++ dw ib nb
  | .pair _ _ ib => (List.range L.nbs).flatMap (dw ib)
  | .dwFull _ _ ib nb => dw ib nb
  | _ => []

/-- Staging slots of a chain accumulator that the operations before one hold: of those that run, and of chunk sums that wait
for an earlier chunk. -/
def slotsTaken : List Op → Bool → Nat
  | [], _ => 0
  | e :: es, behind =>
    (e.stage == .issued || (e.stage == .done && behind && !e.held.isEmpty)).toNat + slotsTaken es (behind || notDone e)

/-- A staging slot of each chain accumulator is free for the operation, and its earlier chunks have theirs (R254). -/
def State.slotsFree (m : Cmd) (i : Nat) (o : Op) : Bool :=
  match m.rawLayers[o.kind.layer]? with
  | none => true
  | some l =>
    if 1 < l.op ∨ m.opcode = 0x41 then true else
    let L := m.matLayer m.rawProgram o.kind.layer l
    let peers := (m.ops.take i).filter fun e => e.kind.layer == o.kind.layer
    (sumKeys L o).all fun k =>
      let same := peers.filter fun e => (sumKeys L e).contains k
      same.all (fun e => e.stage != .waiting) && decide (slotsTaken same false < 8)

/-- A contribution of ctype 1: it keeps a pending update (R393). -/
def Cmd.keepsUpdate (m : Cmd) (o : Op) : Bool :=
  match o.kind, m.rawLayers[o.kind.layer]? with
  | .contribution _, some l => (cspec l).ctype == 1
  | _, _ => false

/-- Pending updates held, with those that contributions in progress will hold (R393). -/
def State.updates (s : State) : Nat := s.red.efs.length + (s.running.filter fun e => e.1.keepsUpdate e.2).length

/-- R394: a pending update of an earlier step for the layer's error feedback; R393: no record is free. -/
def State.efWaits (s : State) (m : Cmd) (o : Op) : Bool × Bool :=
  let p := m.rawProgram
  match o.kind, p.layers[o.kind.layer]? with
  | .contribution _, some l =>
    let c := cspec l
    if c.ctype ≠ 1 then (false, false) else
    let spans := s.spansOf m p [c.ef]
    (s.red.efs.any fun e => e.step != o.pos && spansMeet spans [s.wholeSpan (tensorOf e.ef 0)],
      decide (4096 ≤ s.updates))
  | _, _ => (false, false)

/-! ### Operations that form nothing (R333, R334, R336) -/

/-- An operation that its layer's mask or zero map leaves out, with the chunks that the zero map skips. -/
def State.skips (s : State) (m : Cmd) (o : Op) : Bool × Nat :=
  let p := m.rawProgram
  match p.layers[o.kind.layer]? with
  | none => (false, 0)
  | some l =>
    if l.op ≠ 1 then (false, 0) else
    let L := m.matLayer p o.kind.layer l
    match o.kind with
    | .chunk _ mb nb kb => if s.inactive L mb nb then (true, 0) else if s.zeroX L mb kb then (true, 1) else (false, 0)
    | .rechunk _ mb nb kb => (s.inactive L mb nb || s.zeroX L mb kb, 0)
    | .pre _ mb nb => (s.inactive L mb nb, 0)
    | .triple _ mb ib nb =>
      if s.inactive L mb nb then (true, 0)
      else
        let tag := s.wTag L ib nb
        let dwHere := L.dw.isSome && (tag == 0 || !L.sp.dwFull)
        if dwHere && s.zeroX L mb ib then (L.dx.isNone, 1) else (false, 0)
    | .dwFull _ mb ib nb => if s.inactive L mb nb then (true, 0) else if s.zeroX L mb ib then (true, 1) else (false, 0)
    | _ => (false, 0)

/-- The map bits that leave an operation out (R333, R336). -/
def State.skipReads (s : State) (m : Cmd) (o : Op) : List Span :=
  let p := m.rawProgram
  match p.layers[o.kind.layer]? with
  | none => []
  | some l =>
    let L := m.matLayer p o.kind.layer l
    let bits := fun (mb nb kb : Nat) => s.optMap L.mask (mb * L.nbs + nb) ++
      if s.inactive L mb nb then [] else s.optMap L.xz (mb * L.kbs + kb)
    match o.kind with
    | .chunk _ mb nb kb => bits mb nb kb
    | .rechunk _ mb nb kb => bits mb nb kb
    | .pre _ mb nb => s.optMap L.mask (mb * L.nbs + nb)
    | .triple _ mb ib nb => bits mb nb ib
    | .dwFull _ mb ib nb => bits mb nb ib
    | _ => []

/-- An operation that forms no result, or the Drain pass of an inactive tile: it reads no operand tile (R333, R336). -/
def State.readsNothing (s : State) (m : Cmd) (o : Op) : Bool :=
  (s.skips m o).1 || (match o.kind, m.rawLayers[o.kind.layer]? with
    | .drain l mb nb, some q => s.inactive (m.matLayer m.rawProgram l q) mb nb
    | .recompute l mb nb, some q => s.inactive (m.matLayer m.rawProgram l q) mb nb
    | _, _ => false)

/-- The mask bits of a row block come from the Predictor Unit. -/
def isMaskRef (m : Cmd) (layer : Nat) (r : TileRef) : Bool := match m.rawLayers[layer]? with
  | some l => l.op == 1 && (matSpec l).pred && r.1 == (matSpec l).mask
  | none => false

/-- The operand tiles an operation waits for: its mask bits first, then the others unless the bits leave it nothing to read. -/
def State.waitsFor (s : State) (m : Cmd) (o : Op) : List TileRef :=
  if (o.needs.any (isMaskRef m o.kind.layer)) || !s.readsNothing m o then o.needs else []

/-- A gather layer would take a stamp at which a due switch of its table has not acted (R243). -/
def State.stampWaits (s : State) (m : Cmd) (o : Op) : Bool :=
  match m.gatherOf o with
  | some G => G.readsTable o.kind.backward && o.stamp.isNone && s.switchDue (s.mainNo G.g.handle) s.tb.stime
  | none => false

/-- The first cause of R140 that holds: none when the operation may issue; `rows` counts the rows a Gather Engine has yet to
fetch. R140 names no cause for some waits: one for lane generators, for the forward walk of R133 or for a table switch that is
due counts as a dependency (DESIGN CHOICE, assumptions 21 and 98), one for a record of R393 as output space. -/
def State.stallCause (s : State) (m : Cmd) (i : Nat) (o : Op) (space : Bool) (rows : Bool := true) : Option Nat :=
  let us := s.pendingUses m i o
  let u := s.uses m o
  if !(s.waitsFor m o).isEmpty || (rows && s.rowsWaiting m o) || writerBusy us u.reads || m.resultWaits i o ||
      spansMeet u.reads s.copySpans then some 1
  else if regionBusy us u || s.accWaits m u || s.walkWaits m o || (o.draws && s.drawWaits m i o.tile) ||
      (s.efWaits m o).1 || s.stampWaits m o then some 2
  else if !space || !s.roomFree m o || !State.slotsFree m i o || (s.efWaits m o).2 then some 3
  else if s.excluded m o then some 4
  else if m.phase = .armed then some 5
  else none

/-! ### Chain accumulators of dw (R254, R276, R280) -/

/-- The dw tiles that an operation adds a chunk sum to: ib and each nb. -/
def dwKeys (nbs : Nat) : OpKind → List (Nat × Nat)
  | .pair _ _ ib => (List.range nbs).map fun nb => (ib, nb)
  | .triple _ _ ib nb => [(ib, nb)]
  | .dwFull _ _ ib nb => [(ib, nb)]
  | _ => []

/-- What the chain accumulators add in one step, and whether the two adders of the next addition differ (R255). -/
abbrev Adding := State × Bool

/-- Adds one held chunk sum to dw on its Hall; where the adders differ, the tile is stored with the marker and the command
fails (R255, R292). -/
def Adding.one (a : Adding) (m : Cmd) (L : MatLayer) (t : Tensor) (i : Nat) (o : Op) (k : Nat × Nat) : Adding :=
  let u := dwOn t o.hall
  if a.2 then ((a.1.markDw u L k.1 k.2).failOp m.id i (uncorrAt u.tier (a.1.elemAddr u [32 * k.2, 32 * k.1])), false) else
  let at_ := fun (n : Nat) => match o.held.find? fun h => h.1 == n with
    | some h => h.2
    | none => []
  let r := a.1.addDw u L k.1 k.2 (at_ k.2) (at_ (k.2 + 2 ^ 16))
  let s := (r.1.mapOp m.id i fun o =>
    { o with held := o.held.filter fun h => h.1 != k.2 && h.1 != k.2 + 2 ^ 16 }).addFlags m.id r.2.2
  match r.2.1 with
  | some x => (s.failOp m.id i (uncorrAt x.1 x.2), false)
  | none => (s, false)

/-- The operation has not failed. -/
def Adding.live (a : Adding) (m : Cmd) (i : Nat) : Bool := match a.1.op m.id i with
  | some (_, o) => !o.failed
  | none => false

/-- Adds the held chunk sums of one operation to dw on its Hall, but for the tiles that an earlier chunk still blocks. -/
def Adding.held (a : Adding) (m : Cmd) (L : MatLayer) (t : Tensor) (blocked : List (Nat × Nat × Nat)) (i : Nat) (o : Op) :
    Adding :=
  ((dwKeys L.nbs o.kind).filter fun k =>
    !blocked.contains (o.hall, k.1, k.2) && o.held.any fun h => h.1 == k.2).foldl
      (fun a k => if a.live m i then a.one m L t i o k else a) a

/-- Goes through a layer's operations in walk order; those not done, or failed, also by what is added here, block their dw
tiles. -/
def Adding.all (m : Cmd) (L : MatLayer) (t : Tensor) : List (Op × Nat) → List (Nat × Nat × Nat) → Adding → Adding
  | [], _, a => a
  | (o, i) :: os, blocked, a =>
    let own := (dwKeys L.nbs o.kind).map fun k => (o.hall, k.1, k.2)
    if notDone o || o.failed then Adding.all m L t os (blocked ++ own) a
    else
      let a := a.held m L t blocked i o
      Adding.all m L t os (if a.live m i then blocked else blocked ++ own) a

/-- The chain accumulators of a layer take every chunk sum whose turn has come; `differ` where the two adders of the first
differ, and what remains of it. -/
def State.flushDw (s : State) (c : CmdId) (layer : Nat) (differ : Bool) : Adding :=
  match s.findCmd c with
  | none => (s, differ)
  | some m =>
    let p := m.rawProgram
    match p.layers[layer]? with
    | none => (s, differ)
    | some l =>
      if m.opcode = 0x41 ∨ 1 < l.op then (s, differ) else
      let L := m.matLayer p layer l
      match L.dw with
      | none => (s, differ)
      | some t => Adding.all m L t (m.ops.zipIdx.filter fun q => q.1.kind.layer == layer) [] (s, differ)

/-- An operation that sends a chunk sum to a chain accumulator in the Banked Accumulator Buffer, not dw's (R254). -/
def OpKind.sendsSum : OpKind → Bool
  | .chunk _ _ _ _ => true
  | .rechunk _ _ _ _ => true
  | .triple _ _ _ _ => true
  | _ => false

/-- An operation of a layer ends, with what that lets the chain accumulators add, and its output space is free (R138). `differ`
where the adders of a chain accumulator differ on a sum that it has them add (R255; assumption 18). -/
def State.endOp (s : State) (m : Cmd) (i : Nat) (o : Op) (differ : Bool := false) : State :=
  let r := (s.mapOp m.id i fun o => { o with stage := .done, room := (0, 0), tiles := [] }).flushDw m.id o.kind.layer differ
  if r.2 && o.kind.sendsSum then r.1.failOp m.id i (uncorrAt 1 (o.tile * 2 ^ 16)) else r.1.finishOp m.id i

/-- Zeroes an engine's destinations before its first addition (R197). -/
def State.zeroFirst (s : State) (b : Batch) (o : Op) : Written :=
  if b.c.zero && o.pos == 0 then s.zeroDests { b.c with dests := b.left 0 } else (s, none, {})

/-- A batch issues. For a destination in the Cellar its source rows are read, zero_first acts before the first addition, and the
requests go out in order; for any other it does so as it ends. -/
def State.startBatch (s : State) (m : Cmd) (i : Nat) (o : Op) : State :=
  match s.batchOf m o with
  | none => s
  | some b =>
    let rows := b.rows o
    let s := s.mapOp m.id i fun o => { o with batch := rows.length }
    if b.c.dest.tier ≠ 3 then s else
    let r := s.readBatch b rows
    let w : Written := State.andWrite (r.1, r.2, {}) fun s => s.zeroFirst b o
    match w.2.1 with
    | some x => w.1.failOp m.id i (uncorrAt x.1 x.2)
    | none => let a := b.adds rows; (w.1.addFlags m.id (w.2.2.or a.2)).sendAdds m.id i b.c a.1

/-! ### OPERATION_ISSUE -/

/-- A forward gather layer that names a staging handle reads the version in force, and is counted (R234). -/
def State.noteEarly (s : State) (m : Cmd) (n : Nat) : State :=
  match s.handle n with
  | some h => match h.role with
    | .staging k => match s.handle k with
      | some mn => (s.bump F.verEarly).noteResult m.id ⟨St.oldVersion, tVersion mn.desc, tVersion h.desc⟩
      | none => s
    | _ => s
  | none => s

/-- The index tensors that a walk of a gather or scatter layer reads: path, and of a gather offs or the slots of its gradients. -/
def State.indexSpans (s : State) (m : Cmd) (o : Op) : List Span :=
  let p := m.rawProgram
  match o.kind, p.layers[o.kind.layer]? with
  | .gather _ bwd, some l =>
    let g := gspec l
    s.spansOf m p ([l.path] ++ (if g.bag = 1 then [g.offs] else []) ++ if bwd && g.src == 0 then [g.slot] else [])
  | .scatter _ _, some l => s.spansOf m p [l.path]
  | _, _ => []

/-- Reads the index tensors of an operation once, as it is first presented: it fails on uncorrectable data (R45, R473). -/
def State.readIndex (s : State) (m : Cmd) (i : Nat) (o : Op) : State :=
  if o.checked then s else
  let r := s.touchSpans (s.indexSpans m o)
  match r.2 with
  | some x => r.1.failOp m.id i (uncorrAt x.1 x.2)
  | none => r.1.mapOp m.id i fun o => { o with checked := true }

/-- An operation of a gather or scatter layer, its index tensors read, is presented with every other condition of its issue
met: its destinations are checked, its layer takes its stamp (R195, R197, R234, R243). -/
def State.present (s : State) (m : Cmd) (i : Nat) (o : Op) : State :=
  if (match s.batchOf m o with
    | some b => o.pos == 0 && outsideDest b.c
    | none => false) then s.failOp m.id i (oor 4) else
  match m.gatherOf o with
  | none => s
  | some G =>
    if o.stamp.isSome then s else
    let s := s.openGather m i o.kind.backward G
    if G.readsTable o.kind.backward then s.noteEarly m G.g.handle else s

/-- An engine has no row of a layer to apply: its operation forms nothing. -/
def State.noRows (s : State) (m : Cmd) (o : Op) : Bool := match s.batchOf m o with
  | some b => b.own.isEmpty
  | none => false

/-- An issue that is possible is made, its output space reserved: the operation ends at once where it forms nothing. -/
def State.issue (s : State) (m : Cmd) (i : Nat) (o : Op) : State :=
  let s := s.begin m.id
  let k := s.skips m o
  let s := s.bump (F.hallCnt o.hall 0x52C) k.2
  if k.1 then
    let r := s.touchSpans (s.skipReads m o)
    match r.2 with
    | some x => r.1.failOp m.id i (uncorrAt x.1 x.2)
    | none => r.1.endOp m i o
  else if s.noRows m o then s.endOp m i o
  else (s.mapOp m.id i fun o => { o with stage := .issued, room := State.roomFor m o }).startBatch m i o

/-- Adds idle time to the stall counter of a cause. -/
def State.stallFor (s : State) (h idle : Nat) (cause : Option Nat) : State :=
  match cause with
  | some k => s.bump (F.stall h k) idle
  | none => s

/-- The Hall Scheduler may present an operation: it waits, its command has passed its checks, and issue is not stopped. -/
def State.presentable (s : State) (m : Cmd) (o : Op) : Bool :=
  o.stage == .waiting && m.phase != .accepted && m.failure.isNone && !s.rst.stopped

/-- The Hall Scheduler presents an operation that waits: it issues, or its idle engine counts a stall (R137, R140). A sampler's
operation issues by SAMPLER_JOB_START. -/
def operationIssue (c : CmdId) (i : Nat) (space : Bool) (idle : Nat) (s : State) : State :=
  match s.op c i with
  | none => s
  | some (m, o) =>
    if !s.presentable m o then s else
    let ready := (s.stallCause m i o space false).isNone && !s.engineBusy o
    let s := if ready then s.readIndex m i o else s
    let s := match s.op c i with
      | some (m, o) => if ready && s.presentable m o then s.present m i o else s
      | none => s
    match s.op c i with
    | none => s
    | some (m, o) =>
      if !s.presentable m o then s else
      match s.stallCause m i o space with
      | some k => if s.engineBusy o || !s.isNext m i o then s else s.stallFor o.hall idle (some k)
      | none => if s.engineBusy o || o.unit == .sampler then s else s.issue m i o

def execOperationIssue (c : CmdId) (op : Nat) (space : Bool) (idle : Nat) (s : State) : Host.Outcome State Fault Refusal :=
  fin (operationIssue c op space idle s)

end Sys2Proof.Machine
end

