-- ==== Sys2Proof/Machine/Commit.lean ====
section
/-! DEFINITION. The commit (R399 to R408): COMMIT and POISON, lock points, step notices, and the commit at T with its apply
records (R409) and outstanding copies (R413). -/

namespace Sys2Proof.Machine

open Fp

/-! ### COMMIT (R402) -/

/-- A shard descriptor is well formed (R400, R402); rlog outside ctype 1 counts as reserved. -/
def shardOk (d : List W) : Bool :=
  wbits d 0 31 28 == 9 && wbits d 0 19 16 == 0 && wbits d 12 15 0 == 0 && wordAt d 13 == 0 && wordAt d 14 == 0 &&
  wordAt d 15 == 0 && decide (sCtype d < 3) && sRule d != 3 && sN d != 0 && ((sRule d == 2) == (sCtype d == 2)) &&
  (if sCtype d = 1 then !sPerMb d && decide (3 ≤ sRlog d) else sRlog d == 0) &&
  (if sCtype d = 2 then sPerMb d && ((List.range 6).all fun i => wordAt d (4 + i) == 0) && sGroup d == 0 && wbits d 3 31 8 == 0
   else true)

/-- The first descriptor that is malformed or repeats a shard number. -/
def badShard : List (List W) → List Nat → Nat → Option Nat
  | [], _, _ => none
  | d :: ds, seen, i => if !shardOk d || seen.contains (sShard d) then some i else badShard ds (sShard d :: seen) (i + 1)

def hyperOk (h : List W) : Bool :=
  wbits h 0 31 28 == 9 && wbits h 0 27 0 == 0 && (List.range 4).all fun i => wordAt h (12 + i) == 0

/-- The arrays of a shard lie in the Cellar, and its table is open. -/
def State.shardFits (s : State) (m : Cmd) (d : List W) : Bool :=
  let within := fun (a n : Nat) => decide (a + n ≤ cellarEnd)
  if sCtype d = 2 then within (sRed d) 1 && (s.mainFor m (sHandle d)).isSome
  else within (sMaster d) (4 * sParams d) && within (sMom d) (8 * sParams d) && within (sWork d) (2 * sParams d) &&
    within (sRed d) (4 * sSum d)

/-- Another accepted COMMIT names the shard. -/
def State.shardNamed (s : State) (m : Cmd) (d : List W) : Bool :=
  s.cmds.any fun o => o.opcode == 0x60 && decide (o.order < m.order) &&
    o.shards.any fun e => sShard e == sShard d

/-- Shards of a COMMIT. -/
def Cmd.shardCount (m : Cmd) : Nat := m.bits 6 12 0

/-- Δ in ns (R405). -/
def Cmd.defer (m : Cmd) : Nat := 1000 * m.bits 11 31 16

def Cmd.maxDefers (m : Cmd) : Nat := m.bits 11 15 8

/-- The lock_lead taken at acceptance, in ns. -/
def Cmd.lead (m : Cmd) : Nat := m.aux.getD 0 0

/-- The ring of the oldest command whose job holds an entry of the poison and defer state, where every entry is held (R145,
R407; assumption 77). -/
def State.entryRing (s : State) : Nat :=
  ((s.cmds.find? fun m => m.job != 0 && (s.jobEntry m.job).isSome).map (·.id.ring)).getD noHolder

def State.commitCheck (s : State) (m : Cmd) : Except Status Unit := do
  let n := m.shardCount
  need m.sched (oor 0)
  need (!(s.attested && n != 0 && !s.flag F.twinEnable)) ⟨St.modeLocked, 0, 0⟩
  need (n == 0 || s.flag F.restoreOk) ⟨St.digest, 0xFFFFFFFF, 0⟩
  need (decide (n ≤ 4096)) (oor 6)
  if n = 0 then pure () else do
    let _ ← m.block 4 (m.ptr 4) (64 * n)
    pure ()
  let h ← m.block 7 (m.ptr 7) 64
  match badShard m.shards [] 0 with
  | some i => .error (badDesc ((m.ptr 4).addr + 64 * i))
  | none => pure ()
  need (hyperOk h && (List.range 11).all fun i => isFinite (m.hp (i + 1))) (badDesc (m.ptr 7).addr)
  need (m.shards.all fun d => s.shardFits m d && !s.shardNamed m d) (oor 4)
  need (decide (m.lead ≤ m.defer)) (oor 11)

/-- The run of a shard begins: its sum at −0, its partner's digest if it has come already (R395, R482). -/
def State.startRun (s : State) (m : Cmd) (differ : Bool) (pos : Nat) : State :=
  let d := m.shard pos
  let mine := fun (x : Nat × Nat × Nat × BitVec 64) => x.1 == m.job && x.2.1 == m.step && x.2.2.1 == sShard d
  let r : ShardRun := { job := m.job, step := m.step, shard := sShard d, cmd := m.id, pos := pos,
                        peer := (s.red.digests.find? mine).map fun x => x.2.2.2 }
  let s := { s with red := { s.red with shards := s.red.shards ++ [r], digests := s.red.digests.filter fun x => !mine x } }
  let s := if sCtype d = 2 then s else s.put 3 (sRed d) (fp32Bytes (List.replicate (sSum d) negZero))
  s.formChecked m m.job m.step (sShard d) differ

/-- An accepted COMMIT takes a job entry and waits for its instant, moved by the deferrals already recorded (R405 to
R407); `differ` as in R398. -/
def State.takeCommit (s : State) (m : Cmd) (differ : Bool) : State :=
  let rec0 := s.stepRec m.job m.step
  let s := s.mapStep m.job m.step id
  let t := m.t + rec0.defers * m.defer
  let s := s.mapCmd m.id fun m => { m with phase := .armed, t := t }
  let s := s.dropStrays m
  let s := if rec0.poisons.isEmpty then (List.range m.shardCount).foldl (fun s i => s.startRun m differ i) s else s
  s.runCaptures

/-- A COMMIT runs to its arming. A slot of its job that it has not taken itself and that is pending refuses it (R517). -/
def runCommit (c : CmdId) (differ : Bool) (s : State) : State :=
  match s.runnable c 0x60 with
  | none => s
  | some m =>
    let no := fun (s : State) (st : Status) => s.refuse c st
    match s.commitCheck m with
    | .error st => no s st
    | .ok () =>
      match s.takeEntry m.job with
      | none => no s (busy 0x90 s.entryRing)
      | some s' =>
        let pending := m.aux.getD 1 0 == 0 && match s.bndIn 1 with
          | some i => s.bndJob i == m.job
          | none => false
        let old := match s.jobEntry m.job with
          | some e => decide (m.step + 64 ≤ latestStep e)
          | none => false
        if pending || old then no s' (oor 9) else s'.takeCommit m differ

def execCommit (c : Compared CmdId) (s : State) : Host.Outcome State Fault Refusal := fin (runCommit c.of c.differ s)

/-- A flooded notice of this package with a sequence number still waits, at its source or on a port (R454, R455). -/
def State.noticeHeld (s : State) (seq : Nat) : Bool :=
  let mine := fun (p : Pkt) => p.type == .notice && p.src == s.pkg && p.seq == seq % 2 ^ 16
  s.fab.outq.any mine || s.fab.floods.any fun f => mine f.2

/-- A POISON whose notice is sent completes (R399); word 0 of its aux is 1, word 1 the notice's number. -/
def State.endPoison (s : State) (c : CmdId) : State :=
  match s.findCmd c with
  | some m => if m.opcode = 0x61 ∧ m.aux.getD 0 0 = 1 ∧ s.noticeHeld (m.aux.getD 1 0) = false then s.complete c okStatus else s
  | none => s

/-- The same for every POISON that waits. -/
def State.endPoisons (s : State) : State := (s.cmds.map (·.id)).foldl State.endPoison s

/-- POISON (R399): the poison event of the step, reason 5. -/
def runPoison (c : CmdId) (s : State) : State :=
  s.run c 0x61 fun m s =>
    ((s.raisePoison (m.bits 4 15 0) (m.word 5) 5).setAux c [1, s.fab.noticeSeq]).endPoison c

def execPoison (c : CmdId) (s : State) : Host.Outcome State Fault Refusal := fin (runPoison c s)

/-! ### Lock points (R403, R405) -/

/-- The stream has not passed every region that commits of its job write (R525). -/
def State.streamGates (s : State) (job : Nat) : Bool :=
  match s.ck.stream with
  | none => false
  | some k => k.job == job && k.todo.any fun g => g.type == 2 || g.type == 3 || g.type == 4

/-- Why a shard is not ready: a defer reason of R404, or none. -/
def State.shardWaits (s : State) (m : Cmd) (r : ShardRun) : Option Nat :=
  if r.added < sN (m.shard r.pos) then some 1
  else if s.streamGates m.job then some 2
  else if s.flag F.twinEnable && (r.own.isNone || r.peer.isNone) then some 3
  else none

/-- The digests of a shard differ. -/
def State.digestDiffers (s : State) (r : ShardRun) : Bool :=
  s.flag F.twinEnable && r.own.isSome && r.peer.isSome && r.own != r.peer

/-- The record of a digest mismatch (R483, R484). -/
def State.twinRecord (s : State) (r : ShardRun) (detail : Nat) : State :=
  let d := (r.own.getD 0).toNat
  s.event 0 0 0x0A05 detail [BitVec.ofNat 32 r.shard, BitVec.ofNat 32 (s.fld F.twinPartner), BitVec.ofNat 32 d,
    BitVec.ofNat 32 (d / 2 ^ 32)]

/-- The instant of a step moves by each COMMIT's Δ, and its defer count rises (R405). -/
def State.deferStep (s : State) (job step : Nat) : State :=
  let hit := fun (m : Cmd) => m.opcode == 0x60 && m.job == job && m.step == step && m.phase == .armed
  let s := { s with cmds := s.cmds.map fun m => if hit m then { m with t := m.t + m.defer } else m }
  (s.mapStep job step fun r => { r with defers := r.defers + 1 }).bump (cnt (Reg.red 0x4C))

/-- Decides to defer a step, or to poison it at its limit. -/
def State.sendDefer (s : State) (m : Cmd) (reason : Nat) : State :=
  let k := (s.stepRec m.job m.step).defers
  if k = m.maxDefers then s.raisePoison m.job m.step 2 else
  let s := if m.job = 0 then s else s.flood 2 reason m.job m.step k
  s.deferStep m.job m.step

/-- Place of aux that holds 1 more than the instant whose lock point has been evaluated. -/
def lockAt : Nat := 2

/-- A COMMIT's lock point: every owned shard is evaluated once for each instant. A lock point that lies before the COMMIT's
acceptance is not evaluated: a package not ready at T takes R408 (assumption 62). -/
def lockPoint (c : CmdId) (s : State) : State :=
  match s.findCmd c with
  | none => s
  | some m =>
    if m.opcode ≠ 0x60 ∨ m.phase ≠ .armed ∨ m.t - m.lead < m.accAt ∨ s.tb.stime < m.t - m.lead ∨ m.t ≤ s.tb.stime ∨ m.aux.getD lockAt 0 = m.t + 1 then s else
    let s := s.runCaptures.mapCmd c fun m => { m with aux := m.aux.take 2 ++ [m.t + 1] }
    if s.isPoisoned m.job m.step then s else
    let rs := s.runsOf c
    match rs.filter s.digestDiffers with
    | r :: more => (s.raisePoison m.job m.step 3) |> fun s => (r :: more).foldl (fun s r => s.twinRecord r 0) s
    | [] =>
      match rs.findSome? (s.shardWaits m) with
      | some reason => (s.sendDefer m reason).releaseHeld
      | none => s

def execCommitLockPoint (c : CmdId) (s : State) : Host.Outcome State Fault Refusal := fin (lockPoint c s)

/-! ### Step notices (R404 to R407) -/

/-- A step notice takes the job's entry; with none free the job is aborted with reason 9. -/
def State.noticeEntry (s : State) (job : Nat) : Option State :=
  (s.takeEntry job).map fun s =>
    { s with red := { s.red with jobs := s.red.jobs.map fun e => if e.job = job then { e with noticeAt := some s.tb.stime } else e } }

/-- A delivered step notice. -/
def State.takeNotice (s : State) (p : Pkt) (w0 w1 w2 : W) : State :=
  let step := w1.toNat
  match s.noticeEntry p.job with
  | none => s.raiseAbort p.job 9
  | some s =>
    let r := s.stepRec p.job step
    if r.committed then s.bump (cnt (Reg.red 0x58))
    else if bits w0 31 28 = 1 then s.notePoison p.job step (bits w0 27 24) p.src p.stime
    else if r.defers ≤ bits w2 15 0 then s.deferStep p.job step else s

def stepNotice (p : Pkt) (inPort : Option Nat) (s : State) : State :=
  let r := (s.unbox p).recvFlood p inPort
  match r.2, p.body with
  | true, .notice w0 w1 w2 _ => if p.job = 0 then r.1 else (r.1.takeNotice p w0 w1 w2).releaseHeld
  | _, _ => r.1

def execStepNotice (p : Pkt) (inPort : Option Nat) (s : State) : Host.Outcome State Fault Refusal :=
  fin (stepNotice p inPort s)

/-! ### Apply records (R409) -/

/-- The eight-word-and-more record of an apply. -/
def applyRecord (a : ApplyRun) (state : Nat) (slot : Bool) : List Byte :=
  let p := (a.cmd.ptr 4).addr
  wordBytes (([state * 2 ^ 30 + slot.toNat * 2 ^ 29 + a.cmd.job, a.cmd.step, p % 2 ^ 32, p / 2 ^ 32, a.todo.headD 0, a.seg] ++
    List.replicate 10 0).map fun n => BitVec.ofNat 32 n)

/-- Writes an engine's record, and shows its state (R420). -/
def State.writeRecord (s : State) (a : ApplyRun) (state : Nat) (slot : Bool) : State :=
  (s.put 3 a.recAt (applyRecord a state slot)).setFld ⟨Reg.red 0x30, 2 * a.engine + 1, 2 * a.engine⟩ state

/-- The apply that an engine carries out: the first of its runs. -/
def State.applyOf (s : State) (h : Nat) : Option ApplyRun := s.red.applies.find? fun a => a.engine == h

/-! ### The commit at T -/

/-- Entries of a row table that an engine applies: row mod 16 (R409). -/
def engineRows (h : Nat) (r : ShardRun) : List (Nat × Nat × List W) :=
  (r.rows.zipIdx.filter fun e => e.1.1 % 16 == h).map fun e => (e.2, e.1.1, e.1.2)

/-- E of R410. -/
def rowsPerSegment (width : Nat) : Nat := 16384 / (width + 3)

/-- Segments of a shard that an engine applies. -/
def State.shardSegments (s : State) (d : List W) (h : Nat) (r : ShardRun) : Nat :=
  if sCtype d = 2 then upDiv (engineRows h r).length (rowsPerSegment (s.shardWidth d))
  else if pairHall (stackOf 3 (sMaster d)) = h then denseSegs d else 0

/-- The segments of a COMMIT's owned shards as its acceptance counts them (R111, R399): of an embedding shard, those of a full
row table (assumption 27). -/
def State.commitTotal (s : State) (m : Cmd) : Nat :=
  (m.shards.map fun d => if sCtype d = 2 then upDiv (sRows d) (rowsPerSegment (s.shardWidth d)) else denseSegs d).foldl
    (· + ·) 0

/-- The work of engine h for a COMMIT: the shards in which it has segments. -/
def State.engineWork (s : State) (m : Cmd) (h : Nat) : List Nat :=
  ((s.runsOf m.id).filter fun r => s.shardSegments (m.shard r.pos) h r != 0).map (·.pos)

/-- A Reduction Engine begins its part of the apply. -/
def State.startEngine (s : State) (m : Cmd) (h : Nat) : State :=
  match s.engineWork m h with
  | [] => s
  | todo =>
    let a : ApplyRun := { engine := h, cmd := m, todo := todo, recAt := s.reg64 (Reg.red 0x28) (Reg.red 0x2C) + 0x10040 * h,
                          seed := s.seed }
    let free := (s.applyOf h).isNone
    let s := { s with red := { s.red with applies := s.red.applies ++ [a] } }
    if free then s.writeRecord a 1 false else s

/-- Base of the group table (R413, R419). -/
def State.groupBase (s : State) : Nat := s.reg64 (Reg.red 0x20) (Reg.red 0x24)

/-- The address and the segment count of the package's copy of a group (R413). -/
def State.copyEntry (s : State) (group : Nat) : Nat × Nat :=
  (ofLe (s.peek 3 (s.groupBase + 16 * group) 8), ofLe (s.peek 3 (s.groupBase + 16 * group + 8) 4))

/-- The copy of a group, by a read of its entry; none where the package is no member, or the entry cannot be read (R45,
assumption 83). -/
def State.findCopy (s : State) (group : Nat) : State × Option (Nat × Nat) :=
  let r := s.touch 3 (s.groupBase + 16 * group) 16
  let e := r.1.copyEntry group
  (r.1, if r.2.isSome || e.1 == 0 then none else some e)

/-- Groups with something in their entry: of all others the package is no member. -/
def State.listedGroups (s : State) : List Nat :=
  let lo := memKey 3 s.groupBase
  ((s.mem.filter fun c => decide (lo ≤ c.1) && decide (c.1 < lo + 0x100000)).map fun c => (c.1 - lo) / 16).dedup

/-- Each copy of which the package is a member waits for its segments (R413). -/
def State.startCopies (s : State) (job step : Nat) : State :=
  s.listedGroups.foldl (fun s g =>
    let r := s.findCopy g
    match r.2 with
    | some (a, n + 1) =>
      let w : CopyWait := { job := job, step := step, group := g, addr := a, want := n + 1 }
      { r.1 with red := { r.1.red with copies := r.1.red.copies ++ [w] } }
    | _ => r.1) s

/-- Drops the runs of COMMITs that have ended and have nothing left to apply, and the prunes of ended commands. -/
def State.sweepRuns (s : State) : State :=
  let live := fun (r : ShardRun) => (s.findCmd r.cmd).isSome || s.red.applies.any fun a => decide (a.cmd.id = r.cmd)
  { s with red := { s.red with shards := s.red.shards.filter live }
           fab := { s.fab with prunes := s.fab.prunes.filter fun q => (s.findCmd q.1).isSome } }

/-- The step does not commit on this package: its updates are dropped and its pending slot is emptied (R406, R517). -/
def State.giveUpStep (s : State) (job step : Nat) : State :=
  (s.dropStep job step).emptyPending job step

/-- The commit takes effect (R409, R413, R414, R517); a slot whose capture still waits for earlier draws commits at the capture. -/
def State.takeEffect (s : State) (m : Cmd) : State :=
  let job := m.job
  let step := m.step
  let first := !(s.stepRec job step).committed
  let s := s.mapStep job step fun r => { r with committed := true }
  let s := if first then s.bump (cnt (Reg.red 0x44)) else s
  let due := fun (e : EfRec) => if e.job = job ∧ e.step = step then { e with due := true } else e
  let s := { s with red := { s.red with efs := s.red.efs.map due } }
  let s := match if m.captures then none else s.pendingSlot job step with
    | some i => s.commitSlot i (!s.efDue job step).toNat job step
    | none => s
  let s := if first then s.startCopies job step else s
  let s := s.begin m.id
  (List.range 16).foldl (fun s h => s.startEngine m h) s

/-- A COMMIT at its T (R406, R408, R588). Where the step is poisoned and the fence is not satisfied either, it ends with
POISONED: R406 and R588 name different outcomes and no order (DESIGN CHOICE, assumption 93). -/
def State.commitAt (s : State) (m : Cmd) : State :=
  let job := m.job
  let step := m.step
  let ends := fun (s : State) (st : Status) => (s.complete m.id st).sweepRuns
  if s.isPoisoned job step then
    let by_ := (firstPoison (s.stepRec job step).poisons).2
    ends (s.giveUpStep job step) ⟨St.poisoned, step, by_⟩
  else
    let missed := fun (why : Nat) => (ends (s.giveUpStep job step) ⟨St.noCommit, step, why⟩).raiseAbort job 3
    let rs := s.runsOf m.id
    if !s.fenceOk m then missed 2
    else if rs.any fun r => (s.shardWaits m r).isSome || s.digestDiffers r then missed 1
    else s.takeEffect m

end Sys2Proof.Machine
end

