-- ==== Sys2Proof/Machine/Apply.lean ====
section
/-! DEFINITION. The apply (R409 to R414): segments, row writes, the multicast of working copies, error-feedback updates,
the arrival of parameter segments, and the end of a COMMIT. -/

namespace Sys2Proof.Machine

open Fp

/-! ### An engine's run -/

def sameRun (a b : ApplyRun) : Bool := a.engine == b.engine && decide (a.cmd.id = b.cmd.id) && a.cmd.order == b.cmd.order

def State.setApply (s : State) (a : ApplyRun) : State :=
  { s with red := { s.red with applies := s.red.applies.map fun b => if sameRun a b then a else b } }

/-- The engine's apply is over: state 2, and the next run it has been given, if any, begins. -/
def State.endApply (s : State) (a : ApplyRun) : State :=
  let s := { s with red := { s.red with applies := s.red.applies.filter fun b => !sameRun a b } }
  let s := s.writeRecord { a with todo := a.todo.take 1 } 2 false
  match s.applyOf a.engine with
  | some b => s.writeRecord b 1 false
  | none => s

/-- An apply that fails ends its COMMIT and its job (R412, R484). -/
def State.failApply (s : State) (a : ApplyRun) (st : Status) : State :=
  let s := s.endApply a
  let s := s.complete a.cmd.id st
  let known := s.rst.jobs.any fun j => j.job == a.cmd.job
  (if known then s else s.raiseAbort a.cmd.job 4).sweepRuns

/-- CHECKSUM of an apply (R412). -/
def applyChecksum : Status := ⟨St.checksum, 0xFFFFFFFF, 4⟩

/-- The run of the shard in progress. -/
def State.runAt (s : State) (a : ApplyRun) (pos : Nat) : Option ShardRun :=
  s.red.shards.find? fun r => decide (r.cmd = a.cmd.id) && r.pos == pos

def noBytes (_ : Nat) : List Byte := []

/-- Keeps the bytes written for the second digest (R484). -/
def State.noteWritten (s : State) (r : ShardRun) (k : Nat) (bs : List Byte) : State :=
  if s.flag F.twinEnable then s.mapRun r fun q => { q with written := Tab.put noBytes q.written k bs } else s

/-- The engine has finished a shard of which no other engine has rows left: the second digest is compared. -/
def State.checkSecond (s : State) (a : ApplyRun) (pos : Nat) : State × Bool :=
  let others := s.red.applies.any fun b => decide (b.cmd.id = a.cmd.id) && b.engine != a.engine && b.todo.contains pos
  match s.runAt a pos with
  | none => (s, true)
  | some r =>
    if others || !s.flag F.twinEnable || r.own.isNone then (s, true)
    else if r.own = some (crc64From 0 (r.written.flatMap (·.2))) then (s, true)
    else (s.twinRecord r 1, false)

/-- Segments of shard table position `pos` that an engine has applied, of how many. -/
def State.appliedOf (s : State) (m : Cmd) (r : ShardRun) (h : Nat) : Nat × Nat :=
  let n := s.shardSegments (m.shard r.pos) h r
  match s.red.applies.find? fun a => a.engine == h && decide (a.cmd.id = m.id) && a.todo.contains r.pos with
  | none => (n, n)
  | some a => (if a.todo.head? = some r.pos then min a.seg n else 0, n)

/-- Units before the first that is not done. -/
def leadingDone : List (Nat × Nat) → Nat
  | [] => 0
  | (d, n) :: rest => if d = n then d + leadingDone rest else d

/-- The leading apply segments that are done, in shard table order (R113, R399); of one embedding shard engine by engine
(assumption 27). -/
def State.leadingApplied (s : State) (m : Cmd) : Nat :=
  let rs := sortBy (fun a b => decide (a.pos ≤ b.pos)) (s.runsOf m.id)
  leadingDone (rs.flatMap fun r => (List.range 16).map (s.appliedOf m r))

/-- A COMMIT's progress marker follows its engines. -/
def State.showApplied (s : State) (c : CmdId) : State := match s.findCmd c with
  | some m => s.progress c (s.leadingApplied m)
  | none => s

/-- Moves an engine past a segment of its first shard. -/
def State.nextSegment (s : State) (a : ApplyRun) (segs : Nat) : State :=
  let pos := a.todo.headD 0
  if a.seg + 1 < segs then
    let b := { a with seg := a.seg + 1, slot := false, at_ := 0, stalled := false }
    ((s.setApply b).showApplied a.cmd.id).writeRecord b 1 false
  else
    let c := s.checkSecond a pos
    let b := { a with todo := a.todo.drop 1, seg := 0, slot := false, at_ := 0, stalled := false }
    let last := { a with seg := segs, slot := false, at_ := 0 }
    if !c.2 then c.1.failApply last ⟨St.twinMismatch, (sShard (a.cmd.shard pos)), 0⟩
    else if b.todo.isEmpty then ((c.1.endApply last).showApplied a.cmd.id).sweepRuns
    else ((c.1.setApply b).showApplied a.cmd.id).writeRecord b 1 false

/-! ### Dense segments -/

/-- A multicast of a segment's working copy (R413, R430). -/
def State.segmentPkt (s : State) (m : Cmd) (d : List W) (j : Nat) (bs : List Byte) : Pkt :=
  { type := .mcast, cls := 1, phase := 1, epoch := s.fld F.rtActive, len := min 2048 bs.length, dst := floodDst, src := s.pkg,
    via := floodDst, job := m.job, ring := m.id.ring, seq := m.id.seq, group := sGroup d, sink := 3,
    body := .segment m.step j bs }

/-- The lines of the working copy that a segment covers in part. -/
def workUnits (d : List W) (j : Nat) : List (Nat × Nat × Nat) :=
  let q := segParams d j
  (partialUnits 3 (sWork d + 2 * q.1) (2 * q.2)).map fun u => (3, u, 64)

/-- One segment of a dense shard (R410, R412). -/
def State.applyDense (s : State) (a : ApplyRun) (d : List W) (differ : Nat) : State :=
  let m := a.cmd
  let j := a.seg
  let q := segParams d j
  let t := s.touches (segReads d j ++ workUnits d j)
  match t.2 with
  | some (k, x) => t.1.failApply a (uncorrAt k x)
  | none =>
    if 2 ≤ differ then t.1.failApply a applyChecksum else
    let new := t.1.newDense a.seed m d j
    let s := t.1.put 3 (a.recAt + 64) (denseBytes new)
    let s := s.put 3 (sMaster d + 4 * q.1) (fp32Bytes (new.map (·.w)))
    let s := s.put 3 (sMom d + 4 * q.1) (fp32Bytes (new.map (·.m)))
    let s := s.put 3 (sMom d + 4 * (sParams d + q.1)) (fp32Bytes (new.map (·.v)))
    let work := new.flatMap fun n => leBytes 2 n.work
    let s := s.put 3 (sWork d + 2 * q.1) work
    let s := s.addFlags m.id (Flags.all (new.map (·.fl)))
    let s := match s.runAt a (a.todo.headD 0) with
      | some r => s.noteWritten r j (denseBytes new)
      | none => s
    (s.sendAll (packetsOf (s.segmentPkt m d j work))).nextSegment a (denseSegs d)

/-! ### Embedding segments -/

/-- The old values of each entry of a segment, in order; a failure; or none while a row is on its way. -/
def State.oldRows (s : State) (t : List W) (got : List Fetched) :
    List (Nat × Nat × List W) → State × Except Status (Option (List (List Val × Val)))
  | [] => (s, .ok (some []))
  | e :: es =>
    let o := s.oldRow t e.2.1 got
    match o.2 with
    | .error st => (o.1, .error st)
    | .ok v =>
      let r := o.1.oldRows t got es
      (r.1, r.2.map fun vs => match v, vs with
        | some v, some vs => some (v :: vs)
        | _, _ => none)

/-- The row of the slot's entry k, with its elements and accumulator. -/
def State.slotRow (s : State) (a : ApplyRun) (t : List W) (k : Nat) : Nat × RowVal :=
  let w := tWidth t
  let bs := s.peek 3 (a.recAt + 64 + k * (4 * w + 12)) (4 * w + 12)
  let vs := bytesWords (w + 1) (bs.drop 8)
  (ofLe (bs.take 8), { vals := (vs.take w).map of32, acc := (vs.getD w 0).toNat })

/-- Writes rows of the slot in place from entry k on: the entry at which it stopped, and how it ended. -/
def State.rowsTry (s : State) (a : ApplyRun) (handle : Nat) (t : List W) : Nat → Nat → Flags → State × Nat × RowEnd
  | 0, k, fl => (s, k, .done fl)
  | n + 1, k, fl =>
    let v := s.slotRow a t k
    let r := s.rowWrite a.cmd.sender handle t v.1 v.2
    match r.2 with
    | .done f => r.1.rowsTry a handle t n (k + 1) (fl.or f)
    | e => (r.1, k, e)

/-- The rows of a segment go in together (R412): where one would fail, none is written and the apply ends; where one must wait,
none is written yet, and its wait counts once (R206, R223). -/
def State.placeSegment (s : State) (a : ApplyRun) (handle : Nat) (t : List W) (segs n : Nat) : State :=
  let r := s.rowsTry a handle t n 0 {}
  match r.2.2 with
  | .done f => (r.1.addFlags a.cmd.id f).nextSegment a segs
  | .fail st => (s.countFound st).failApply a st
  | .wait log =>
    let again := a.slot && a.at_ == r.2.1 && a.stalled
    let b := { a with slot := true, at_ := r.2.1, stalled := log || again }
    let s := if !log then s.bump (cnt (Reg.erm 0x88)) else if again then s else s.countStall
    (s.setApply b).writeRecord b 1 true

/-- One segment of an embedding shard: new values into the slot, then in place; a full slot goes straight in place. -/
def State.applyRows (s : State) (a : ApplyRun) (d : List W) (differ : Nat) : State :=
  match s.shardTable d, s.runAt a (a.todo.headD 0) with
  | some t, some r =>
    if !tEmbed t then s.failApply a applyChecksum else
    let e := rowsPerSegment (tWidth t)
    let mine := engineRows a.engine r
    let es := (mine.drop (e * a.seg)).take e
    let segs := upDiv mine.length e
    if a.slot then s.placeSegment a (sHandle d) t segs es.length else
    let o := s.oldRows t r.got es
    match o.2 with
    | .error st => o.1.failApply a st
    | .ok none => es.foldl (fun s x => if r.got.any fun f => f.row == x.2.1 then s else s.askRow a.cmd d t x.2.1) o.1
    | .ok (some old) =>
      if 2 ≤ differ then o.1.failApply a applyChecksum else
      let new := List.zipWith (fun x v => (x, newRow a.cmd t x.2.2 v)) es old
      let bytes := new.map fun n => (n.1.1, rowBytes n.1.2.1 n.2)
      let s := o.1.put 3 (a.recAt + 64) (bytes.flatMap (·.2))
      let s := s.addFlags a.cmd.id (Flags.all (new.map fun n => n.2.fl))
      let s := bytes.foldl (fun s b => s.noteWritten r b.1 b.2) s
      s.placeSegment a (sHandle d) t segs es.length
  | _, _ => s.failApply a applyChecksum

/-- Reduction Engine h applies its segment in progress. -/
def applySegment (h differ : Nat) (s : State) : State :=
  match s.applyOf h with
  | none => s
  | some a =>
    let d := a.cmd.shard (a.todo.headD 0)
    if sCtype d = 2 then s.applyRows a d differ else s.applyDense a d differ

def execApplySegment (h : Nat) (differ : Nat) (s : State) : Host.Outcome State Fault Refusal := fin (applySegment h differ s)

/-! ### Error feedback (R393, R414) -/

/-- The updates of a committed step are through: its slot shows it (R517). -/
def State.markEfDone (s : State) (job step : Nat) : State :=
  if s.efDue job step then s else
  match s.bndIn 2 with
  | some i => if s.bndJob i = job ∧ s.bndHead i 1 = step then s.setBnd i 2 1 job else s
  | none => s

/-- The new error-feedback values of a pending update, row by row. -/
def State.newEf (s : State) (e : EfRec) : List (Val × Flags) :=
  let r := 2 ^ e.rlog
  let key := sketchKey e.seed e.step e.shard
  let half : Val := .fin false 1 (-(e.rlog : Int))
  (List.range e.ks).flatMap fun i =>
    let m := s.vals32 (e.mbuf + 4 * (i * e.ns)) e.ns
    let p := s.vals32 (e.mbuf + 4 * (e.ks * e.ns + i * r)) r
    List.zipWith (fun (t : Val × Flags) mv =>
      let a := mul t.1 half
      let b := sub mv a.1
      (b.1, (t.2.or a.2).or b.2)) (unfactorRow key r e.ns p) m

/-- The running COMMITs of a step. -/
def State.commitsOf (s : State) (job step : Nat) : List Cmd :=
  s.cmds.filter fun m => m.opcode == 0x60 && m.phase == .running && m.job == job && m.step == step

/-- Uncorrectable data in an update ends the step's COMMIT and its job, as R412 ends an apply. -/
def State.failEf (s : State) (e : EfRec) (st : Status) : State :=
  let s := (s.commitsOf e.job e.step).foldl (fun s m => s.complete m.id st) s
  s.raiseAbort e.job 4

/-- The oldest due update is formed and written; its COMMIT takes its flags (R70, R393). -/
def efUpdate (s : State) : State :=
  match s.red.efs.find? (·.due) with
  | none => s
  | some e =>
    let s := { s with red := { s.red with efs := s.red.efs.erase e } }
    let t := s.touch 3 e.mbuf (4 * (e.ks * e.ns + e.ks * 2 ^ e.rlog))
    match t.2 with
    | some a => t.1.failEf e (uncorrAt 3 a)
    | none =>
      let ef := tensorOf e.ef 0
      let vs := t.1.newEf e
      let w := t.1.writeVals ef (List.zipWith (fun c (v : Val × Flags) => (c, v.1, Mode.nearest)) (ef.run 0 ef.count) vs)
      match w.2.1 with
      | some x => w.1.failEf e (uncorrAt x.1 x.2)
      | none =>
        let fl := w.2.2.or (Flags.all (vs.map (·.2)))
        ((w.1.commitsOf e.job e.step).foldl (fun s m => s.addFlags m.id fl) w.1).markEfDone e.job e.step

def execEfUpdate (s : State) : Host.Outcome State Fault Refusal := fin (efUpdate s)

/-! ### Parameter segments (R413) -/

/-- A segment of a copy arrives: it is written, and counts for the step's copy. One that comes before this package's own
commit waits in the fabric. -/
def parameterSegment (p : Pkt) (s : State) : State :=
  match p.body with
  | .segment step seg bs =>
    if s.armedCommit p.job step && !s.isPoisoned p.job step then s else
    let r := (s.unbox p).findCopy p.group
    match r.2 with
    | none => r.1
    | some c =>
    let s := r.1.put 3 (c.1 + 8192 * seg) bs
    let hit := fun (w : CopyWait) => w.job == p.job && w.step == step && w.group == p.group
    let got := fun (w : CopyWait) => if hit w && !w.got.contains seg then { w with got := seg :: w.got } else w
    { s with red := { s.red with copies := (s.red.copies.map got).filter fun w => decide (w.got.length < w.want) } }
  | _ => s.unbox p

def execParameterSegment (p : Pkt) (s : State) : Host.Outcome State Fault Refusal := fin (parameterSegment p s)

/-! ### COMMIT_COMPLETION (R414) -/

/-- Everything that R414 lists is done for a COMMIT, and its boundary is captured (R517). -/
def State.commitDone (s : State) (m : Cmd) : Bool :=
  !m.captures && !(s.red.applies.any fun a => decide (a.cmd.id = m.id)) && !s.efDue m.job m.step &&
  !(s.red.copies.any fun w => w.job == m.job && w.step == m.step) &&
  !(s.fab.outq.any fun p => p.type == .mcast && p.ring == m.id.ring && p.seq == m.id.seq && p.job == m.job)

/-- Its status: contributions skipped, then branches pruned (R109, R397, R413). -/
def State.commitStatus (s : State) (m : Cmd) : Status :=
  let skipped := ((s.runsOf m.id).map (·.skipped)).foldl (· + ·) 0
  let pruned := (s.fab.prunes.filter fun q => decide (q.1 = m.id)).length
  if skipped ≠ 0 then ⟨St.skipped, skipped, 0⟩
  else if pruned ≠ 0 then ⟨St.partialDone, pruned, 0⟩
  else okStatus

def commitCompletion (c : CmdId) (s : State) : State :=
  match s.findCmd c with
  | none => s
  | some m =>
    if m.opcode = 0x60 ∧ m.phase = .running ∧ s.commitDone m = true then
      (s.complete c (s.commitStatus m)).sweepRuns
    else s

def execCommitCompletion (c : CmdId) (s : State) : Host.Outcome State Fault Refusal := fin (commitCompletion c s)

end Sys2Proof.Machine
end

