-- ==== Sys2Proof/Machine/Access.lean ====
section
/-! DEFINITION. Writes of BAR0 registers (R7, R565 to R571): what a write reaches in each device state, the refusal of RWL
fields in Attested mode (R479), the stored bits of a write by access type, and the ports' own copies. -/

namespace Sys2Proof.Machine

/-- Register accesses reach every register: outside OFF, STANDBY, BOOT, RESETTING and FAILSAFE (R554, R571). -/
def State.bar0Open (s : State) : Bool :=
  [Dev.ready, Dev.running, Dev.quiesced, Dev.retired].contains (s.fld F.devState)

/-- The states in which BAR0 behaves as during BOOT. -/
def State.bar0Boot (s : State) : Bool := [Dev.boot, Dev.resetting, Dev.failsafe].contains (s.fld F.devState)

/-- Whether a write of a register takes effect: during BOOT the BOOT registers alone (R554). -/
def State.reaches (s : State) (off : Nat) : Bool := s.bar0Open || (s.bar0Boot && off / 0x10000 == 5)

/-- The host port whose copy of a per-port register a path sees (R570). -/
def portOf : Path → Nat
  | .portB => 1
  | _ => 0

/-- The registers each port holds a copy of (R570). -/
def perPort (off : Nat) : Bool := off == 4 || off == 8 || (decide (0x100000 ≤ off) && decide (off < 0x108100))

/-- A write to a register with an RWL field in Attested mode: its status, the register's offset and a record (R479). -/
def State.refuseRwl (s : State) (off : Nat) (v : W) : State :=
  if s.attested then
    ((s.setFld F.rwlRefused 1).setFld F.rwlLast off).event 0 0 0x0A02 0 [BitVec.ofNat 32 off, v]
  else s

/-- FW_CTL's bits are RWL and read 0 (R563). -/
def holdsRwl (off : Nat) : Bool :=
  off == Reg.fwCtl || (match regSpec off with
    | some r => r.rwl != 0
    | none => false)

/-- A register write whose effect a row of its own gives: nothing where it does not reach the register; in Attested mode
the refusal of R479 beside the effect on the other fields. -/
def State.regWrite (s : State) (off : Nat) (v : W) (f : State → State) : State :=
  if s.reaches off then f (if holdsRwl off then s.refuseRwl off v else s) else s

/-- The word a register holds after a write: RW bits, RWL bits outside Attested mode, W1C bits cleared by 1. -/
def State.written (s : State) (r : RegSpec) (old v : W) : W :=
  merge (if s.attested then r.rw else r.rw ||| r.rwl) old v &&& ~~~(v &&& BitVec.ofNat 32 r.w1c)

/-- An unmasked MSI-X entry sends a pending message (assumption 6). -/
def State.sendPending (s : State) (port vector : Nat) : State :=
  let o := 0x108000 + vector / 32 * 4
  let bit := BitVec.ofNat 32 (2 ^ (vector % 32))
  if s.portReg port o &&& bit ≠ 0 ∧ bits (s.portReg port (0x10000C + 16 * vector)) 0 0 = 0 then
    (s.setPortReg port o (s.portReg port o &&& ~~~bit)).emit (.msix port vector)
  else s

/-- v with bits [hi:lo] replaced by f of them. -/
def clampField (hi lo : Nat) (f : Nat → Nat) (v : W) : W := setBits v hi lo (f (bits v hi lo))

/-- The word that a rule says a write "is taken as": R220, R247, R248, R340, R417. A field that a rule says is itself taken as
another value (R299, R464, R465, R467) is stored as it is written (R7) and used as the other value (assumption 60). -/
def takenAs (off : Nat) (v : W) : W :=
  if off = Reg.erm 0x18 then clampField 15 0 (max 1) v
  else if off = Reg.erm 0x300 then clampField 7 0 (max 25) v
  else if off = Reg.erm 0x304 then clampField 5 0 (max 1) v
  else if 0x1000000 ≤ off ∧ off < 0x1100000 ∧ off % 0x10000 = 0x504 then clampField 10 0 (min 1024) v
  else if off = Reg.red 4 then clampField 7 0 (max 25) v
  else v

/-- A write of a register with no other effect; nothing at an offset no register occupies (R567). -/
def State.plainWrite (s : State) (path : Path) (off : Nat) (v : W) : State :=
  match regSpec off with
  | none => s
  | some r =>
    if perPort off then
      let s := s.setPortReg (portOf path) off (s.written r (s.portReg (portOf path) off) v)
      if 0x100000 ≤ off ∧ off < 0x108000 ∧ off % 16 = 12 then s.sendPending (portOf path) ((off - 0x100000) / 16) else s
    else s.setReg off (s.written r (s.reg off) (takenAs off v))

end Sys2Proof.Machine
end

