-- ==== Sys2Proof/Machine/Fabric.lean ====
section
/-! DEFINITION. Stair links (R423 to R426), the routing of packets (R429 to R451), fences and acknowledgements (R447 to
R449), and the answers to protocol violations (R461). -/

namespace Sys2Proof.Machine

/-! ### Links (R424, R426) -/

/-- The conditions of an entry event (R426). -/
def State.mayTrain (s : State) (p : Nat) : Bool :=
  s.flag (F.portEnable p) && s.fld F.package != 0xFFFF && (s.portX p).signal

/-- An entry event at a port. -/
def State.enterTraining (s : State) (p : Nat) : State :=
  if s.fld (F.portState p) = Port.down ∧ s.mayTrain p = true then s.setFld (F.portState p) Port.training else s

/-- A port goes down. -/
def State.portDown (s : State) (p : Nat) : State :=
  ((s.setFld (F.portState p) Port.down).setFld (F.portLanes p) 0).linkLost p

/-- A link that retrains: counted, an input of the Health Monitor, and down at the third in 10 s. -/
def State.retrain (s : State) (p : Nat) : State :=
  let late := (s.portX p).retrains.filter fun t => decide (s.tb.stime < t + 10000000000)
  let s := (((s.setFld (F.portState p) Port.retrain).setFld (F.portLanes p) 0).linkLost p).bump (F.portRetrain p)
  let s := s.mapPort p fun x => { x with replays := [], retrains := s.tb.stime :: late }
  let s := { s with safe := { s.safe with win1 := s.safe.win1 + 1 } }
  if 2 ≤ late.length then s.portDown p else s

def State.portLive (s : State) (p : Nat) : Bool := s.fld (F.portState p) == Port.up || s.fld (F.portState p) == Port.degraded

/-- The link layer of a port runs: a FENCED port carries link-layer traffic as well (R426). -/
def State.linkLive (s : State) (p : Nat) : Bool := s.portLive p || s.fld (F.portState p) == Port.fenced

/-- An uncorrectable codeword: the receiver asks for replay from its first flit (R424). -/
def codeword (p flit : Nat) (s : State) : State :=
  if 48 ≤ p ∨ s.linkLive p = false then s else (s.bump (F.portFecUncorr p)).emit (.flitRequest p flit)

def execFecUncorrectableCodeword (port flit : Nat) (s : State) : Host.Outcome State Fault Refusal := fin (codeword port flit s)

/-- The kept flits from a link sequence number on (R424); none where the sender keeps that number no more. -/
def PortX.keptFrom (x : PortX) (flit : Nat) : List Flit := x.kept.dropWhile fun f => f.num != flit

/-- The flits from one on are sent again. The flits before it are through; those behind it keep the counts of the replays asked
for by their own numbers (R424, assumption 102). -/
def PortX.replay (x : PortX) (flit : Nat) : PortX × Nat :=
  let n := ((x.replays.find? fun r => r.1 == flit).map (·.2)).getD 0 + 1
  let rest := x.replays.filter fun r => r.1 != flit && (x.keptFrom flit).any fun f => f.num == r.1
  ({ x with replays := (flit, n) :: rest }, n)

/-- The peer asks for replay from a flit on; the eighth replay of one flit retrains the link, which leaves FENCED in no way but
its own (R424, R426). -/
def replayRequest (p flit : Nat) (s : State) : State :=
  if 48 ≤ p ∨ s.linkLive p = false then s else
  let r := (s.portX p).replay flit
  let s := ((s.bump (F.portReplay p)).mapPort p fun _ => r.1).emit (.flitReplay p (r.1.keptFrom flit))
  if 8 ≤ r.2 ∧ s.portLive p = true then s.retrain p else s

def execFlitReplayRequest (port flit : Nat) (s : State) : Host.Outcome State Fault Refusal := fin (replayRequest port flit s)

/-- The codewords of a window of so many, received over a port's lanes, that TEST.LANE_ERR corrupts: one of every 2^interval on
its lane, where that lane is in use; the lanes in use share the codewords evenly (R494, assumption 67). -/
def State.laneErrors (s : State) (p codewords : Nat) : Nat :=
  let v := s.reg Reg.testLaneErr
  let lanes := s.fld (F.portLanes p)
  let used := ((List.range 8).filter fun n => lanes / 2 ^ n % 2 == 1).length
  if bits v 5 0 = p ∧ bits v 20 16 ≠ 0 ∧ lanes / 2 ^ bits v 8 6 % 2 = 1 then codewords / used / 2 ^ bits v 15 12 else 0

/-- Codewords that TEST.LANE_ERR leaves uncorrectable: each counts and asks for replay, from a flit that the spec does not
state. -/
def State.corruptMany (s : State) (p : Nat) : Nat → State
  | 0 => s
  | n + 1 => let f := (s.corruptMany p n).freeWord; codeword p (f.2.toNat % 4096) f.1

/-- A 1 s window of a link ends: corrected codewords in units of 1,024, and the error rate that retrains it. Among the window's
codewords are those that TEST.LANE_ERR corrupts, beyond 15 symbols uncorrectable (R494). -/
def errorWindow (p codewords bad corrected : Nat) (s : State) : State :=
  if 48 ≤ p then s else
  let k := s.laneErrors p codewords
  let fatal := 15 < bits (s.reg Reg.testLaneErr) 20 16
  let n := (s.portX p).fecCorr + corrected + if fatal then 0 else k
  let s := (s.bump (F.portFecCorr p) (n / 1024)).mapPort p fun x => { x with fecCorr := n % 1024 }
  let s := if fatal then s.corruptMany p k else s
  if s.portLive p = true ∧ codewords < (bad + if fatal then k else 0) * 1000000000 then s.retrain p else s

def execLinkErrorWindow (port codewords bad corrected : Nat) (s : State) : Host.Outcome State Fault Refusal :=
  fin (errorWindow port codewords bad corrected s)

def opticalSignal (p : Nat) (present : Bool) (s : State) : State :=
  if 48 ≤ p then s else
  let s := s.mapPort p fun x => { x with signal := present }
  if present then s.enterTraining p else s.portDown p

def execOpticalSignalChange (port : Nat) (present : Bool) (s : State) : Host.Outcome State Fault Refusal :=
  fin (opticalSignal port present s)

/-- The lanes a port runs on: all, or the half of which more lanes have trained, the lower where equal (R426, assumption 103). -/
def lanesInUse (lanes : Nat) : Nat :=
  let trained := fun (low : Nat) => ((List.range 4).filter fun i => lanes / 2 ^ (low + i) % 2 == 1).length
  if lanes = 0xFF then 0xFF else if trained 4 ≤ trained 0 then 0xF else 0xF0

/-- Tells the peer of a port whether this side fences it. -/
def State.tellPeer (s : State) (p : Nat) : State :=
  if s.linkLive p then s.emit (.fenceSignal p (s.flag (F.portFence p) || s.fab.selfFence)) else s

/-- Training ends with the peer's identity (R426, R461 reason 6); the peer learns whether this side fences the port. -/
def trainingDone (p : Nat) (lanes : BitVec 8) (peer peerPort : Nat) (s : State) : State :=
  let st := s.fld (F.portState p)
  if 48 ≤ p ∨ (st ≠ Port.training ∧ st ≠ Port.retrain) ∨ lanes = 0 then s else
  let s := (s.setFld (F.portSeen p) peer).setFld (F.portSeenPort p) peerPort
  if peer ≠ s.fld (F.portPeer p) ∨ peerPort ≠ s.fld (F.portPeerPort p) then
    (s.setFld (F.portState p) Port.miswired).event 4 p 0x0916 0
  else
    let n := lanesInUse lanes.toNat
    (((s.setFld (F.portLanes p) n).setFld (F.portState p) (if n = 0xFF then Port.up else Port.degraded)).tellPeer p).settlePort p

def execPortTrainingDone (port : Nat) (lanes : BitVec 8) (peer peerPort : Nat) (s : State) : Host.Outcome State Fault Refusal :=
  fin (trainingDone port lanes peer peerPort s)

/-- No lane has trained within 100 ms. -/
def trainingTimeout (p : Nat) (s : State) : State :=
  if p < 48 ∧ s.fld (F.portState p) = Port.training then s.portDown p else s

def execPortTrainingTimeout (port : Nat) (s : State) : Host.Outcome State Fault Refusal := fin (trainingTimeout port s)

def peerFence (p : Nat) (fenced : Bool) (s : State) : State :=
  if 48 ≤ p then s else (s.mapPort p fun x => { x with peerFenced := fenced }).settlePort p

def execPeerFenceSignal (port : Nat) (fenced : Bool) (s : State) : Host.Outcome State Fault Refusal :=
  fin (peerFence port fenced s)

/-! ### Registers of ports and identity (R436, R437, R463, R468) -/

/-- Sets PORT_CFG.fence. -/
def State.setFence (s : State) (p : Nat) (on : Bool) : State :=
  if s.flag (F.portFence p) = on then s else ((s.setFld (F.portFence p) on.toNat).tellPeer p).settlePort p

def portCfg (p : Nat) (v : W) (s : State) : State :=
  let fence := bits v 30 30 == 1
  let s := (s.setReg (Reg.port p) (merge 0xBFFFFC00 (s.reg (Reg.port p)) v)).setFence p fence
  let st := s.fld (F.portState p)
  let s := if !s.flag (F.portEnable p) then (if st = Port.down then s else s.portDown p)
    else if st = Port.miswired then s.portDown p else s
  s.enterTraining p

def runPortCfgWrite (p : Nat) (v : W) (s : State) : State :=
  if 48 ≤ p then s else s.regWrite (Reg.port p) v (portCfg p v)

def execPortCfgWrite (_path : Path) (port : Nat) (value : W) (s : State) : Host.Outcome State Fault Refusal :=
  fin (runPortCfgWrite port value s)

/-- A value outside 0 to 0xFFF and 0xFFFF has no effect; every other is an entry event of each port. -/
def fabId (v : W) (s : State) : State :=
  let id := bits v 15 0
  if 0x1000 ≤ id ∧ id ≠ 0xFFFF then s else
  (List.range 48).foldl (fun s p => s.enterTraining p) (s.setFld F.package id)

def runFabIdWrite (v : W) (s : State) : State := s.regWrite (Reg.fab 0) v (fabId v)

def execFabIdWrite (_path : Path) (value : W) (s : State) : Host.Outcome State Fault Refusal := fin (runFabIdWrite value s)

/-- PORT_FENCE (R462). -/
def runPortFence (c : CmdId) (s : State) : State :=
  s.runTo c 0x96 fun m s =>
    let p := m.bits 4 5 0
    if 48 ≤ p then (s, oor 4) else (s.setFence p (m.bits 4 31 31 == 1), okStatus)

def execPortFence (c : CmdId) (s : State) : Host.Outcome State Fault Refusal := fin (runPortFence c s)

/-! ### Routing banks (R439, R443, R466) -/

namespace Bank
def empty := 0
def loading := 1
def standby := 2
def active := 3
def retiring := 4
def idle := 5
end Bank

def State.bankState (s : State) (b : Nat) : Nat := s.fld (F.rtBank b)
def State.setBank (s : State) (b st : Nat) : State := s.setFld (F.rtBank b) st

/-- A bank is ACTIVE. -/
def State.routable (s : State) : Bool := s.bankState (s.fld F.rtActive) == Bank.active

def State.bankBytes (s : State) (b off n : Nat) : Nat := ofLe (((s.fab.banks.getD b []).drop off).take n)

/-- The unicast entry of a package. -/
def State.uniEntry (s : State) (b t : Nat) : Nat := if 4096 ≤ t then 0 else s.bankBytes b (576 + 2 * t) 2

def entryValid (e : Nat) : Bool := e / 2 ^ 15 % 2 == 1

/-- The ports of a mask. -/
def portsOf (mask : Nat) : List Nat := (List.range 48).filter fun p => mask / 2 ^ p % 2 == 1

/-- The ports of a mask that carry routing: a port of dimension 3 is a spare and carries none (R437, assumption 91). -/
def State.maskPorts (s : State) (mask : Nat) : List Nat := (portsOf mask).filter fun p => s.fld (F.portDim p) != 3

/-- The ports of an entry's port set. -/
def State.setPorts (s : State) (b e : Nat) : List Nat := s.maskPorts (s.bankBytes b (64 + 8 * (e % 64)) 6)

/-- Where the device keeps bank b's image. -/
def State.bankRegion (s : State) (b : Nat) : Nat := s.reg64 (Reg.fab 0x20) (Reg.fab 0x24) + b * 0x100000

/-- The entry of a multicast group; one that cannot be read is not valid (R45, assumption 83). -/
def State.groupEntry (s : State) (b g : Nat) : Nat :=
  let a := s.bankRegion b + 8768 + 8 * g
  if g < s.bankBytes b 4 4 ∧ s.good 3 a 8 = true then ofLe (s.peek 3 a 8) else 0

/-- Packets of a bank's epoch held here (R444): those that wait at their destination, in an input buffer or for the credit of a
flooded copy, and, of the ACTIVE bank, those that wait for injection. -/
def State.inflight (s : State) (b : Nat) : Nat :=
  (s.fab.inbox.filter fun p => p.epoch == b).length + (s.fab.inq.filter fun q => q.2.epoch == b).length +
    (s.fab.floods.filter fun f => f.2.epoch == b).length +
    if s.fld F.rtActive = b ∧ s.bankState b = Bank.active then s.fab.outq.length else 0

/-! ### Answers (R442, R461) -/

/-- What a notice about a packet names: its destination and a header word; nothing where the packet is itself an answer, which no
command of its source sends (R442, R461; assumption 78). -/
def aboutOf (p : Pkt) (word : Nat) : Option (Nat × Nat) :=
  if p.type == .notice || p.type == .ack || p.type == .response then none else some (p.dst, word)

/-- Discards a packet that cannot go on (R442); the port is the last one tried, or a free value where none was. -/
def State.unroutable (s : State) (p : Pkt) (port : Option Nat) : State :=
  let s := s.bump F.unreach
  match port with
  | some q => s.noticeTo 8 0 p.src p.job p.ring p.seq q (aboutOf p 0)
  | none => let f := s.freeWord; f.1.noticeTo 8 0 p.src p.job p.ring p.seq (f.2.toNat % 48) (aboutOf p 0)

/-- The event record of a violation (R461); the port is where the packet came in. -/
def State.violation (s : State) (port : Option Nat) (reason : Nat) : State := s.event 4 (port.getD 0) (0x0910 + reason) 0

/-- Reason 2: the first header word that breaks the protocol. -/
def brokenWord (p : Pkt) : Option Nat :=
  let fits := match p.type with
    | .notice => p.cls == 0
    | .mcast => p.cls == 1
    | .request => p.cls == 2
    | .write => p.cls == (if p.sink = 1 then 2 else 3)
    | .response => p.cls == 3
    | .ack => p.cls == 3
    | .reserved _ => false
  if !fits || decide (2048 < p.len) || p.len % 16 != 0 || p.resv.w0 != 0 ||
    (p.fence && (p.type == .notice || p.type == .mcast || p.type == .ack)) then some 0
  else if p.resv.w2 ≠ 0 then some 2
  else if p.resv.w3 ≠ 0 then some 3
  else if 6 < p.sink then some 5
  else if p.resv.w14 ≠ 0 then some 14
  else none

/-- A discard with its delivery-error notice, which names the header word of reason 2. -/
def State.answerError (s : State) (p : Pkt) (port : Option Nat) (reason : Nat) (word : Nat := 0) : State :=
  let s := s.violation port reason
  let s := s.bump (if reason = 1 then F.crcErr else F.protoErr)
  let s := if reason = 1 then { s with safe := { s.safe with win6 := s.safe.win6 + 1 } } else s
  s.noticeTo 9 reason p.src p.job p.ring p.seq (port.getD 0) (aboutOf p word)

/-- Reason 4: a RESPONSE or ACK that matches nothing outstanding. -/
def State.matched (s : State) (p : Pkt) : Bool :=
  let c : CmdId := ⟨p.ring, p.seq⟩
  let cmd := fun (op : Nat) => match s.findCmd c with
    | some m => m.opcode == op
    | none => false
  match p.type, p.body with
  | .ack, _ => s.fab.unacked.any fun q => q.dst == p.src
  | .response, .rowResp _ _ _ entry .. =>
    if entry = 0xFFFFFFFE then s.ck.stream.isSome else (s.findCmd c).isSome || s.red.shards.any fun r => decide (r.cmd = c)
  | .response, .xferReply .. => cmd 0x93
  | .response, .cmapResp _ => cmd 0x95
  | .response, .buddyAnswer .. => s.ck.asking.isSome
  | .response, .restoreResp .. => s.ck.restore.isSome
  | .response, .ckptSeg .. => s.ck.stream.isSome
  | .response, .manifest .. => s.ck.stream.isSome
  | .response, _ => false
  | _, _ => true

/-! ### Delivery (R431, R447) -/

/-- An acknowledgement to a package with the count it covers. -/
def State.sendAck (s : State) (dst : Nat) : State :=
  match s.fab.ackDue.find? fun q => q.1 == dst with
  | none => s
  | some q =>
    let s := { s with fab := { s.fab with ackDue := s.fab.ackDue.filter fun r => r.1 != dst } }
    s.send { type := .ack, cls := 3, len := 0, dst := dst, src := s.pkg, via := dst, sink := 5, body := .ack q.2.1 }

/-- Counts a delivered WRITE or RESPONSE for its source; 32 covered are acknowledged at once. -/
def State.oweAck (s : State) (src : Nat) : State :=
  let old := (s.fab.ackDue.find? fun q => q.1 == src).getD (src, 0, s.tb.stime)
  let now := (src, old.2.1 + 1, old.2.2)
  let s := { s with fab := { s.fab with ackDue := (s.fab.ackDue.filter fun q => q.1 != src) ++ [now] } }
  if 32 ≤ now.2.1 then s.sendAck src else s

/-- The packet of whole contents whose pieces travelled apart (R429): what all its pieces share, and the length of a full one. -/
def wholeOf (p : Pkt) : Pkt := { p with off := 0, len := maxPayload, phase := 1, via := p.dst, hops := 0, crc := 0, fence := false }

/-- Takes a packet in: whole contents go to their receiver; a piece is kept until the others are here. -/
def State.takeIn (s : State) (p : Pkt) : State :=
  let k := upDiv (pktPayload p).length maxPayload
  let whole := wholeOf p
  let got := p :: s.fab.pieces
  if k ≤ 1 then { s with fab := { s.fab with inbox := s.fab.inbox ++ [p] } }
  else if (List.range k).all fun i => got.any fun q => wholeOf q == whole && q.off == maxPayload * i then
    { s with fab := { s.fab with inbox := s.fab.inbox ++ [whole], pieces := s.fab.pieces.filter fun q => wholeOf q != whole } }
  else { s with fab := { s.fab with pieces := got } }

/-- A packet leaves the fabric at its destination. -/
def State.deliver (s : State) (p : Pkt) (port : Option Nat) : State :=
  if p.crc ≠ pktCrc p then s.answerError p port 1
  else if !s.matched p then (s.violation port 4).bump F.protoErr
  else
    let s := s.takeIn p
    if p.type == .write || p.type == .response then s.oweAck p.src else s

/-- The timer of R447: the packets delivered from a source are acknowledged. -/
def ackTimer (dst : Nat) (s : State) : State := s.sendAck dst

def execAckTimer (dst : Nat) (s : State) : Host.Outcome State Fault Refusal := fin (ackTimer dst s)

/-! ### Forwarding (R440, R442, R445, R450) -/

/-- Free credit of a port on a packet's virtual channel. -/
def State.freeCredit (s : State) (p : Pkt) (port : Nat) : Nat := (s.credit port (vc p)).1

/-- The port of a list with the most credit, the lowest where equal. -/
def mostCredit (credit : Nat → Nat) : List Nat → Option Nat
  | [] => none
  | p :: ps => match mostCredit credit ps with
    | none => some p
    | some q => if credit q ≤ credit p then some p else some q

/-- A port that prunes a multicast (R450). -/
def State.prunes (s : State) (p : Nat) : Bool :=
  s.fld (F.portState p) == Port.fenced || s.fld (F.portState p) == Port.down || s.flag (F.portFence p)

/-- Counts a prune and returns its notice, once for each package, port and command. -/
def State.prune (s : State) (p : Pkt) (port : Nat) : State :=
  let s := s.bump F.pruned
  let k := (p.src, p.ring, p.seq, port)
  if s.fab.pruneSent.contains k then s else
  let near := s.fab.pruneSent.filter fun q => !(q.1 == p.src && q.2.1 == p.ring) || decide ((p.seq + 65536 - q.2.2.1) % 65536 < 1024)
  ({ s with fab := { s.fab with pruneSent := k :: near } }).noticeTo 7 0 p.src p.job p.ring p.seq port

/-- Notes a pruned branch of a command of this package (R451). -/
def State.notePrune (s : State) (c : CmdId) (pkg port : Nat) : State :=
  if (s.findCmd c).isNone || s.fab.prunes.contains (c, pkg, port) then s
  else { s with fab := { s.fab with prunes := s.fab.prunes ++ [(c, pkg, port)] } }

/-- The branch that stands for a group with no valid entry (R451): beyond every port number. -/
def noBranch (group : Nat) : Nat := 0x10000 + group

/-- The ports that a multicast takes from here (R439, R450): those that prune it, and those that carry it. -/
def State.mcastPorts (s : State) (p : Pkt) (inPort : Option Nat) : List Nat × List Nat :=
  let e := s.groupEntry p.epoch p.group
  let onward := fun (l : List Nat) => l.filter fun q => decide (some q ≠ inPort)
  if e / 2 ^ 63 % 2 = 0 then ([], [])
  else ((onward (portsOf e)).filter s.prunes, (onward (s.maskPorts e)).filter fun q => !s.prunes q)

/-- The bank of a packet's epoch holds no image to route by (R445). -/
def State.noBank (s : State) (p : Pkt) : Bool := decide (s.bankState p.epoch ≤ Bank.loading)

/-- Counts a packet of an epoch that has passed, or has no bank (R445). -/
def State.countLate (s : State) (p : Pkt) : State :=
  if s.bankState p.epoch = Bank.idle ∨ s.noBank p = true then s.bump F.lateEpoch else s

/-- The copies of a multicast on a list of ports; past eight hops they are discarded (R442). -/
def State.copies (s : State) (p : Pkt) : List Nat → State
  | [] => s
  | q :: qs => if 8 < p.hops + 1 then s.unroutable p (some q) else s.emitOn { p with hops := p.hops + 1 } (q :: qs)

/-- Copies a multicast by its group's entry; none while a port of it cannot take the packet yet. -/
def State.multicast (s : State) (p : Pkt) (inPort : Option Nat) : Option State :=
  if s.noBank p then some ((s.countLate p).unroutable p none) else
  let e := s.groupEntry p.epoch p.group
  let ports := s.mcastPorts p inPort
  if e / 2 ^ 63 % 2 = 0 then
    some (if inPort.isNone then s.notePrune ⟨p.ring, p.seq⟩ s.pkg (noBranch p.group) else s.countLate p)
  else if ports.2.any fun q => !s.portUsable q || !s.creditFor p q then none
  else
    let s := ports.1.foldl (fun s q => s.prune p q) (s.countLate p)
    let s := s.copies p ports.2
    some (if e / 2 ^ 48 % 2 = 1 then s.deliver p inPort else s)

/-- Fenced packets to a package among some (R448). -/
def fencesTo (dst : Nat) (ps : List Pkt) : Nat := (ps.filter fun p => p.fence && p.dst == dst).length

/-- A WRITE or RESPONSE that leaves its source awaits acknowledgement; it has gone ahead of so many fenced packets, and a fenced
packet that leaves is one fewer (R448). -/
def State.noteSent (s : State) (p : Pkt) (after : Nat) : State :=
  let old := if p.fence then s.fab.unacked.map fun u => if u.dst = p.dst then { u with after := u.after - 1 } else u
    else s.fab.unacked
  let new := if p.type == .write || p.type == .response then [⟨p.dst, ⟨p.ring, p.seq⟩, after⟩] else []
  { s with fab := { s.fab with unacked := old ++ new } }

/-- A packet that has reached its via turns to its destination (R440). -/
def State.turned (s : State) (p : Pkt) : Pkt := if p.phase = 0 ∧ p.via = s.pkg then { p with phase := 1, via := p.dst } else p

/-- Where a turned packet goes next. -/
def target (p : Pkt) : Nat := if p.phase = 0 then p.via else p.dst

/-- The ports of a unicast packet's port set; none where it cannot be routed (R442, R445, R461 reason 3). -/
def State.uniPorts (s : State) (p : Pkt) : Option (List Nat) :=
  let e := s.uniEntry p.epoch (target p)
  if s.noBank p = true ∨ entryValid e = false ∨ 8 < p.hops + 1 then none else some (s.setPorts p.epoch e)

/-- A packet of this package leaves it on a port: it awaits its acknowledgement, and a via route counts for the port (R448,
R459). -/
def State.noteLeft (s : State) (p : Pkt) (port after : Nat) : State :=
  let s := s.noteSent p after
  if p.phase = 0 then s.mapPort port fun x => { x with vias := x.vias + 1 } else s

/-- Routes a unicast packet by the bank of its epoch (R440, R445); none while the next hop lacks credit. A notice to this package
itself needs no bank (assumption 104). `after`: of a packet of this package, the fenced packets it goes ahead of. -/
def State.unicast (s : State) (p : Pkt) (inPort : Option Nat) (after : Nat) : Option State :=
  let p := s.turned p
  let late := s.countLate p
  if target p = s.pkg ∧ (s.noBank p = false ∨ (inPort = none ∧ p.cls = 0)) then
    some ((if inPort.isNone then late.noteSent p after else late).deliver p inPort) else
  match s.uniPorts p with
  | none => some (late.unroutable p none)
  | some set =>
    match mostCredit (s.freeCredit p) (set.filter s.portUsable) with
    | none => some (late.unroutable p set.getLast?)
    | some q =>
      if !s.creditFor p q then none else
      let s := if inPort.isNone then late.noteLeft p q after else late
      some (s.putOn q { p with hops := p.hops + 1 })

def isFlood (p : Pkt) : Bool := p.type == .notice && p.dst == floodDst

def State.forward (s : State) (p : Pkt) (inPort : Option Nat) (after : Nat) : Option State :=
  if p.type = .mcast then s.multicast p inPort else s.unicast p inPort after

/-! ### Injection (R441, R444, R448, R455, R456) -/

/-- The first hop toward a package is usable. -/
def State.hasHop (s : State) (b t : Nat) : Bool :=
  let e := s.uniEntry b t
  entryValid e && (s.setPorts b e).any s.portUsable

/-- The port that a packet takes first (R440). -/
def State.firstHop (s : State) (p : Pkt) : Option Nat :=
  mostCredit (s.freeCredit p) ((s.setPorts p.epoch (s.uniEntry p.epoch (target p))).filter s.portUsable)

/-- Units of packets that a packet's first hop holds on its virtual channel: those whose credit has not come back (R441). -/
def State.occupancy (s : State) (p : Pkt) : Nat :=
  match s.firstHop p with
  | some q => (s.credit q (vc p)).2
  | none => 0

def noDraw (_ : Nat) : Nat := 0

/-- The via that the counter of a Landing draws from some candidates; where the minimal route has no usable port, the first from
there on that has one (R441). -/
def State.drawVia (s : State) (landing epoch : Nat) (minimal : Bool) (cands : List Nat) : Option Nat :=
  let k := Config.pick (Tab.get noDraw s.fab.vias landing) % cands.length
  let order := cands.drop k ++ cands.take k
  if minimal then order.head?.filter (s.hasHop epoch) else order.find? (s.hasHop epoch)

/-- Chooses the route of a packet of class 2 or 3 at the Landing that injects it (R441). -/
def State.chooseRoute (s : State) (p : Pkt) (landing : Nat) : State × Pkt :=
  let direct := { p with phase := 1, via := p.dst }
  if p.cls < 2 ∨ s.flag F.adaptive = false ∨ p.dst = s.pkg then (s, direct) else
  let cands := (List.range 4096).filter fun t => t != p.src && t != p.dst && entryValid (s.uniEntry p.epoch t)
  let minimal := s.hasHop p.epoch p.dst
  let n := (Tab.get noDraw s.fab.vias landing + 1) % 65536
  let s1 := { s with fab := { s.fab with vias := Tab.put noDraw s.fab.vias landing n } }
  match s.drawVia landing p.epoch minimal cands with
  | none => (s1, direct)
  | some v =>
    let round := { p with phase := 0, via := v }
    if !minimal || decide (2 * s.occupancy round + s.fld F.routeBias < s.occupancy direct) then (s1.bump F.nonMin, round)
    else (s1, direct)

/-- Earlier WRITE or RESPONSE packets to a destination are not yet acknowledged, or wait ahead; one sent later that has gone
ahead is no earlier one (R448). -/
def State.pairBusy (s : State) (p : Pkt) (ahead : List Pkt) : Bool :=
  (s.fab.unacked.any fun u => u.dst == p.dst && decide (u.after ≤ fencesTo p.dst ahead)) ||
    ahead.any fun q => q.dst == p.dst && (q.type == .write || q.type == .response)

/-! ### A Landing's buffers and outputs (R432 to R434) -/

/-- A packet that waits at a Landing: in the input buffer of a port, or for injection. -/
structure Waiting where
  src : Option Nat
  pkt : Pkt
deriving DecidableEq, Repr

/-- The packets that wait here: in the input buffers in the order of their arrival, then for injection. -/
def State.waiting (s : State) : List Waiting :=
  s.fab.inq.map (fun q => ⟨some q.1, q.2⟩) ++ s.fab.outq.map fun p => ⟨none, p⟩

/-- TEST.BP withholds credit on a port's input now: for its sixteenths of each 1 µs, the first ones (R494, assumption 67). -/
def State.withholds (s : State) (port : Nat) : Bool :=
  let v := s.reg Reg.testBp
  bits v 5 0 == port && decide (s.tb.stime % 1000 * 16 < bits v 11 8 * 1000)

/-- An input buffer is free again: its credit goes to the peer, or waits while the Landing withholds it (R425, R494). -/
def State.freeBuffer (s : State) (port : Nat) (p : Pkt) : State :=
  if s.withholds port then { s with fab := { s.fab with owed := s.fab.owed ++ [(port, p)] } }
  else s.emit (.credit port (vc p) (units p))

/-- The credit withheld goes out once nothing withholds it. -/
def State.payOwed (s : State) : State :=
  s.fab.owed.foldl (fun s q => s.freeBuffer q.1 q.2) { s with fab := { s.fab with owed := [] } }

def State.dropWaiting (s : State) (w : Waiting) : State :=
  match w.src with
  | some q => State.freeBuffer { s with fab := { s.fab with inq := s.fab.inq.erase (q, w.pkt) } } q w.pkt
  | none => { s with fab := { s.fab with outq := s.fab.outq.erase w.pkt } }

/-- Units of the pool of 64 KiB that an input port's packets take: those of channels 2 to 7 beyond the one packet guaranteed
to each (R432). -/
def poolUsed (held : List Pkt) : Nat :=
  (((List.range 6).flatMap fun v => (held.filter fun x => vc x == v + 2).drop 1).map units).foldl (· + ·) 0

/-- An input port has granted the credit for a packet (R432): channels 0 and 1 have two reserved packet buffers each; a buffer
whose credit is withheld has not been granted anew. -/
def State.hasBuffer (s : State) (port : Nat) (p : Pkt) : Bool :=
  let held := ((s.fab.inq ++ s.fab.owed).filter fun q => q.1 == port).map (·.2)
  let same := held.filter fun x => vc x == vc p
  if vc p < 2 then decide (same.length < 2) else same.isEmpty || decide (poolUsed held + units p ≤ 1024)

/-- A packet that waits for injection may be injected (R448, R455, R456). -/
def State.injectable (s : State) (p : Pkt) : Bool :=
  !(s.quenches p || (p.cls != 0 && !s.routable)) && !(p.fence && s.pairBusy p (s.fab.outq.takeWhile (· ≠ p))) &&
    (p.type != .notice || s.noticeRoom)

/-- A waiting packet as it would leave: with the bank, the CRC and the route that its injection gives it, or turned at its via;
none while it may not be injected. -/
def State.leaving (s : State) (w : Waiting) (landing : Nat) : Option (State × Pkt) :=
  match w.src with
  | some _ => some (s, s.turned w.pkt)
  | none =>
    if s.injectable w.pkt then some (s.chooseRoute (withCrc { w.pkt with epoch := s.fld F.rtActive }) landing) else none

/-- The outputs that a leaving packet takes. -/
def State.outputs (s : State) (p : Pkt) (src : Option Nat) : List Nat :=
  if p.type = .mcast then (s.mcastPorts p src).2
  else if target p = s.pkg then []
  else match s.uniPorts p with
    | none => []
    | some set => (mostCredit (s.freeCredit p) (set.filter s.portUsable)).toList

/-- The packet as it would leave on an output now: every output of it is usable and has credit (R433). -/
def State.contends (s : State) (landing port : Nat) (w : Waiting) : Option (Waiting × Pkt) :=
  match s.leaving w landing with
  | none => none
  | some (_, p) =>
    let out := s.outputs p w.src
    if out.contains port && out.all fun q => s.portUsable q && s.creditFor p q then some (w, p) else none

/-- The weight of class 1 to 3 (R465). -/
def State.weight (s : State) (cls : Nat) : Nat :=
  max 1 (s.fld ⟨Reg.fab 0xC, 4 * cls - 1, 4 * cls - 4⟩)

def firstTurn (_ : Nat) : Nat × Nat := (3, 0)

/-- The class of 1 to 3 that an output serves next, and its turn afterwards: the class goes on while its turn lasts, else the
next in the order 1, 2, 3 that has a packet (assumption 86). -/
def State.nextClass (s : State) (port : Nat) (has : Nat → Bool) : Option (Nat × Nat × Nat) :=
  let t := Tab.get firstTurn s.fab.turns port
  if has t.1 && t.2 != 0 then some (t.1, t.1, t.2 - 1) else
  (([1, 2, 3].map fun k => (t.1 + k - 1) % 3 + 1).find? has).map fun c => (c, c, s.weight c - 1)

/-- The packet that an output serves: class 0 first; then the class whose turn it is; within a class phase 1 first; then the
one that has waited longest, input buffers first (R434). The state keeps the output's turn. -/
def State.serves (s : State) (port landing : Nat) : State × Option Waiting :=
  let cs := s.waiting.filterMap (s.contends landing port)
  let best := fun (c : Nat) => (cs.find? fun x => x.2.cls == c && x.2.phase == 1) <|> cs.find? fun x => x.2.cls == c
  match best 0 with
  | some x => (s, some x.1)
  | none =>
    match s.nextClass port fun c => cs.any fun x => x.2.cls == c with
    | none => (s, none)
    | some (c, t) => ({ s with fab := { s.fab with turns := Tab.put firstTurn s.fab.turns port t } }, (best c).map (·.1))

/-- A waiting packet leaves; none while it must wait. -/
def State.depart (s : State) (w : Waiting) (landing : Nat) : Option State :=
  match s.leaving w landing with
  | none => none
  | some (t, p) =>
    let after := fencesTo p.dst (s.fab.outq.takeWhile (· ≠ w.pkt))
    let note := fun (s : State) =>
      { s with fab := { s.fab with noticeAt := s.tb.stime :: s.fab.noticeAt.filter fun t => decide (s.tb.stime < t + 10000) } }
    ((t.dropWaiting w).forward p w.src after).map fun s => if w.src.isNone && p.type == .notice then note s else s

/-- A packet that waits is routed: delivered or discarded here, or its output serves the packet whose turn it is. -/
def State.routeWaiting (s : State) (w : Waiting) (landing : Nat) : State :=
  match s.leaving w landing with
  | none => s
  | some (_, p) =>
    match s.outputs p w.src with
    | [] => (s.depart w landing).getD s
    | port :: _ =>
      let r := s.serves port landing
      (r.2.bind fun v => r.1.depart v landing).getD s

/-- Units of the pool that a port's input buffers hold. -/
def State.poolNow (s : State) (port : Nat) : Nat := poolUsed ((s.fab.inq.filter fun q => q.1 == port).map (·.2))

/-- The pool's peak of the window (R459). -/
def State.notePeak (s : State) (port : Nat) : State :=
  let n := s.poolNow port
  s.mapPort port fun x => { x with peak := max x.peak n }

/-! ### Waiting for credit (R459) -/

/-- The ports whose credit a waiting packet lacks. -/
def State.lacks (s : State) (landing : Nat) (w : Waiting) : List (Nat × Nat) :=
  match s.leaving w landing with
  | none => []
  | some (_, p) => ((s.outputs p w.src).filter fun q => !s.creditFor p q).map fun q => (q, p.cls)

/-- The time that packets have waited for credit counts for their ports (R459). -/
def State.countWaits (s : State) : State :=
  s.fab.waits.foldl (fun s w => s.mapPort w.1 fun x => { x with wait := x.wait.modify w.2.1 (· + (s.tb.stime - w.2.2)) }) s

/-- From now on the packets that wait for credit count, once for each port and class. -/
def State.markWaits (s : State) (landing : Nat) : State :=
  let ws := ((s.waiting.flatMap (s.lacks landing)) ++ s.fab.floods.map fun f => (f.1, f.2.cls)).dedup
  { s with fab := { s.fab with waits := ws.map fun w => (w.1, w.2, s.tb.stime) } }

/-- The credit that the next hops have returned (R425), at place 8 times the port plus the channel. -/
def State.takeCredit (s : State) (sight : RouteSight) : State :=
  sight.returned.zipIdx.foldl (fun s q =>
    let c := s.credit (q.2 / 8) (q.2 % 8)
    if q.1 = 0 ∨ 384 ≤ q.2 then s else s.setCredit (q.2 / 8) (q.2 % 8) (c.1 + q.1, c.2 - q.1)) s

/-! ### The Landing's row -/

/-- A packet arrives from a link: its header is checked, then it takes a buffer and is routed; flits beyond the credits are
discarded (R461). -/
def State.arrive (s : State) (p : Pkt) (port landing : Nat) : State :=
  let s := s.mapPort port fun x => { x with recv := x.recv + 64 + p.len }
  if !s.hasBuffer port p then (s.violation (some port) 5).retrain port
  else match brokenWord p with
    | some k => (s.answerError p (some port) 2 k).freeBuffer port p
    | none =>
      if isFlood p then (s.deliver p (some port)).freeBuffer port p
      else if (p.type != .mcast && (decide (4096 ≤ p.dst) || decide (4096 ≤ p.via))) || decide (8 < p.hops) then
        ((s.violation (some port) 3).unroutable p none).freeBuffer port p
      else
        let t := ({ s with fab := { s.fab with inq := s.fab.inq ++ [(port, p)] } }).notePeak port
        t.routeWaiting ⟨some port, p⟩ landing

/-- A packet that waits for injection is named: a notice to all goes out on every port that carries it, any other is routed. -/
def State.inject (s : State) (p : Pkt) (landing : Nat) : State :=
  if isFlood p then (if s.noticeRoom then (s.dropWaiting ⟨none, p⟩).injectFlood p else s)
  else s.routeWaiting ⟨none, p⟩ landing

/-- The command whose packet a quench holds at a Landing: it completes with QUENCHED (R456); a COMMIT runs on. -/
def State.quenchedSender (s : State) (p : Pkt) : Option Cmd :=
  if p.src = s.pkg then
    (s.findCmd ⟨p.ring, p.seq⟩).bind fun m => if m.opcode ≠ 0x60 ∧ ofCmd m p = true ∧ s.heldBack m = true then some m else none
  else none

/-- The Landing of a port (R427). -/
def portLanding (port : Nat) : Nat := 20 * (port / 3) + 8 * (port % 3)

/-- What the Landing does with a packet: one that waits for injection, one that waits in the input buffer of a port, or one that
arrives on it. -/
def State.routeFrom (s : State) (p : Pkt) : RouteSource → State
  | .injected landing =>
    if !s.fab.outq.contains p then s
    else match s.quenchedSender p with
      | some m => s.endUnsent m
      | none => s.inject p landing
  | .arrives q => if q < 48 ∧ s.portUsable q = true then s.arrive p q (portLanding q) else s
  | .waits q => if s.fab.inq.contains (q, p) then s.routeWaiting ⟨some q, p⟩ (portLanding q) else s

/-- A row of a Landing: time and credit count first, then the packet named, then the copies of notices that have credit, whose
commands end with them (R399). -/
def packetRoute (p : Pkt) (source : RouteSource) (sight : RouteSight) (s : State) : State :=
  let s := (s.countWaits.takeCredit sight).payOwed.sendFloods
  ((s.routeFrom p source).endPoisons).markWaits (match source with
    | .injected landing => landing
    | .arrives q => portLanding q
    | .waits q => portLanding q)

def execPacketRoute (p : Pkt) (source : RouteSource) (sight : RouteSight) (s : State) :
    Host.Outcome State Fault Refusal :=
  fin (packetRoute p source sight s)

/-! ### Prunes (R451) -/

/-- A prune notice: the command, and the package and port that pruned. -/
def pruneNotice (p : Pkt) (s : State) : State :=
  let s := s.unbox p
  match p.body with
  | .notice _ w1 w2 _ => s.notePrune ⟨bits w1 11 0, bits w1 31 16⟩ (bits w2 31 16) (bits w2 15 0)
  | _ => s

def execPruneNotice (p : Pkt) (s : State) : Host.Outcome State Fault Refusal := fin (pruneNotice p s)

end Sys2Proof.Machine
end

