-- ==== Sys2Proof/Machine/MemCmds.lean ====
section
/-! DEFINITION. COPY and FILL (R135, R136), the scrub of the stacks (R46, R47, R580) and the zeroing of the Cellar
(R562). -/

namespace Sys2Proof.Machine

open Fp

/-! ### COPY and FILL -/

/-- Elements in one unit of 64 KiB of the destination. -/
def unitElems (t : Tensor) : Nat := 131072 / max 1 t.halves

/-- The scale byte of a block, as stored. -/
def State.scaleByte (s : State) (t : Tensor) (c : List Nat) : Nat := ofLe (s.peek t.metaTier (t.scaleAddr c) 1)

/-- Writes elements' bits as they stand; MXFP4 comes in whole blocks with their scale bytes. -/
def State.writeSame (s : State) (t : Tensor) (es : List (List Nat × Nat × Nat)) : State × Option (Nat × Nat) :=
  if isMx t.fmt then
    s.writeBlocks t ((wholeGroups es).map fun g => ⟨(g.head?.map (·.1)).getD [], g.map (·.2.1), (g.head?.map (·.2.2)).getD 0⟩)
  else s.writeElems t (es.map fun e => (e.1, e.2.1))

/-- Copies the elements with linear indices first..first+n-1 (R52, R56): equal formats bit for bit. -/
def State.copyRun (s : State) (src dst : Tensor) (first n : Nat) : State × Option (Nat × Nat) × Flags :=
  let cs := src.run first n
  let r := s.touchElems src cs
  match r.2 with
  | some x => (r.1, some x, {})
  | none =>
    let s := r.1
    if src.fmt = dst.fmt then
      let w := s.writeSame dst (cs.map fun c => (c, s.elemBits src c, if isMx src.fmt then s.scaleByte src c else 0))
      (w.1, w.2, {})
    else s.writeVals dst (cs.map fun c => (c, s.elem src c, Mode.nearest))

/-- Counts a unit done once its writes reach the Cellar, the Deep Cellar or host memory (R113). -/
def State.unitDone (s : State) (c : CmdId) (t : Tensor) (n : Nat) : State := if 3 ≤ t.tier then s.progress c n else s

/-- Units of a command in order from `u`, each by `f`; an uncorrectable unit of memory ends the command (R135). -/
def runUnits (c : CmdId) (t : Tensor) (f : Nat → State → State × Option (Nat × Nat) × Flags) : Nat → Nat → State → State
  | 0, _, s => s.complete c okStatus
  | n + 1, u, s =>
    let r := f u s
    let s := r.1.addFlags c r.2.2
    match r.2.1 with
    | some x => s.complete c (uncorrAt x.1 x.2)
    | none => runUnits c t f n (u + 1) (s.unitDone c t (u + 1))

/-- The elements of unit u. -/
def unitSpan (t : Tensor) (u : Nat) : Nat × Nat :=
  (u * unitElems t, min (unitElems t) (t.count - u * unitElems t))

def unitCount (t : Tensor) : Nat := upDiv t.count (unitElems t)

/-- COPY's arguments (R136). -/
def State.copyArgs (s : State) (m : Cmd) : Except Status (Tensor × Tensor) := do
  let src ← s.tensorArg m 4
  let dst ← s.tensorArg m 6
  need (src.ndim == dst.ndim && src.sizes == dst.sizes) (badDesc dst.at_)
  let a := s.extent src
  let b := s.extent dst
  need (src.tier != dst.tier || decide (a.2 < b.1) || decide (b.2 < a.1)) (oor 6)
  pure (src, dst)

def runCopy (c : CmdId) (s : State) : State :=
  s.run c 0x10 fun m s =>
    match s.copyArgs m with
    | .error st => s.refuse c st
    | .ok (src, dst) =>
      runUnits c dst (fun u s => s.copyRun src dst (unitSpan dst u).1 (unitSpan dst u).2) (unitCount dst) 0 s

def execCopy (c : CmdId) (s : State) : Host.Outcome State Fault Refusal := fin (runCopy c s)

/-- FILL's arguments (R135): the reserved bits of word 6 follow the destination's width. -/
def State.fillArgs (s : State) (m : Cmd) : Except Status Tensor := do
  let dst ← s.tensorArg m 4
  need (!isMx dst.fmt) (badFormat 4 dst.fmt)
  let bad := m.word 6 / 2 ^ width dst.fmt * 2 ^ width dst.fmt
  need (bad == 0) ⟨St.badReserved, 6, bad⟩
  pure dst

def State.fillRun (s : State) (dst : Tensor) (v first n : Nat) : State × Option (Nat × Nat) × Flags :=
  let w := s.writeElems dst ((dst.run first n).map fun c => (c, v))
  (w.1, w.2, {})

def runFill (c : CmdId) (s : State) : State :=
  s.run c 0x11 fun m s =>
    match s.fillArgs m with
    | .error st => s.refuse c st
    | .ok dst =>
      runUnits c dst (fun u s => s.fillRun dst (m.word 6) (unitSpan dst u).1 (unitSpan dst u).2) (unitCount dst) 0 s

def execFill (c : CmdId) (s : State) : Host.Outcome State Fault Refusal := fin (runFill c s)

/-! ### Scrub (R46, R47, R580) -/

/-- A line is read, and a correctable one counted and written back, unless a write came between; an uncorrectable one is
reported. What it moves is foreground traffic (R236), and a line written back wears the Deep Cellar (R579). The last line of a
pass over both stacks of its pair restarts the pair's age. -/
def scrub (tier line : Nat) (write last : Bool) (s : State) : State :=
  let addr := 64 * line
  if (tier ≠ 3 ∧ tier ≠ 4) ∨ s.hasAddr tier addr = false then s else
  let key := memKey tier addr
  let s := s.meter tier addr 64
  let s := match eccVerdict tier key (Tab.get noErr s.errs key) with
    | .corrected =>
      let s := s.countCorrected tier addr
      if write then s else ((s.setErr key 0).meter tier addr 64 true).addWear tier addr 64
    | .uncorrectable => s.countUncorrectable tier addr
    | _ => s
  if last then { s with scrubAge := Tab.put noErr s.scrubAge (stackOf tier addr) 0 } else s

def execScrubLine (tier line : Nat) (write last : Bool) (s : State) : Host.Outcome State Fault Refusal :=
  fin (scrub tier line write last s)

/-! ### Zeroing (R562) -/

/-- Lines of a Cellar stack. -/
def stackLines : Nat := 2 ^ 31

def State.anyZeroing (s : State) : Bool := (List.range 12).any fun k => s.flag (F.zeroing k)

/-- The next line of stack k is written with zero data. A line that an access has reached first is not zeroed again; a
line not yet reached reads as zero, so the memory stands as it is. The line written is foreground traffic (R236). -/
def zeroLine (k : Nat) (s : State) : State :=
  if s.flag (F.zeroing k) then
    let n := Tab.get noErr s.zeroAt k + 1
    let s := ({ s with zeroAt := Tab.put noErr s.zeroAt k n }).meter 3 (k * 2 ^ 37 + 64 * (n - 1)) 64 true
    if stackLines ≤ n then
      let s := s.setFld (F.zeroing k) 0
      s.setFld F.bootZeroing s.anyZeroing.toNat
    else s
  else s

def execCellarZeroingLine (k : Nat) (s : State) : Host.Outcome State Fault Refusal := fin (zeroLine k s)

end Sys2Proof.Machine
end

