-- ==== Sys2Proof/Machine/Versions.lean ====
section
/-! DEFINITION. Replacing tables in service (R228 to R246): TABLE_STAGE, TABLE_REBUILD, TABLE_SWITCH, its lock point and
veto, the retirement of a version, and the rebuild meter. -/

namespace Sys2Proof.Machine

open Fp

/-- LATE_INSTANT with the STIME of the refusal (R109). -/
def State.late (s : State) : Status := ⟨St.lateInstant, s.tb.stime % 2 ^ 32, s.tb.stime / 2 ^ 32⟩

/-! ### The rebuild meter (R236) -/

/-- Bytes per 10 µs of a resource. -/
def capacity (k : Nat) : Nat := if k < 16 then 24000000 else if k < 32 then 800000 else if k < 48 then 320000 else 1280000

/-- Every metered resource. -/
def resources : List Nat := (List.range 12) ++ (List.range 12).map (16 + ·) ++ (List.range 12).map (32 + ·) ++ [48, 49, 50, 51]

/-- Does a piece of rebuild traffic unless it would pass what a held resource has left; its bytes are no foreground
traffic. -/
def State.metered (s : State) (f : State → State × α) : Option (State × α) :=
  let r := f s
  let used := fun (k : Nat) => Tab.get noErr r.1.moved k - Tab.get noErr s.moved k
  if s.erm.budget.all fun b => decide (used b.1 ≤ b.2) then
    some ({ r.1 with moved := s.moved, erm := { r.1.erm with budget := s.erm.budget.map fun b => (b.1, b.2 - used b.1) } },
      r.2)
  else none

/-! ### TABLE_STAGE (R231) -/

/-- The entry a staged version begins with: a zero row with the heat of the version in force. -/
def State.stageRow (s : State) (old new : List W) (row : Nat) : State × Option Status :=
  let t := s.ermTouch 3 (dirAddr old row) 8
  match t.2 with
  | some a => (t.1, some (uncorrAt 3 a))
  | none =>
    let e : Dir := { loc := 5, fmt := 0, dual := false, dirty := false, heat := (t.1.dir old row).heat, addr16 := 0 }
    let w := t.1.ermWrite 3 (dirAddr new row) (leBytes 8 e.bits)
    (w.1, w.2.map (uncorrAt 3))

/-- Rows of TABLE_STAGE from the i-th on; it waits when a held resource has no bytes left. -/
def stageLoop (c : CmdId) (n : Nat) (old new : List W) : Nat → Nat → State → State
  | 0, _, s => (s.mapHandle n fun h => { h with built := true }).complete c okStatus
  | k + 1, i, s =>
    match s.metered fun s => s.stageRow old new (tFirst new + i) with
    | none => s.setAux c [i]
    | some (s, some st) => (s.dropHandle n).complete c st
    | some (s, none) => stageLoop c n old new k (i + 1) (s.progress c ((i + 1) / 65536))

/-- The checks of R231 on the descriptors. -/
def sameTable (a b : List W) : Bool :=
  tEmbed a == tEmbed b && tWidth a == tWidth b && tRows a == tRows b && tFirst a == tFirst b && tLocal a == tLocal b &&
    tShard a == tShard b && tMap a == tMap b

/-- TABLE_STAGE from a row on, its staging handle open. -/
def stageFrom (m : Cmd) (s : State) : State :=
  match s.handle (m.bits 4 15 8), s.handle (m.bits 4 7 0) with
  | some st, some mn => stageLoop m.id st.n mn.desc st.desc (tLocal st.desc - m.at_) m.at_ s
  | _, _ => s.refuse m.id (oor 4)

/-- The checks of TABLE_STAGE on the new version, whose map is read as rebuild traffic; with no bytes left the command waits
(R231, R236). -/
def State.openStage (s : State) (m : Cmd) (h : Handle) (d : List W) : State :=
  let sn := m.bits 4 15 8
  match s.metered fun s => s.touchMap d with
  | none => s
  | some (s, some a) => s.refuse m.id (uncorrAt 3 a)
  | some (s, none) =>
    if !s.tableOk d || !sameTable d h.desc || tVersion d != (tVersion h.desc + 1) % 65536 then
      s.refuse m.id (badDesc (m.ptr 5).addr)
    else if !disjoint (tDir d) (8 * tLocal d) (tDir h.desc) (8 * tLocal h.desc) then s.refuse m.id (oor 5)
    else stageFrom { m with aux := [] } (s.openHandle { n := sn, desc := d, role := .staging h.n })

/-- TABLE_STAGE before its staging handle is open. -/
def stageStart (m : Cmd) (s : State) : State :=
  match s.mainFor m (m.bits 4 7 0) with
  | none => s.refuse m.id (oor 4)
  | some h =>
    if (s.stagedOf h.n).isSome || (s.handle (m.bits 4 15 8)).isSome then s.refuse m.id (oor 4) else
    match m.block 5 (m.ptr 5) 64 with
    | .error st => s.refuse m.id st
    | .ok d => s.openStage m h d

def runTableStage (c : CmdId) (s : State) : State := s.run c 0x38 stageStart

def execTableStage (c : CmdId) (s : State) : Host.Outcome State Fault Refusal := fin (runTableStage c s)

/-! ### TABLE_REBUILD (R232) -/

/-- How a rebuilt row ends. -/
inductive RebuildEnd where
  | done (flags : Flags)
  | noRecord
  | fail (st : Status)
deriving DecidableEq, Repr

/-- Writes a row's record into a staged version and points its entry there. -/
def State.rebuildRec (s : State) (d : List W) (row : Nat) (e : Dir) (v : RowVal) : State × RebuildEnd :=
  let k := s.rowClass d e.heat
  let f := classFmt d k
  let a := s.alloc (classTier k) (recBytes d f)
  match a.2 with
  | none => (a.1, .noRecord)
  | some x =>
    let out := rowRecord d f v
    let w := a.1.ermWrite (classTier k) x out.1
    match w.2 with
    | some y => (w.1, .fail (uncorrAt (classTier k) y))
    | none =>
      (w.1.setDir d row { e with loc := tierLoc (classTier k), fmt := f, addr16 := x / 16, dirty := true }, .done out.2)

/-- Writes one row into a staged version. -/
def State.rebuildRow (s : State) (d : List W) (src : Tensor) (acc : Bool) (row j : Nat) : State × RebuildEnd :=
  let t := s.ermTouch 3 (dirAddr d row) 8
  match t.2 with
  | some a => (t.1, .fail (uncorrAt 3 a))
  | none =>
    let r := t.1.sourceRow src d acc j
    match r.2 with
    | .error st => (r.1, .fail st)
    | .ok v => r.1.rebuildRec d row (r.1.dir d row) v

def rebuildLoop (c : CmdId) (d : List W) (src : Tensor) (acc : Bool) (first : Nat) : Nat → Nat → State → State
  | 0, _, s => s.complete c okStatus
  | k + 1, i, s =>
    match s.metered fun s => s.rebuildRow d src acc (first + i) i with
    | none => s.setAux c [i]
    | some (s, .fail st) => s.complete c st
    | some (s, .noRecord) => s.complete c (busy 0x0050)
    | some (s, .done f) => rebuildLoop c d src acc first k (i + 1) ((s.addFlags c f).progress c ((i + 1) / 65536))

/-- First global row of a TABLE_REBUILD. -/
def rebuildFirst (m : Cmd) : Nat := m.word 5 + 2 ^ 32 * m.bits 6 7 0

/-- An earlier TABLE_REBUILD of the staging handle over common rows, or the handle's TABLE_STAGE, has not completed. -/
def State.rebuildWaits (s : State) (m : Cmd) : Bool :=
  s.cmds.any fun o => decide (o.order < m.order) &&
    ((o.opcode == 0x39 && o.bits 4 7 0 == m.bits 4 7 0 &&
        !disjoint (rebuildFirst o) (o.word 7) (rebuildFirst m) (m.word 7)) ||
      (o.opcode == 0x38 && o.bits 4 15 8 == m.bits 4 7 0))

/-- The checks of R230 on a TABLE_REBUILD. -/
def State.rebuildArgs (s : State) (m : Cmd) (d : List W) : Except Status Tensor := do
  need (m.word 7 != 0) (oor 7)
  let src ← s.sourceTensor m 8 8 d (m.bits 4 8 8 == 1) (m.word 7)
  need (tHolds d (rebuildFirst m) && decide (rebuildFirst m + m.word 7 ≤ tFirst d + tLocal d)) (oor 5)
  pure src

def rebuildFrom (m : Cmd) (s : State) : State :=
  match s.openFor m (m.bits 4 7 0) with
  | none => s.refuse m.id (oor 4)
  | some h =>
    match h.role, h.locked with
    | .staging _, none =>
      match s.rebuildArgs m h.desc with
      | .error st => s.refuse m.id st
      | .ok src => rebuildLoop m.id h.desc src (m.bits 4 8 8 == 1) (rebuildFirst m) (m.word 7 - m.at_) m.at_ s
    | .staging _, some r => s.refuse m.id (heldBy 0x0051 r)
    | _, _ => s.refuse m.id (oor 4)

def runTableRebuild (c : CmdId) (s : State) : State :=
  match s.findCmd c with
  | none => s
  | some m => if s.rebuildWaits m then s else s.run c 0x39 fun m s => rebuildFrom m s

def execTableRebuild (c : CmdId) (s : State) : Host.Outcome State Fault Refusal := fin (runTableRebuild c s)

/-- Rebuild commands that wait for bandwidth go on. -/
def State.resumeRebuilds (s : State) : State :=
  (s.cmds.filter fun m => m.phase == .running && (m.opcode == 0x38 || m.opcode == 0x39)).foldl
    (fun s m => match s.findCmd m.id with
      | some m =>
        if m.opcode = 0x39 then rebuildFrom m s
        else if (s.handle (m.bits 4 15 8)).isSome then stageFrom m s else stageStart m s
      | none => s) s

/-- The end of a meter window, 10 µs after it began (R236). -/
def meterWindow (s : State) : State :=
  if s.tb.stime < s.erm.meterAt + 10000 then s else
  let held := resources.filter fun k => decide (s.fld F.verThreshold * capacity k < 16 * Tab.get noErr s.moved k)
  let budget := held.map fun k => (k, capacity k * s.fld F.verShare / 64)
  ({ s with moved := [], erm := { s.erm with budget := budget, meterAt := s.tb.stime } }).resumeRebuilds

def execRebuildMeterWindow (s : State) : Host.Outcome State Fault Refusal := fin (meterWindow s)

/-! ### TABLE_SWITCH (R237 to R242) -/

/-- A staged version is ready: its TABLE_STAGE has completed and no TABLE_REBUILD naming it is uncompleted. -/
def State.versionReady (s : State) (h : Handle) : Bool :=
  h.built && s.cmds.all fun m => !(m.opcode == 0x39 && m.bits 4 7 0 == h.n)

/-- The staging handle a TABLE_SWITCH names, if it is one of the main handle it names. -/
def State.switchTarget (s : State) (m : Cmd) : Option (Handle × Handle) :=
  match s.mainFor m (m.bits 4 7 0), s.openFor m (m.bits 4 15 8) with
  | some mn, some st => if st.role = .staging mn.n then some (mn, st) else none
  | _, _ => none

/-- The switch takes effect (R242): a stamp from T on reads the new version, and of a switch without T one after the present
STIME, so that a layer stamped now reads one version throughout (R243). The command runs on until the old version retires
(R245). -/
def State.switchVersion (s : State) (m : Cmd) (mn st : Handle) : State :=
  let from_ := if m.sched then m.t else s.tb.stime + 1
  let s := s.begin m.id
  let s := s.dropWins (s.erm.wins.filter fun w => w.dir == tDir mn.desc && w.moved.isNone)
  let old : Retiring := { main := mn.n, desc := mn.desc, since := mn.since, until_ := from_, cmd := m.id }
  let s := { s with erm := { s.erm with retiring := s.erm.retiring ++ [old] } }
  let s := s.mapHandle mn.n fun h => { h with desc := st.desc, since := from_ }
  (s.mapHandle st.n fun h => { h with role := .follow mn.n, locked := none }).resumeMigrates

/-- At T: a locked switch takes effect; any other is late (R239, R240). aux holds 1 once the lock point has locked it. -/
def State.tableSwitchAt (s : State) (m : Cmd) : State :=
  match s.switchTarget m with
  | none => s.refuse m.id (oor 4)
  | some (mn, st) =>
    let ok := if m.aux.isEmpty then s.versionReady st else m.aux.getD 0 0 == 1
    if ok then s.switchVersion m mn st else s.complete m.id s.late

/-- Remembers a veto (R240), for as long as an instant it speaks of can lie ahead. -/
def State.noteVeto (s : State) (job main version : Nat) : State :=
  { s with erm := { s.erm with
      vetoes := ⟨job, main, version, s.tb.stime⟩ :: s.erm.vetoes.filter fun v => decide (s.tb.stime ≤ v.at_ + maxLead) } }

/-- A veto sent or received before its T names a scheduled switch (R240). A veto carries no T: one of the same job, main handle
and version that came within the longest lock_lead before T is taken to be the switch's (assumption 87). -/
def State.vetoed (s : State) (m : Cmd) (mn st : Handle) : Bool :=
  m.sched && m.job != 0 && s.erm.vetoes.any fun v => v.job == m.job && v.main == mn.n && v.version == tVersion st.desc &&
    decide (v.at_ < m.t) && decide (m.t ≤ v.at_ + maxLead)

/-- TABLE_SWITCH: unscheduled it acts at once; scheduled it is checked against its lock point and waits (R238). -/
def runTableSwitch (c : CmdId) (s : State) : State :=
  match s.runnable c 0x3A with
  | none => s
  | some m =>
    match s.switchTarget m with
    | none => s.refuse c (oor 4)
    | some (mn, st) =>
      if m.sched then
        if m.t < m.accAt + 1000 * s.fld F.verLead ∨ s.vetoed m mn st = true then s.refuse c s.late else s.arm c
      else if s.versionReady st then s.switchVersion m mn st
      else s.refuse c s.late

def execTableSwitch (c : CmdId) (s : State) : Host.Outcome State Fault Refusal := fin (runTableSwitch c s)

/-- The lock point T − lock_lead (R239): a version that another switch has locked is refused (R143); a ready package locks, any
other vetoes and does not switch. -/
def switchLock (c : CmdId) (s : State) : State :=
  match s.findCmd c with
  | none => s
  | some m =>
    if m.opcode = 0x3A ∧ m.phase = .armed ∧ m.aux = [] ∧ m.t ≤ s.tb.stime + 1000 * s.fld F.verLead then
      match s.switchTarget m with
      | none => s.refuse c (oor 4)
      | some (mn, st) =>
        if let some r := st.locked then s.refuse c (heldBy 0x0051 r)
        else if s.versionReady st then
          (s.mapHandle st.n fun h => { h with locked := some c.ring }).setAux c [1]
        else if m.job = 0 then s.setAux c [2]
        else
          (((s.flood 3 0 m.job (tVersion st.desc * 2 ^ 16 + mn.n) 0).noteVeto m.job mn.n (tVersion st.desc)).bump
            F.verVetoed).complete c s.late
    else s

def execTableSwitchLockPoint (c : CmdId) (s : State) : Host.Outcome State Fault Refusal := fin (switchLock c s)

/-- Remembers a veto, and ends the armed switches that it names: job tag, main handle and new version (R240). -/
def State.vetoSwitches (s : State) (job main version : Nat) : State :=
  (s.cmds.filter fun m => m.opcode == 0x3A && m.phase == .armed && m.job == job && m.bits 4 7 0 == main).foldl
    (fun s m => match s.switchTarget m with
      | some (_, st) =>
        if tVersion st.desc = version then
          (s.mapHandle st.n fun h => { h with locked := none }).complete m.id s.late
        else s
      | none => s) (s.noteVeto job main version)

def tableVeto (p : Pkt) (inPort : Option Nat) (s : State) : State :=
  let r := (s.unbox p).recvFlood p inPort
  match r.2, p.body with
  | true, .notice _ w1 _ _ => if p.job = 0 then r.1 else r.1.vetoSwitches p.job (bits w1 7 0) (bits w1 31 16)
  | _, _ => r.1

def execTableVetoNotice (p : Pkt) (inPort : Option Nat) (s : State) : Host.Outcome State Fault Refusal :=
  fin (tableVeto p inPort s)

/-- A gather layer of a command reads the table of a main handle. -/
def State.gatherReads (s : State) (m : Cmd) (o : Op) (main : Nat) : Bool :=
  match o.kind with
  | .gather l _ =>
    match (m.rawLayers.drop l).head? with
    | some y => y.bits 6 31 30 == 0 && (match s.handle (y.bits 6 15 8) with
        | some h => (s.mainOf h).n == main
        | none => false)
    | none => false
  | _ => false

/-- Something stamped before a switch still reads the version it replaced (R245). -/
def State.stillRead (s : State) (r : Retiring) : Bool :=
  (s.cmds.any fun m => m.ops.any fun o => o.stage != .done && (match o.stamp with
      | some t => decide (t < r.until_)
      | none => false) && s.gatherReads m o r.main) ||
    (match s.ck.stream with
      | some k => decide (k.stime < r.until_) && k.todo.any fun g => g.type == 4 && g.item == r.main
      | none => false)

/-- A version retires (R245). -/
def versionRetire (c : CmdId) (s : State) : State :=
  match s.erm.retiring.find? fun r => decide (r.cmd = c) with
  | none => s
  | some r =>
    if r.until_ + 1000 * s.fld F.grace ≤ s.tb.stime ∧ s.stillRead r = false then
      let s := { s with erm := { s.erm with
        retiring := s.erm.retiring.filter fun q => decide (q.cmd ≠ c)
        guests := s.erm.guests.filter fun g => !(g.handle == r.main && g.version == tVersion r.desc) } }
      s.complete c okStatus
    else s

def execTableVersionRetire (c : CmdId) (s : State) : Host.Outcome State Fault Refusal := fin (versionRetire c s)

/-- ERM.VER_HANDLE_n (R250). -/
def State.verHandle (s : State) (n : Nat) : Nat :=
  match s.handle n with
  | none => 0
  | some h =>
    let mn := s.mainOf h
    let isMain := h.role == .main
    let st := s.stagedOf n
    let partner := match h.role with
      | .main => (st.map (·.n)).getD 0
      | .staging k => k
      | .follow k => k
    (isMain && st.isSome).toNat * 2 ^ 31 +
      ((match st with | some x => isMain && x.locked.isSome | none => false) ||
        (!isMain && h.locked.isSome)).toNat * 2 ^ 30 +
      (isMain && s.erm.retiring.any fun r => r.main == n).toNat * 2 ^ 29 + (!isMain).toNat * 2 ^ 28 +
      partner * 2 ^ 16 + tVersion mn.desc

end Sys2Proof.Machine
end

