-- ==== Sys2Proof/Machine/Transfers.lean ====
section
/-! DEFINITION. The fabric's commands (R462): routing images and their switch (R439, R443, R446), quench (R456, R457),
transfers (R452), congestion maps (R459, R460); acknowledgements (R447, R448) and the notices that end a command (R442,
R461). -/

namespace Sys2Proof.Machine

/-! ### ROUTE_LOAD (R439, R443) -/

def State.bankLocked (s : State) (b : Nat) : Bool := s.fab.locks.getD b false

/-- The ring of the switch that locked a bank. -/
def State.lockRing (s : State) (b : Nat) : Nat :=
  match s.cmds.find? fun m => m.opcode == 0x91 && m.phase == .armed && m.aux == [1] && m.bits 4 0 0 == b with
  | some m => m.id.ring
  | none => noHolder

def State.routeArg (s : State) (m : Cmd) : Except Status Tensor := do
  let t ← s.tensorArg m 4
  need (t.fmt == 7) (badFormat 4 t.fmt)
  need (t.ndim == 1) (badDesc t.at_)
  pure t

def runRouteLoad (c : CmdId) (s : State) : State :=
  s.run c 0x90 fun m s =>
    let b := m.bits 6 0 0
    match s.routeArg m with
    | .error st => s.refuse c st
    | .ok _ =>
      let st := s.bankState b
      if st = Bank.active ∨ st = Bank.retiring then s.refuse c (heldBy 0x60 noHolder)
      else if s.bankLocked b then s.refuse c (heldBy 0x60 (s.lockRing b))
      else s.setBank b Bank.loading

def execRouteLoad (c : CmdId) (s : State) : Host.Outcome State Fault Refusal := fin (runRouteLoad c s)

/-- Kind, reserved bits and size of an image (R439, R462). -/
def imageOk (bs : List Byte) : Bool :=
  let at_ := fun (o n : Nat) => ofLe ((bs.drop o).take n)
  let groups := at_ 4 4
  at_ 0 4 == 0xB * 2 ^ 28 && decide (groups ≤ 65536) && decide (8768 + 8 * groups ≤ bs.length) && at_ 8 56 == 0 &&
  ((List.range 64).all fun i => at_ (64 + 8 * i + 6) 2 == 0) &&
  ((List.range 4096).all fun i => at_ (576 + 2 * i) 2 / 64 % 64 == 0) &&
  (List.range groups).all fun g => at_ (8768 + 8 * g) 8 / 2 ^ 49 % 2 ^ 14 == 0

/-- The load of a bank ends; one that was accepted meanwhile begins (R443, assumption 105). -/
def State.loadEnds (s : State) (b st : Nat) (c : CmdId) (status : Status) : State :=
  let s := (s.setBank b st).complete c status
  if s.cmds.any fun m => m.opcode == 0x90 && m.phase == .running && m.bits 6 0 0 == b then s.setBank b Bank.loading else s

/-- The image of a LOADING bank has been read: copied and checked, or the load fails. -/
def bankLoaded (b : Nat) (s : State) : State :=
  match s.cmds.find? fun m => m.opcode == 0x90 && m.phase == .running && m.bits 6 0 0 == b && s.bankState b == Bank.loading with
  | none => s
  | some m =>
    match s.routeArg m with
    | .error st => s.loadEnds b Bank.empty m.id st
    | .ok t =>
      let cs := t.run 0 t.count
      let r := s.touchElems t cs
      match r.2 with
      | some x => r.1.loadEnds b Bank.empty m.id (uncorrAt x.1 x.2)
      | none =>
        let bs := cs.flatMap fun e => leBytes 4 (r.1.elemBits t e)
        if !imageOk bs then r.1.loadEnds b Bank.empty m.id (badDesc t.at_) else
        let s := r.1.put 3 (r.1.bankRegion b) (bs.take (8768 + 8 * ofLe ((bs.drop 4).take 4)))
        State.loadEnds { s with fab := { s.fab with banks := s.fab.banks.set b (bs.take 8768) } } b Bank.standby m.id okStatus

def execRouteBankLoaded (bank : Nat) (s : State) : Host.Outcome State Fault Refusal := fin (bankLoaded bank s)

/-! ### ROUTE_SWITCH (R446) -/

/-- The switch takes effect; the command runs on until the old bank is IDLE. -/
def State.takeRouteSwitch (s : State) (m : Cmd) : State :=
  let b := m.bits 4 0 0
  let s := s.begin m.id
  let old := s.bankState (1 - b) == Bank.active
  let s := if old then s.setBank (1 - b) Bank.retiring else s
  let s := ((s.setBank b Bank.active).setFld F.rtActive b).setLock b false
  if s.bankState (1 - b) = Bank.retiring then s else s.complete m.id okStatus

/-- At T (R86): a locked switch takes effect, any other is late. aux holds 1 once its lock point has locked the bank. -/
def State.routeSwitchAt (s : State) (m : Cmd) : State :=
  let ok := if m.aux.isEmpty then s.bankState (m.bits 4 0 0) == Bank.standby else m.aux == [1]
  if ok then s.takeRouteSwitch m else s.complete m.id s.late

/-- Remembers a route veto, for as long as an instant it speaks of can lie ahead (R446). -/
def State.noteRouteVeto (s : State) (job bank : Nat) : State :=
  { s with fab := { s.fab with
      vetoes := (job, bank, s.tb.stime) :: s.fab.vetoes.filter fun v => decide (s.tb.stime ≤ v.2.2 + maxLead) } }

/-- A veto sent or received before its T names a scheduled switch (R446). A veto carries no T: one of the same job and bank that
came within the longest lock_lead before T is taken to be the switch's (assumption 87). -/
def State.routeVetoed (s : State) (m : Cmd) : Bool :=
  m.sched && m.job != 0 && s.fab.vetoes.any fun v => v.1 == m.job && v.2.1 == m.bits 4 0 0 &&
    decide (v.2.2 < m.t) && decide (m.t ≤ v.2.2 + maxLead)

def runRouteSwitch (c : CmdId) (s : State) : State :=
  match s.runnable c 0x91 with
  | none => s
  | some m =>
    if m.sched then (if s.routeVetoed m then s.refuse c s.late else s.arm c)
    else if s.bankState (m.bits 4 0 0) = Bank.standby then s.takeRouteSwitch m
    else s.refuse c s.late

def execRouteSwitch (c : CmdId) (s : State) : Host.Outcome State Fault Refusal := fin (runRouteSwitch c s)

/-- ROUTE_CFG.lock_lead in ns; below 25 µs it is taken as 25 (R464). -/
def State.routeLead (s : State) : Nat := 1000 * max 25 (s.fld F.routeLead)

/-- The lock point: a package with the bank in STANDBY locks it, any other vetoes. -/
def routeLock (c : CmdId) (s : State) : State :=
  match s.findCmd c with
  | none => s
  | some m =>
    if m.opcode = 0x91 ∧ m.phase = .armed ∧ m.aux = [] ∧ m.t ≤ s.tb.stime + s.routeLead then
      let b := m.bits 4 0 0
      if s.bankState b = Bank.standby then (s.setLock b true).setAux c [1]
      else if m.job = 0 then s.setAux c [2]
      else ((s.flood 4 0 m.job b 0).noteRouteVeto m.job b).complete c s.late
    else s

def execRouteSwitchLockPoint (c : CmdId) (s : State) : Host.Outcome State Fault Refusal := fin (routeLock c s)

/-- A route veto of the switch's job ends it, or is remembered for one that is not armed yet (R446). -/
def routeVeto (p : Pkt) (inPort : Option Nat) (s : State) : State :=
  let r := (s.unbox p).recvFlood p inPort
  match r.2, p.body with
  | true, .notice _ w1 _ _ =>
    if p.job = 0 then r.1 else
    (r.1.cmds.filter fun m => m.opcode == 0x91 && m.phase == .armed && m.job == p.job && m.bits 4 0 0 == bits w1 0 0).foldl
      (fun s m => s.complete m.id s.late) (r.1.noteRouteVeto p.job (bits w1 0 0))
  | _, _ => r.1

def execRouteVetoNotice (p : Pkt) (inPort : Option Nat) (s : State) : Host.Outcome State Fault Refusal :=
  fin (routeVeto p inPort s)

/-- A RETIRING bank with nothing in flight is IDLE, and the switch that retired it completes. -/
def bankIdle (b : Nat) (s : State) : State :=
  if s.bankState b = Bank.retiring ∧ s.inflight b = 0 then
    (s.cmds.filter fun m => m.opcode == 0x91 && m.phase == .running && m.bits 4 0 0 == 1 - b).foldl
      (fun s m => s.complete m.id okStatus) (s.setBank b Bank.idle)
  else s

def execRouteBankIdle (bank : Nat) (s : State) : Host.Outcome State Fault Refusal := fin (bankIdle bank s)

/-! ### QUENCH (R456, R457) -/

def runQuench (c : CmdId) (s : State) : State :=
  s.run c 0x92 fun m s =>
    let scope := m.bits 4 17 16
    let job := if scope = 1 then m.bits 4 15 0 else 0
    let release := m.bits 4 31 31 == 1
    if scope = 3 then s.refuse c (oor 4) else
    let s := if scope = 0 then s else s.flood 6 (if release then 0 else 1) job scope 0
    let s := if release then s.releaseScope scope job else s.quenchScope scope job
    s.complete c okStatus

def execQuench (c : CmdId) (s : State) : Host.Outcome State Fault Refusal := fin (runQuench c s)

/-- A quench notice: system scope is delivered by every package (R454). -/
def quenchNotice (p : Pkt) (inPort : Option Nat) (s : State) : State :=
  let seen := ((s.unbox p).fab.seen.filter fun q => decide (s.tb.stime < q.2.2 + 1000000)).any fun q => q.1 == p.src && q.2.1 == p.seq
  let r := (s.unbox p).recvFlood p inPort
  match p.body with
  | .notice w0 w1 _ _ =>
    let scope := bits w1 1 0
    if seen || !(r.2 || scope == 2) || scope == 0 || scope == 3 then r.1
    else if bits w0 27 24 = 0 then r.1.releaseScope scope p.job
    else r.1.quenchScope scope p.job
  | _ => r.1

def execQuenchNotice (p : Pkt) (inPort : Option Nat) (s : State) : Host.Outcome State Fault Refusal :=
  fin (quenchNotice p inPort s)

/-! ### Transfers (R452) -/

/-- Bytes of a transfer: the elements as stored, then the scale bytes of an MXFP4 tensor. -/
def xferLen (t : Tensor) : Nat := t.byteCount + if isMx t.fmt then upDiv t.count 32 else 0

/-- Elements in n bytes. -/
def elemsIn (t : Tensor) (n : Nat) : Nat := 2 * n / max 1 t.halves

/-- The bytes of elements in linear order. -/
def State.elemStream (s : State) (t : Tensor) (first n : Nat) : List Byte :=
  let cs := (t.run first n).map (s.elemBits t)
  if isMx t.fmt then packNibbles cs else cs.flatMap fun b => leBytes (Fp.width t.fmt / 8) b

/-- The scale bytes of all blocks. -/
def State.scaleStream (s : State) (t : Tensor) : List Byte :=
  if isMx t.fmt then (List.range (upDiv t.count 32)).map fun b => BitVec.ofNat 8 (s.scaleByte t (t.coord (32 * b))) else []

/-- Offset and bytes of each packet of a stream. -/
def cutBytes (bs : List Byte) : List (Nat × List Byte) :=
  (List.range (upDiv bs.length 2048)).map fun i => (2048 * i, (bs.drop (2048 * i)).take 2048)

/-- A packet of a transfer. -/
def State.xferPkt (s : State) (src : Sender) (type : PType) (cls dst len : Nat) (fence : Bool) (body : Body) : Pkt :=
  { type := type, cls := cls, phase := 1, epoch := s.fld F.rtActive, fence := fence, len := upDiv len 16 * 16, dst := dst,
    src := s.pkg, via := dst, job := src.job, ring := src.id.ring, seq := src.id.seq, sink := 0, body := body }

/-- The request of a send. -/
def State.askTransfer (s : State) (m : Cmd) (t : Tensor) : State :=
  s.send (s.xferPkt m.sender .request 2 (m.bits 6 31 16) 16 false (.xferReq (m.words.getD 7 0) t.fmt (xferLen t)))

/-- XFER_SEND. aux: 0 the request is out, 1 it is to be repeated, 2 the data is sent; then the instant of a "busy"; then
the number of packets. -/
def runXferSend (c : CmdId) (s : State) : State :=
  s.run c 0x93 fun m s =>
    match s.tensorArg m 4 with
    | .error st => s.refuse c st
    | .ok t => (s.askTransfer m t).setAux c [0]

def execXferSend (c : CmdId) (s : State) : Host.Outcome State Fault Refusal := fin (runXferSend c s)

/-- The verdict of a receive on a request. -/
def verdict (t : Tensor) (fmt bytes : Nat) : XVerdict :=
  if fmt ≠ t.fmt then .formatDiffers else if bytes ≠ xferLen t then .countDiffers else .go

/-- The status of a receive or send that a verdict ends. -/
def verdictStatus (t : Tensor) : XVerdict → Option Status
  | .formatDiffers => some (badFormat 4 t.fmt)
  | .countDiffers => some (oor 4)
  | _ => none

/-- A receive meets a request: it answers, and ends where they differ. aux of a receive: 1 once it is matched, then the
offsets received. -/
def State.meet (s : State) (m : Cmd) (t : Tensor) (x : HeldXfer) : State :=
  let v := verdict t x.fmt x.bytes
  let s := s.send (s.xferPkt ⟨x.job, ⟨x.ring, x.seq⟩⟩ .response 3 x.src 16 false (.xferReply x.tag v))
  match verdictStatus t v with
  | some st => s.complete m.id st
  | none =>
    let s := s.setAux m.id [1]
    if xferLen t = 0 then s.complete m.id okStatus else s

/-- Whether a receive names a sender and tag. -/
def Cmd.receives (m : Cmd) (src : Nat) (tag : W) : Bool := m.opcode == 0x94 && m.bits 6 31 16 == src && m.words.getD 7 0 == tag

def runXferRecv (c : CmdId) (s : State) : State :=
  s.run c 0x94 fun m s =>
    let src := m.bits 6 31 16
    let tag := m.words.getD 7 0
    match s.tensorArg m 4 with
    | .error st => s.refuse c st
    | .ok t =>
      if s.cmds.any fun o => decide (o.order < m.order) && o.receives src tag then s.refuse c (oor 7) else
      match s.fab.held.find? fun x => x.src == src && x.tag == tag with
      | none => s.setAux c [0]
      | some x => ({ s with fab := { s.fab with held := s.fab.held.erase x } }).meet m t x

def execXferRecv (c : CmdId) (s : State) : Host.Outcome State Fault Refusal := fin (runXferRecv c s)

/-- A transfer request arrives: matched, held in the table of 256, or answered "busy". -/
def xferRequest (p : Pkt) (s : State) : State :=
  let s := s.unbox p
  match p.body with
  | .xferReq tag fmt bytes =>
    let x : HeldXfer := { src := p.src, tag := tag, fmt := fmt, bytes := bytes, ring := p.ring, seq := p.seq, job := p.job }
    match s.cmds.find? fun m => m.receives p.src tag && m.phase == .running && m.aux == [0] with
    | some m =>
      match s.tensorArg m 4 with
      | .ok t => s.meet m t x
      | .error st => s.complete m.id st
    | none =>
      if s.fab.held.length < 256 then { s with fab := { s.fab with held := s.fab.held ++ [x] } }
      else s.send (s.xferPkt ⟨p.job, ⟨p.ring, p.seq⟩⟩ .response 3 p.src 16 false (.xferReply tag .busy))
  | _ => s

def execXferRequestPacket (p : Pkt) (s : State) : Host.Outcome State Fault Refusal := fin (xferRequest p s)

/-- The data packets of a send, the last one fenced: the elements, then the scales, as one stream (assumption 43). -/
def State.sendData (s : State) (m : Cmd) (t : Tensor) : State :=
  let cs := t.run 0 t.count
  let r := s.touchElems t cs
  match r.2 with
  | some x => r.1.complete m.id (uncorrAt x.1 x.2)
  | none =>
    let s := r.1
    let parts := cutBytes (s.elemStream t 0 t.count ++ s.scaleStream t)
    let n := parts.length
    let tag := m.words.getD 7 0
    let pkt := fun (q : (Nat × List Byte) × Nat) =>
      s.xferPkt m.sender .write 3 (m.bits 6 31 16) q.1.2.length (q.2 + 1 == n) (.xferData tag q.1.1 q.1.2)
    let s := (s.sendAll (parts.zipIdx.map pkt)).setAux m.id [2, 0, n]
    if n = 0 then s.complete m.id okStatus else s

/-- A receiver's answer to a send. -/
def xferReply (p : Pkt) (s : State) : State :=
  let s := s.unbox p
  match p.body, s.findCmd ⟨p.ring, p.seq⟩ with
  | .xferReply _ v, some m =>
    if m.opcode ≠ 0x93 ∨ m.phase ≠ .running ∨ m.aux ≠ [0] then s else
    match s.tensorArg m 4 with
    | .error st => s.complete m.id st
    | .ok t =>
      match v with
      | .go => s.sendData m t
      | .busy => s.setAux m.id [1, s.tb.stime]
      | v => match verdictStatus t v with
        | some st => s.complete m.id st
        | none => s
  | _, _ => s

def execXferReplyPacket (p : Pkt) (s : State) : Host.Outcome State Fault Refusal := fin (xferReply p s)

/-- 10 µs after a "busy", the request is repeated. -/
def xferRetry (c : CmdId) (s : State) : State :=
  match s.findCmd c with
  | none => s
  | some m =>
    if m.opcode = 0x93 ∧ m.phase = .running ∧ m.aux.getD 0 0 = 1 ∧ m.aux.getD 1 0 + 10000 ≤ s.tb.stime then
      match s.tensorArg m 4 with
      | .ok t => (s.askTransfer m t).setAux c [0]
      | .error st => s.complete c st
    else s

def execXferBusyRetry (c : CmdId) (s : State) : Host.Outcome State Fault Refusal := fin (xferRetry c s)

/-- Reads nibbles from bytes. -/
def nibbles (bs : List Byte) : List Nat := bs.flatMap fun b => [b.toNat % 16, b.toNat / 16]

/-- Codes of elements in a byte string. -/
def codesOf (t : Tensor) (bs : List Byte) : List Nat :=
  if isMx t.fmt then nibbles bs else (groups (Fp.width t.fmt / 8) (bs.length + 1) bs).map ofLe

/-- The byte of a stream at an offset, from the packets of it that are here. -/
def streamByte (ps : List (Nat × List Byte)) (o : Nat) : Option Byte :=
  (ps.find? fun q => decide (q.1 ≤ o ∧ o < q.1 + q.2.length)).bind fun q => q.2[o - q.1]?

/-- The MXFP4 blocks that a packet carries a part of: element bytes, then scale bytes. -/
def blocksIn (t : Tensor) (off n : Nat) : List Nat :=
  (List.range (upDiv t.count 32)).filter fun b =>
    decide (16 * b < off + n ∧ off < min (16 * b + 16) t.byteCount) || decide (off ≤ t.byteCount + b ∧ t.byteCount + b < off + n)

/-- A block of a stream, once its element bytes and its scale byte are here (R586). -/
def streamBlock (t : Tensor) (ps : List (Nat × List Byte)) (b : Nat) : Option Block := do
  let bs ← ((List.range (min 16 (t.byteCount - 16 * b))).mapM fun i => streamByte ps (16 * b + i))
  let scale ← streamByte ps (t.byteCount + b)
  pure ⟨t.coord (32 * b), (nibbles bs).take (t.count - 32 * b), scale.toNat⟩

/-- The packets of a receive that are kept. -/
def State.kept (s : State) (m : Cmd) : List (Nat × List Byte) :=
  s.fab.pieces.filterMap fun p => if m.keepsPiece p then match p.body with
    | .xferData _ off bs => some (off, bs)
    | _ => none
  else none

/-- Writes what a packet of a receive brings: its elements, or the MXFP4 blocks that are complete with it (R586). -/
def State.storeData (s : State) (m : Cmd) (t : Tensor) (off : Nat) (bs : List Byte) : State × Option (Nat × Nat) :=
  if isMx t.fmt then s.writeBlocks t ((blocksIn t off bs.length).filterMap (streamBlock t (s.kept m)))
  else
    let first := elemsIn t off
    let codes := (codesOf t bs).take (t.count - first)
    s.writeElems t ((t.run first codes.length).zip codes)

/-- A unit of 64 KiB is written: its packets have come, those of its scale bytes among them. -/
def unitHere (got : List Nat) (t : Tensor) (u : Nat) : Bool :=
  let here := fun (o : Nat) => got.contains (o / 2048 * 2048)
  ((List.range 32).all fun i => decide (t.byteCount ≤ 65536 * u + 2048 * i) || here (65536 * u + 2048 * i)) &&
    (!isMx t.fmt || (List.range 4096).all fun i => decide (upDiv t.count 32 ≤ 4096 * u + i) || here (t.byteCount + 4096 * u + i))

/-- The leading units of n that are written. -/
def leadingXfer (got : List Nat) (t : Tensor) (n : Nat) : Nat := ((List.range n).takeWhile (unitHere got t)).length

/-- Data of a transfer arrives. -/
def xferWrite (p : Pkt) (s : State) : State :=
  let s := s.unbox p
  match p.body with
  | .xferData tag off bs =>
    match s.cmds.find? fun m => m.receives p.src tag && m.phase == .running && m.aux.getD 0 0 == 1 with
    | none => s
    | some m =>
      match s.tensorArg m 4 with
      | .error st => s.complete m.id st
      | .ok t =>
        if m.aux.drop 1 |>.contains off then s else
        let s := if isMx t.fmt then { s with fab := { s.fab with pieces := p :: s.fab.pieces } } else s
        let w := s.storeData m t off bs
        match w.2 with
        | some x => w.1.complete m.id (uncorrAt x.1 x.2)
        | none =>
          let aux := m.aux ++ [off]
          let s := (w.1.setAux m.id aux).progress m.id (leadingXfer (aux.drop 1) t m.total)
          if aux.length = upDiv (xferLen t) 2048 + 1 then s.complete m.id okStatus else s
  | _ => s

def execXferWritePacket (p : Pkt) (s : State) : Host.Outcome State Fault Refusal := fin (xferWrite p s)

/-! ### Acknowledgements (R447, R448) -/

/-- Drops the first n packets to a destination. -/
def dropSent (dst : Nat) : Nat → List Unacked → List Unacked
  | 0, l => l
  | _, [] => []
  | n + 1, u :: l => if u.dst = dst then dropSent dst n l else u :: dropSent dst (n + 1) l

/-- A send's marker counts acknowledged units; the last acknowledgement completes it. -/
def State.ackedSend (s : State) (m : Cmd) : State :=
  let mine := (s.fab.unacked.filter fun u => decide (u.cmd = m.id)).length +
    (s.fab.outq.filter fun p => p.type == .write && p.ring == m.id.ring && p.seq == m.id.seq && p.job == m.job).length
  let n := m.aux.getD 2 0
  if mine = 0 then s.complete m.id okStatus else s.progress m.id ((n - mine) / 32)

def ackPacket (p : Pkt) (s : State) : State :=
  let s := s.unbox p
  match p.body with
  | .ack n =>
    let s := { s with fab := { s.fab with unacked := dropSent p.src n s.fab.unacked } }
    (s.cmds.filter fun m => m.opcode == 0x93 && m.phase == .running && m.aux.getD 0 0 == 2 && m.bits 6 31 16 == p.src).foldl
      (fun s m => s.ackedSend m) s
  | _ => s

def execAckPacket (p : Pkt) (s : State) : Host.Outcome State Fault Refusal := fin (ackPacket p s)

/-! ### Congestion maps (R459, R460) -/

/-- The window of FAB.CMAP_CFG in µs; 0 is taken as 1 (R467). -/
def State.cmapLength (s : State) : Nat := max 1 (s.fld F.cmapWindow)

/-- The record of a port at the end of its window (R459). -/
def State.cmapRec (s : State) (p : Nat) : CmapRec :=
  let x := s.portX p
  { state := s.fld (F.portState p), sentKiB := x.sent / 1024, recvKiB := x.recv / 1024, wait := x.wait, peak := x.peak,
    vias := x.vias }

/-- A window of FAB.CMAP_CFG ends once its µs of STIME have passed: each port's record is latched, and the next window
begins. -/
def cmapWindow (sight : RouteSight) (s : State) : State :=
  if s.tb.stime < s.fab.cmapAt + 1000 * s.cmapLength then s else
  let s := s.countWaits.takeCredit sight
  let recs := (List.range 48).map s.cmapRec
  let s := { s with fab := { s.fab with cmap := recs, cmapAt := s.tb.stime, cmapLen := s.cmapLength } }
  let s := (List.range 48).foldl (fun s p => s.mapPort p fun x =>
    { x with sent := 0, recv := 0, vias := 0, wait := [0, 0, 0, 0], peak := s.poolNow p }) s
  { s with fab := { s.fab with waits := s.fab.waits.map fun w => (w.1, w.2.1, s.tb.stime) } }

def execCmapWindow (sight : RouteSight) (s : State) : Host.Outcome State Fault Refusal := fin (cmapWindow sight s)

def sat (bits n : Nat) : Nat := min n (2 ^ bits - 1)

/-- The record of a port (R459). -/
def cmapRecord (p : Nat) (r : CmapRec) : List Nat :=
  [p * 2 ^ 24 + r.state * 2 ^ 20, sat 32 r.sentKiB, sat 32 r.recvKiB] ++
    ((r.wait ++ [0, 0, 0, 0]).take 4).map (sat 32) ++ [sat 16 r.peak * 2 ^ 16 + sat 16 r.vias]

/-- The map of this package. -/
def State.cmapBytes (s : State) : List Byte :=
  let head := [0xA * 2 ^ 28 + s.pkg, s.fab.cmapLen] ++ words64 s.fab.cmapAt ++ List.replicate 12 0
  wordBytes ((head ++ s.fab.cmap.zipIdx.flatMap fun q => cmapRecord q.2 q.1).map fun n => BitVec.ofNat 32 n)

def State.cmapArg (s : State) (m : Cmd) : Except Status Tensor := do
  let t ← s.tensorArg m 5
  need (t.fmt == 7) (badFormat 5 t.fmt)
  need (t.ndim == 1 && decide (400 ≤ t.size 0)) (badDesc t.at_)
  pure t

/-- Writes a map and completes the command. -/
def State.storeMap (s : State) (c : CmdId) (t : Tensor) (bs : List Byte) : State :=
  let ws := (bytesWords 400 bs).map (·.toNat)
  let w := s.writeElems t ((t.run 0 400).zip ws)
  match w.2 with
  | some x => w.1.complete c (uncorrAt x.1 x.2)
  | none => w.1.complete c okStatus

def runCmapRead (c : CmdId) (s : State) : State :=
  s.run c 0x95 fun m s =>
    let dst := m.bits 4 15 0
    match s.cmapArg m with
    | .error st => s.refuse c st
    | .ok t =>
      if dst = s.pkg then s.storeMap c t s.cmapBytes
      else s.send { s.xferPkt m.sender .request 2 dst 0 false .cmapReq with sink := 6 }

def execCmapRead (c : CmdId) (s : State) : Host.Outcome State Fault Refusal := fin (runCmapRead c s)

/-- A map is asked for by another package. -/
def cmapRequest (p : Pkt) (s : State) : State :=
  let s := s.unbox p
  s.send { s.xferPkt ⟨p.job, ⟨p.ring, p.seq⟩⟩ .response 3 p.src 1600 false (.cmapResp s.cmapBytes) with sink := 6 }

def execCmapRequestPacket (p : Pkt) (s : State) : Host.Outcome State Fault Refusal := fin (cmapRequest p s)

def cmapResponse (p : Pkt) (s : State) : State :=
  let s := s.unbox p
  match p.body, s.findCmd ⟨p.ring, p.seq⟩ with
  | .cmapResp bs, some m =>
    if m.opcode ≠ 0x95 ∨ m.phase ≠ .running ∨ m.bits 4 15 0 ≠ p.src then s else
    match s.cmapArg m with
    | .error st => s.complete m.id st
    | .ok t => s.storeMap m.id t bs
  | _, _ => s

def execCmapResponsePacket (p : Pkt) (s : State) : Host.Outcome State Fault Refusal := fin (cmapResponse p s)

/-! ### Notices that end a command (R442, R461) -/

/-- Ends an accepted command with a status met in the fabric: with issued operations, once they have ended (R473). -/
def State.endByFabric (s : State) (m : Cmd) (st : Status) : State :=
  if m.ops.isEmpty then s.failCmd m.id st
  else (s.mapCmd m.id fun m => { m with failure := m.failure <|> some st }).settle m.id

/-- A notice about a packet that a command here sent: the command completes with a status made of the packet's destination and the
header word it names (R442, R461; assumption 78). An apply that can go no further without that packet ends with it; any other
runs on when its COMMIT has ended (R411, R412). A stream ends with its command, and one that no command started ends as well
(R526). -/
def State.lostPacket (s : State) (p : Pkt) (st : Nat → Nat → Status) : State :=
  match p.body, p.about with
  | .notice _ w1 _ _, some (dst, word) =>
    let c : CmdId := ⟨bits w1 11 0, bits w1 31 16⟩
    let st := st dst word
    let stuck := s.red.applies.find? fun a =>
      decide (a.cmd.id = c) && a.cmd.job == p.job && sCtype (a.cmd.shard (a.todo.headD 0)) == 2
    let streams : Bool := match s.ck.stream with
      | some k => k.cmd == some c || (k.cmd.isNone && decide (c = ⟨0xFFF, 0xFFFF⟩))
      | none => false
    match stuck with
    | some a => s.failApply a st
    | none =>
      if streams then s.endStream st else
      match s.findCmd c with
      | some m => if m.job = p.job then s.endByFabric m st else s
      | none => s
  | _, _ => s

/-- An unreachable notice (R442): the sending command completes with UNREACHABLE. -/
def unreachableNotice (p : Pkt) (s : State) : State :=
  let port := match p.body with
    | .notice _ _ w2 _ => bits w2 15 0
    | _ => 0
  (s.unbox p).lostPacket p fun dst _ => ⟨St.unreachable, dst, port⟩

def execUnreachableNotice (p : Pkt) (s : State) : Host.Outcome State Fault Refusal := fin (unreachableNotice p s)

/-- A delivery-error notice (R461): UNCORRECTABLE for a bad CRC; BAD_RESERVED for a header that breaks the protocol. -/
def deliveryError (p : Pkt) (s : State) : State :=
  let crc := match p.body with
    | .notice w0 .. => bits w0 27 24 == 1
    | _ => false
  (s.unbox p).lostPacket p fun dst word =>
    if crc then ⟨St.uncorrectable, 0x70000000, dst⟩ else ⟨St.badReserved, 0x100 + word, 0⟩

def execDeliveryErrorNotice (p : Pkt) (s : State) : Host.Outcome State Fault Refusal := fin (deliveryError p s)

end Sys2Proof.Machine
end

