-- ==== Sys2Proof/Machine/Ckpt.lean ====
section
/-! DEFINITION. Checkpoints (R514 to R530): buddies, the plan, the stream and its segments on both sides, manifests, and
RESTORE. -/

namespace Sys2Proof.Machine

/-- RESOURCE_BUSY while a stream or a restore runs (R143 resource 0x0080). -/
def State.ckBusy (s : State) : Option Status :=
  match s.ck.stream, s.ck.restore with
  | some k, _ => some (busy 0x80 (match k.cmd with
      | some c => c.ring
      | none => noHolder))
  | none, some r => some (busy 0x80 r.cmd.ring)
  | none, none => none

/-! ### Buddies (R519) -/

/-- BUDDY_SET asks the named package; one at a time. Whether a stream or a restore runs is asked last, when the answer has come
(R519). -/
def runBuddySet (c : CmdId) (s : State) : State :=
  match s.runnable c 0x70 with
  | none => s
  | some m =>
    let dst := m.bits 4 15 0
    if dst = s.pkg then (s.begin c).refuse c (oor 4)
    else if s.ck.asking.isSome then s
    else s.run c 0x70 fun m s =>
      ({ s with ck := { s.ck with asking := some c } }).send (s.xferPkt m.sender .request 2 dst 0 false .buddyQuery)

def execBuddySet (c : CmdId) (s : State) : Host.Outcome State Fault Refusal := fin (runBuddySet c s)

def buddyQuery (p : Pkt) (s : State) : State :=
  let s := s.unbox p
  s.send (s.xferPkt ⟨p.job, ⟨p.ring, p.seq⟩⟩ .response 3 p.src 16 false (.buddyAnswer (s.fld F.ward) (s.fld F.pdom)))

def execBuddyQueryRequest (p : Pkt) (s : State) : Host.Outcome State Fault Refusal := fin (buddyQuery p s)

/-- An accepted buddy. -/
def State.takeBuddy (s : State) (buddy : Nat) (override : Bool) : State :=
  let same := s.flag F.buddyValid && s.fld F.buddy == buddy
  let s := ((s.setFld F.buddyValid 1).setFld F.buddyOverride override.toNat).setFld F.buddy buddy
  let s := if same then s else s.setFld F.fullNext 1
  if override then s.event 0 0 0x0B01 0 else s

/-- The answer arrives: ward, then power domain, then a stream or restore that has begun meanwhile. -/
def buddyAnswer (p : Pkt) (s : State) : State :=
  let s := s.unbox p
  let c : CmdId := ⟨p.ring, p.seq⟩
  match p.body, s.findCmd c with
  | .buddyAnswer ward pdom, some m =>
    if s.ck.asking ≠ some c ∨ m.bits 4 15 0 ≠ p.src then s else
    let s := { s with ck := { s.ck with asking := none } }
    let own := s.fld F.pdom
    let over_ := m.bits 4 31 31 == 1
    if ward ≠ s.pkg then s.complete c (oor 4)
    else if over_ = false ∧ (own = pdom ∨ own = 0xFFFF ∨ pdom = 0xFFFF) then s.complete c (oor 4)
    else match s.ckBusy with
      | some st => s.complete c st
      | none => (s.takeBuddy p.src over_).complete c okStatus
  | _, _ => s

def execBuddyQueryResponse (p : Pkt) (s : State) : Host.Outcome State Fault Refusal := fin (buddyAnswer p s)

/-! ### The plan (R521) -/

/-- Reserved fields and ranges of a plan descriptor. -/
def planOk (w : List W) : Bool :=
  wbits w 0 31 28 == 0xC && wbits w 0 27 16 == 0 && wbits w 3 15 13 == 0 && decide (wbits w 3 31 16 ≤ 4096) &&
  decide (wbits w 3 12 0 ≤ 4096) && wide w 6 % 64 == 0

/-- Descriptors of 64 bytes in a block. -/
def descs (n : Nat) (ws : List W) : List (List W) := (List.range n).map fun i => (ws.drop (16 * i)).take 16

/-- The words of a table of n descriptors that a plan points to. -/
def Cmd.planTable (m : Cmd) (p : DPtr) (n : Nat) : Except Status (List (List W)) := do
  if n = 0 then pure [] else
  let ws ← m.block 4 p (64 * n)
  pure (descs n ws)

/-- The arrays of a plan's shard lie in the Cellar; its table is open. -/
def State.planShardFits (s : State) (m : Cmd) (d : List W) : Bool := s.shardFits m d

def State.planArg (s : State) (m : Cmd) : Except Status CkPlan := do
  let p := m.ptr 4
  let w ← m.block 4 p 64
  need (planOk w) (badDesc p.addr)
  let shards ← m.planTable (dptr (w.getD 1 0) (w.getD 2 0)) (wbits w 3 12 0)
  let efs ← m.planTable (dptr (w.getD 4 0) (w.getD 5 0)) (wbits w 3 31 16)
  match badShard shards [] 0 with
  | some i => .error (badDesc ((dptr (w.getD 1 0) (w.getD 2 0)).addr + 64 * i))
  | none => pure ()
  let at_ := (dptr (w.getD 4 0) (w.getD 5 0)).addr
  efs.zipIdx.forM fun q => s.checkTensor 4 q.1 (tensorOf q.1 (at_ + 64 * q.2)) false
  need (efs.all fun e => (tensorOf e 0).tier == 3) (oor 4)
  let plan : CkPlan := { words := w, shards := shards, efs := efs }
  need (plan.handles.all fun n => (s.openFor m n).isSome) (oor 4)
  need (decide (plan.cursor + 64 ≤ cellarEnd) && shards.all (s.planShardFits m)) (oor 4)
  pure plan

def runCkptPlan (c : CmdId) (s : State) : State :=
  s.run c 0x71 fun m s =>
    match s.planArg m with
    | .error st => s.refuse c st
    | .ok p =>
      match s.ckBusy with
      | some st => s.refuse c st
      | none => ({ s with ck := { s.ck with plan := some p } }).complete c okStatus

def execCkptPlan (c : CmdId) (s : State) : Host.Outcome State Fault Refusal := fin (runCkptPlan c s)

/-! ### The stream: the ward's side (R522 to R526) -/

def runCkptStart (c : CmdId) (s : State) : State :=
  s.run c 0x72 fun m s =>
    match s.streamReady with
    | none => s.refuse c (oor 4)
    | some (p, i) =>
      let step := s.bndHead i 1
      if m.word 5 ≠ step ∧ m.word 5 ≠ 0xFFFFFFFF then s.refuse c s.late else
      match s.ckBusy with
      | some st => s.refuse c st
      | none => s.startStream p i (m.bits 4 0 0 == 1) (some c)

def execCkptStart (c : CmdId) (s : State) : Host.Outcome State Fault Refusal := fin (runCkptStart c s)

/-- Whose packets a stream's are. -/
def State.streamSender (s : State) (k : CkStream) : Sender :=
  match k.cmd with
  | some c => ⟨((s.findCmd c).map (·.job)).getD 0, c⟩
  | none => ⟨0, ⟨0xFFF, 0xFFFF⟩⟩

/-- The descriptor of a named handle's table in the version in force at the stream's start (R524). -/
def State.streamTable (s : State) (k : CkStream) (handle : Nat) : Option (List W) :=
  match s.handle handle with
  | none => none
  | some h => match s.versionAt (s.mainOf h) k.stime with
    | some d => some d
    | none => some (s.mainOf h).desc

/-- Address of a byte of a dense shard's item: master, both moments, working copy (R523). -/
def shardByte (d : List W) (off : Nat) : Nat :=
  let n := sParams d
  if off < 4 * n then sMaster d + off else if off < 12 * n then sMom d + (off - 4 * n) else sWork d + (off - 12 * n)

/-- Coordinates of the elements under a piece of an error-feedback tensor. -/
def efCells (t : Tensor) (g : CkSeg) : List (List Nat) :=
  let b := max 1 (t.halves / 2)
  t.run (g.off / b) (g.len / b)

/-- A row of a range as the stream sends it: its entry with dual, dirty and addr16 0 and loc 0 or 5, then its record
(R523); its dirty bit is cleared in the same hold of the lock. -/
def State.streamRow (s : State) (k : CkStream) (d : List W) (g : CkSeg) (row : Nat) : State × Except Status (List Byte) :=
  let r := s.readRow d row 4
  match r.2 with
  | .error st => (r.1, .error st)
  | .ok (e, bs) =>
    let far := k.got.find? fun f => f.entry == g.item && f.row == row
    let fmt := match far with
      | some f => if e.loc = 4 then f.fmt else e.fmt
      | none => e.fmt
    let body := if e.loc = 5 then [] else if e.loc = 4 then (match far with
      | some f => f.bytes
      | none => []) else bs
    let out : Dir := { e with loc := if e.loc = 5 then 5 else 0, fmt := fmt, dual := false, dirty := false, addr16 := 0 }
    let s := if e.dirty then r.1.setDir d row { e with dirty := false } else r.1
    (s, .ok (leBytes 8 out.bits ++ body))

/-- The payload of a segment, as the stream reads it. -/
def State.segmentBytes (s : State) (k : CkStream) (p : CkPlan) (g : CkSeg) : State × Except Status (List Byte) :=
  let cellar := fun (a n : Nat) =>
    let r := s.touch 3 a n
    match r.2 with
    | some x => (r.1, Except.error (uncorrAt 3 x))
    | none => (r.1, Except.ok (r.1.peek 3 a n))
  match g.type with
  | 1 => cellar (s.bndSlot ((s.bndIn 2).getD 0)) g.len
  | 2 => cellar (shardByte (p.shards.getD g.item []) g.off) g.len
  | 3 =>
    let t := tensorOf (p.efs.getD g.item []) 0
    let cs := efCells t g
    let r := s.touchElems t cs
    match r.2 with
    | some (k, a) => (r.1, .error (uncorrAt k a))
    | none => (r.1, .ok (cs.flatMap fun c => leBytes (max 1 (t.halves / 2)) (r.1.elemBits t c)))
  | 4 =>
    match s.streamTable k g.item with
    | none => (s, .ok [])
    | some d => (List.range g.len).foldl (fun (acc : State × Except Status (List Byte)) i =>
        match acc.2 with
        | .error _ => acc
        | .ok bs =>
          let r := acc.1.streamRow k d g (tFirst d + g.off + i)
          (r.1, r.2.map fun b => bs ++ b)) (s, .ok [])
  | _ =>
    (s, .ok (wordBytes (p.words ++ p.handles.flatMap fun n => (s.streamTable k n).getD (List.replicate 16 0))))

/-- Rows of a segment that have moved to another package and whose records have not been asked for: row and package. -/
def State.farRows (s : State) (k : CkStream) (g : CkSeg) : List (Nat × Nat) :=
  if g.type ≠ 4 then [] else
  match s.streamTable k g.item with
  | none => []
  | some d => (List.range g.len).filterMap fun i =>
    let row := tFirst d + g.off + i
    let e := s.dir d row
    if e.loc == 4 && !(k.got.any fun f => f.entry == g.item && f.row == row) then some (row, e.addr16 % 2 ^ 16) else none

/-- Marks in `got` of a record that is asked for. -/
def farAsked (handle row : Nat) : Fetched := { entry := handle, row := row, fmt := 0xFF, bytes := [] }

/-- Asks for the record of a row held elsewhere; entry 0xFFFFFFFE names the stream. -/
def State.askStreamRow (s : State) (k : CkStream) (g : CkSeg) (q : Nat × Nat) : State :=
  s.send { s.xferPkt (s.streamSender k) .request 2 q.2 0 false (.rowReq g.item q.1 k.stime 0 0xFFFFFFFE) with sink := 2 }

/-- The stream would begin to read a table, of which no range has gone yet, while a switch of it is locked (R241). -/
def State.switchGates (s : State) (k : CkStream) (g : CkSeg) : Bool :=
  g.type == 4 && !(k.sent.any fun e => e.type == 4 && e.item == g.item) && (match s.handle g.item with
    | some h => s.erm.handles.any fun q => q.role == .staging (s.mainOf h).n && q.locked.isSome
    | none => false)

/-- A packet of the stream to the buddy. -/
def State.streamPkt (s : State) (k : CkStream) (len : Nat) (body : Body) : Pkt :=
  s.xferPkt (s.streamSender k) .write 3 (s.fld F.buddy) (min 2048 len) false body

/-- Entries in segment order: those sent, and those that unsent ranges keep from the previous generation (R523). -/
def State.manifestEntries (s : State) (k : CkStream) (p : CkPlan) : List CkEntry :=
  let sent := k.sent.reverse
  let rows := sent.filter fun e => e.type == 4
  let kept := s.ck.last.filter fun e => e.type == 4 && p.handles.contains e.item &&
    !(rows.any fun x => x.item == e.item && x.off == e.off) && (match s.streamTable k e.item with
      | some d => decide (e.off < tLocal d)
      | none => false)
  let le := fun (a b : CkEntry) => decide (a.item < b.item) || (a.item == b.item && decide (a.off ≤ b.off))
  (sent.filter fun e => e.type != 4) ++ sortBy le (rows ++ kept)

/-- The stream sends its next segment, then the manifest; it waits for records held elsewhere. -/
def segmentSend (s : State) : State :=
  match s.ck.stream, s.ck.plan with
  | some k, some p =>
    if k.closed then s else
    match k.todo with
    | [] =>
      let es := s.manifestEntries k p
      let k' := { k with closed := true, sent := es.reverse }
      ({ s with ck := { s.ck with stream := some k' } }).sendAll (packetsOf
        (s.streamPkt k (96 + 64 * es.length) (.manifest k.job s.ck.gens k.step k.nextMb (BitVec.ofNat 64 k.stime) es)))
    | g :: rest =>
      if s.switchGates k g then s.resumeRows else
      let far := s.farRows k g
      if !far.isEmpty then
        let k' := { k with got := k.got ++ far.map fun q => farAsked g.item q.1 }
        far.foldl (fun s q => s.askStreamRow k g q) { s with ck := { s.ck with stream := some k' } }
      else if k.got.any fun f => f.entry == g.item && f.fmt == 0xFF then s
      else
        let r := s.segmentBytes k p g
        match r.2 with
        | .error st => r.1.endStream st
        | .ok bs =>
          let e : CkEntry := { type := g.type, item := g.item, off := g.off, len := bs.length, sha := sha256 bs }
          let k' := { k with todo := rest, sent := e :: k.sent }
          let s := { r.1 with ck := { r.1.ck with stream := some k' } }
          let s := s.sendAll (packetsOf (s.streamPkt k bs.length (.ckptSeg k'.sent.length g.type g.item g.off bs)))
          let s := match k.cmd with
            | some c => s.progress c k'.sent.length
            | none => s
          s.resumeRows
  | _, _ => s.resumeRows

def execCkptSegmentSend (s : State) : Host.Outcome State Fault Refusal := fin (segmentSend s)

/-! ### Manifests (R527) -/

def entryWords (e : CkEntry) (address : Bool) : List Byte :=
  let a := if address then e.addr else 0
  wordBytes (([e.type * 2 ^ 28 + e.item, e.len, e.off, 0] ++ words64 a ++ [0, 0]).map fun n => BitVec.ofNat 32 n) ++ e.sha

def headWords (g : CkGen) : List Byte :=
  wordBytes (([0xE * 2 ^ 28 + g.job, g.gen, g.step, g.ward, g.entries.length, g.nextMb] ++ words64 g.stime ++
    List.replicate 8 0).map fun n => BitVec.ofNat 32 n)

/-- Header, entries and the digest over them with the address words 0. -/
def manifestBytes (g : CkGen) : List Byte :=
  headWords g ++ g.entries.flatMap (entryWords · true) ++ sha256 (headWords g ++ g.entries.flatMap (entryWords · false))

def entryOf (ws : List W) (bs : List Byte) : CkEntry :=
  { type := wbits ws 0 31 28, item := wbits ws 0 15 0, off := wordAt ws 2, len := wordAt ws 1, addr := wide ws 4,
    sha := (bs.drop 32).take 32 }

/-- A manifest read back, where its digest is right. -/
def manifestOf (bs : List Byte) : Option CkGen :=
  let h := bytesWords 16 (bs.take 64)
  let n := wordAt h 4
  let es := (List.range n).map fun i =>
    let b := (bs.drop (64 + 64 * i)).take 64
    entryOf (bytesWords 16 b) b
  let g : CkGen := { job := wbits h 0 15 0, gen := wordAt h 1, step := wordAt h 2, ward := wbits h 3 15 0,
                     nextMb := wordAt h 5, stime := wide h 6, entries := es }
  let plain := bs.take 64 ++ es.flatMap (entryWords · false)
  if (bs.drop (64 + 64 * n)).take 32 = sha256 plain then some g else none

/-! ### The stream: the buddy's side (R526) -/

/-- The image region: base and end. -/
def State.imageRegion (s : State) : Nat × Nat :=
  let b := s.reg64 Reg.ckptImgLo Reg.ckptImgHi
  (b, min deepEnd (b + bits (s.reg Reg.ckptImgSize) 15 0 * 2 ^ 30))

/-- Bytes of a manifest: header, entries, digest (R527). -/
def manifestLen (g : CkGen) : Nat := 96 + 64 * g.entries.length

/-- Bytes of each of the three manifest slots, which begin the region (R526; DESIGN CHOICE, assumption 89). -/
def manifestRoom : Nat := 0x4000000

/-- The manifest slot of a generation (R526). -/
def State.manifestSlot (s : State) (gen : Nat) : Nat := s.imageRegion.1 + manifestRoom * (gen % 3)

/-- A manifest fits its slot, and the slot the region. -/
def State.manifestFits (s : State) (g : CkGen) : Bool :=
  decide (manifestLen g ≤ manifestRoom) && decide (s.manifestSlot g.gen + manifestRoom ≤ s.imageRegion.2)

/-- Ranges of the region that payloads take. -/
def State.imageUsed (s : State) : List (Nat × Nat) :=
  ((s.ck.held.flatMap (·.entries)) ++ s.ck.coming).map fun e => (e.addr, e.len)

/-- Free space for a payload of n bytes at a line, behind the manifest slots: the lowest. -/
def State.imageFree (s : State) (n : Nat) : Option Nat :=
  let low := s.imageRegion.1 + 3 * manifestRoom
  let used := s.imageUsed
  let starts := sortNat (low :: used.map fun u => upDiv (u.1 + u.2) 64 * 64)
  starts.find? fun a => decide (low ≤ a) && decide (a + n ≤ s.imageRegion.2) &&
    used.all fun u => decide (a + n ≤ u.1) || decide (u.1 + u.2 ≤ a)

/-- Generations held of a ward, newest first. -/
def State.heldOf (s : State) (ward : Nat) : List CkGen := s.ck.held.filter fun g => g.ward == ward

/-- The same payload in a committed generation. -/
def State.sameSegment (s : State) (ward type item off len : Nat) (sha : List Byte) : Option CkEntry :=
  ((s.heldOf ward).flatMap (·.entries)).find? fun e =>
    e.type == type && e.item == item && e.off == off && e.len == len && e.sha == sha

/-- The buddy's answer to a ward: a refused segment, or a committed generation. -/
def State.answerWard (s : State) (p : Pkt) : State :=
  s.send (s.xferPkt ⟨p.job, ⟨p.ring, p.seq⟩⟩ .response 3 p.src 16 false p.body)

def State.stopHolding (s : State) : State := ({ s with ck := { s.ck with coming := [] } }).setFld F.holding 0

/-- A segment arrives at the buddy, which writes it into free space and frees the copy at once where it holds the same payload; a
refusal arrives at the ward, whose stream ends. -/
def segmentReceive (p : Pkt) (s : State) : State :=
  let s := s.unbox p
  match p.type, p.body with
  | .write, .ckptSeg seg type item off bs =>
    if p.src ≠ s.fld F.ward then s else
    let s := if seg = 1 then { s with ck := { s.ck with coming := [] } } else s
    let s := s.setFld F.holding 1
    let sha := sha256 bs
    let add := fun (s : State) (a : Nat) =>
      { s with ck := { s.ck with coming := s.ck.coming ++
          [{ type := type, item := item, off := off, len := bs.length, addr := a, sha := sha }] } }
    match s.imageFree bs.length with
    | none => s.stopHolding.answerWard { p with body := .ckptSeg seg type item off [] }
    | some a => add (s.put 4 a bs) (((s.sameSegment p.src type item off bs.length sha).map (·.addr)).getD a)
  | .response, .ckptSeg .. =>
    if p.src = s.fld F.buddy then s.endStream (busy 0x80 noHolder) else s
  | _, _ => s

def execCkptSegmentReceive (p : Pkt) (s : State) : Host.Outcome State Fault Refusal := fin (segmentReceive p s)

/-- A manifest's entry with the place of its payload. -/
def State.placeEntry (s : State) (ward : Nat) (e : CkEntry) : Option CkEntry :=
  let l := s.ck.coming ++ (s.heldOf ward).flatMap (·.entries)
  (l.find? fun x => x.type == e.type && x.item == e.item && x.off == e.off && x.len == e.len && x.sha == e.sha).map
    fun x => { e with addr := x.addr }

/-- The ward's part of a committed generation. -/
def State.generationDone (s : State) (k : CkStream) : State :=
  let s := { s with ck := { s.ck with stream := none, gens := s.ck.gens + 1, last := k.sent.reverse }
                    safe := { s.safe with ckptAt := s.tb.stime } }
  let s := (s.setFld F.ckptActive 0).setFld F.fullNext 0
  let s := ((s.setReg Reg.ckptLastStep (BitVec.ofNat 32 k.step)).bump (cnt Reg.ckptDone)).event 0 0 0x0B02 0
  match k.cmd with
  | some c => s.complete c okStatus
  | none => s

/-- The manifest at the buddy: it is written to its slot, the generation is committed, and the latest two are kept; its answer at
the ward. -/
def generationCommit (p : Pkt) (s : State) : State :=
  let s := s.unbox p
  match p.type, p.body with
  | .write, .manifest job gen step nextMb stime es =>
    if p.src ≠ s.fld F.ward then s else
    let placed := es.filterMap (s.placeEntry p.src)
    if placed.length ≠ es.length then s.stopHolding.answerWard { p with body := .ckptSeg 0 0 0 0 [] }
    else
      let g : CkGen := { job := job, gen := gen, step := step, ward := p.src, nextMb := nextMb, stime := stime.toNat,
                         entries := placed, at_ := s.manifestSlot gen }
      if !s.manifestFits g then s.stopHolding.answerWard { p with body := .ckptSeg 0 0 0 0 [] } else
      let held := g :: (s.heldOf p.src).take 1 ++ s.ck.held.filter fun h => h.ward != p.src
      let s := s.put 4 g.at_ (manifestBytes g)
      ({ s with ck := { s.ck with held := held } }).stopHolding.answerWard p
  | .response, .manifest _ gen .. =>
    match s.ck.stream with
    | some k => if k.closed ∧ gen = s.ck.gens ∧ p.src = s.fld F.buddy then s.generationDone k else s
    | none => s
  | _, _ => s

def execCkptGenerationCommit (p : Pkt) (s : State) : Host.Outcome State Fault Refusal := fin (generationCommit p s)

/-! ### RESTORE (R528 to R530) -/

def State.setRestore (s : State) (r : Option CkRestore) : State := { s with ck := { s.ck with restore := r } }

/-- Asks the holder for a segment; 0 is the manifest. -/
def State.askSegment (s : State) (r : CkRestore) (step : W) (seg : Nat) : State :=
  let job := ((s.findCmd r.cmd).map (·.job)).getD 0
  s.send (s.xferPkt ⟨job, r.cmd⟩ .request 2 r.holder 0 false (.restoreReq r.ward step seg))

/-- restore_ok is cleared at acceptance, whatever follows (R530). -/
def runRestore (c : CmdId) (s : State) : State :=
  s.run c 0x73 fun m s =>
    let s := s.setFld F.restoreOk 0
    match s.ckBusy with
    | some st => s.refuse c st
    | none =>
      let r : CkRestore := { cmd := c, ward := m.bits 4 31 16, holder := m.bits 4 15 0 }
      (s.setRestore (some r)).askSegment r (m.words.getD 5 0) 0

def execRestore (c : CmdId) (s : State) : Host.Outcome State Fault Refusal := fin (runRestore c s)

/-- The generation a request names: its step, or the newest. -/
def State.genAt (s : State) (ward : Nat) (step : W) : Option CkGen :=
  if ward ≠ s.fld F.ward then none else
  (s.heldOf ward).find? fun g => step == 0xFFFFFFFF || g.step == step.toNat

/-- The holder serves a manifest or a payload; one it cannot read is answered empty. -/
def restoreRequest (p : Pkt) (s : State) : State :=
  let s := s.unbox p
  let reply := fun (s : State) (seg : Nat) (found : Bool) (bs : List Byte) =>
    s.sendAll (packetsOf
      (s.xferPkt ⟨p.job, ⟨p.ring, p.seq⟩⟩ .response 3 p.src (min 2048 bs.length) false (.restoreResp seg found bs)))
  match p.body with
  | .restoreReq ward step seg =>
    match s.genAt ward step with
    | none => reply s seg false []
    | some g =>
      let read := fun (a n : Nat) =>
        let r := s.touch 4 a n
        reply r.1 seg true (if r.2.isSome then [] else r.1.peek 4 a n)
      if seg = 0 then read g.at_ (manifestLen g) else
      match g.entries[seg - 1]? with
      | none => reply s seg false []
      | some e => read e.addr e.len
  | _ => s

def execRestoreSegmentRequest (p : Pkt) (s : State) : Host.Outcome State Fault Refusal := fin (restoreRequest p s)

/-- The plan of the type 5 segment, with its tables read where its pointers say. -/
def State.savedPlan (s : State) (w : List W) : State × Option CkPlan :=
  let get := fun (s : State) (p : DPtr) (n : Nat) =>
    if n = 0 ∨ p.bad (64 * n) = true then (s, some []) else
    let r := s.touch p.code p.addr (64 * n)
    (r.1, if r.2.isSome then none else some (descs n (r.1.peekWords p.code p.addr (16 * n))))
  let a := get s (dptr (w.getD 1 0) (w.getD 2 0)) (wbits w 3 12 0)
  let b := get a.1 (dptr (w.getD 4 0) (w.getD 5 0)) (wbits w 3 31 16)
  (b.1, match a.2, b.2 with
    | some x, some y => some { words := w, shards := x, efs := y }
    | _, _ => none)

/-- Saved and open table agree (R528 order 4). -/
def savedAs (a b : List W) : Bool :=
  tEmbed a == tEmbed b && tWidth a == tWidth b && tRows a == tRows b && tFirst a == tFirst b && tLocal a == tLocal b &&
    tVersion a == tVersion b

def State.tablesMatch (s : State) (m : Cmd) (p : CkPlan) (ds : List (List W)) : Bool :=
  p.handles.zipIdx.all fun q => match s.mainFor m q.1 with
    | some h => savedAs h.desc (ds.getD q.2 [])
    | none => false

/-- Writes a row's directory entry; the uncorrectable line that it meets (R585). -/
def State.writeEntry (s : State) (d : List W) (row : Nat) (e : Dir) : State × Option Status :=
  let w := s.ermWrite 3 (dirAddr d row) (leBytes 8 e.bits)
  (w.1, w.2.map (uncorrAt 3))

/-- Rows become zero rows, so that their records are free (R183, R186). -/
def State.zeroRows (s : State) (d : List W) : List Nat → State × Option Status
  | [] => (s, none)
  | row :: rest =>
    let r := s.writeEntry d row { s.dir d row with loc := 5, dual := false, dirty := false, addr16 := 0 }
    match r.2 with
    | some st => (r.1, some st)
    | none => r.1.zeroRows d rest

/-- Writes one row of a range, with a record of the saved fmt's class (R203, R528). A segment is written only once its rows
find records (`restoreWaits`). -/
def State.restoreRow (s : State) (d : List W) (row : Nat) (e : Dir) (bs : List Byte) : State × Option Status :=
  let zero : Dir := { e with loc := 5, dual := false, dirty := false, addr16 := 0 }
  if e.loc = 5 then s.writeEntry d row zero else
  let tier := classTier (e.fmt + 1)
  let a := s.alloc tier (recBytes d e.fmt)
  match a.2 with
  | none => a.1.writeEntry d row zero
  | some x =>
    let w := a.1.ermWrite tier x bs
    match w.2 with
    | some y => (w.1, some (uncorrAt tier y))
    | none => w.1.writeEntry d row { zero with loc := tierLoc tier, addr16 := x / 16 }

/-- The rows of a payload, one after another. -/
def State.restoreRows (s : State) (d : List W) : Nat → Nat → List Byte → State × Option Status
  | 0, _, _ => (s, none)
  | n + 1, row, bs =>
    let e := dirOf (ofLe (bs.take 8))
    let len := if e.loc = 5 then 0 else recBytes d e.fmt
    let r := s.restoreRow d row e ((bs.drop 8).take len)
    match r.2 with
    | some st => (r.1, some st)
    | none => r.1.restoreRows d n (row + 1) (bs.drop (8 + len))

/-- The row records that a payload asks for: tier and size, in order. -/
def rowsAsk (d : List W) : Nat → List Byte → List (Nat × Nat)
  | 0, _ => []
  | n + 1, bs =>
    let e := dirOf (ofLe (bs.take 8))
    if e.loc = 5 then rowsAsk d n (bs.drop 8)
    else (classTier (e.fmt + 1), recBytes d e.fmt) :: rowsAsk d n (bs.drop (8 + recBytes d e.fmt))

/-- Records of a tier and size that are free, or will be once the rows written anew name theirs no longer (R186). -/
def State.recsFor (s : State) (d : List W) (first n : Nat) (k : Nat × Nat) : Nat :=
  let own := (List.range n).filterMap fun i => s.entryRec (s.dir d (first + i))
  let pools := (List.range 16).filter fun j => s.poolFits j k.1 k.2
  (pools.map fun j => (s.freeRecs j).length + (own.filter fun r => decide (r.1 = k.1) && decide (s.poolBase j ≤ r.2) &&
    decide (r.2 < s.poolBase j + s.poolCount j * s.poolSize j)).length).foldl (· + ·) 0

/-- A segment of rows waits, as R143 leaves a restore to do, until the pools have the records it asks for (assumption 85). -/
def State.restoreWaits (s : State) (e : CkEntry) (bs : List Byte) : Bool :=
  if e.type ≠ 4 then false else
  match s.handle e.item with
  | none => false
  | some h =>
    let d := (s.mainOf h).desc
    let n := min rangeRows (tLocal d - e.off)
    let ask := rowsAsk d n bs
    ask.dedup.any fun k => decide (s.recsFor d (tFirst d + e.off) n k < (ask.filter (· == k)).length)

/-- Writes a verified segment. -/
def State.restoreSegment (s : State) (p : CkPlan) (e : CkEntry) (bs : List Byte) : State × Option Status :=
  match e.type with
  | 2 =>
    let w := s.write 3 (shardByte (p.shards.getD e.item []) e.off) bs
    (w.1, w.2.map (uncorrAt 3))
  | 3 =>
    let t := tensorOf (p.efs.getD e.item []) 0
    let b := max 1 (t.halves / 2)
    let cs := t.run (e.off / b) (bs.length / b)
    let w := s.writeElems t (cs.zipIdx.map fun q => (q.1, ofLe ((bs.drop (b * q.2)).take b)))
    (w.1, w.2.map fun x => uncorrAt x.1 x.2)
  | 4 =>
    match s.handle e.item with
    | none => (s, some (oor 4))
    | some h =>
      let d := (s.mainOf h).desc
      let n := min rangeRows (tLocal d - e.off)
      let z := s.zeroRows d ((List.range n).map (tFirst d + e.off + ·))
      match z.2 with
      | some st => (z.1, some st)
      | none => z.1.restoreRows d n (tFirst d + e.off) bs
  | _ => (s, none)

/-- The first lane, in ascending tile and lane, whose last use is at or above next_mb (R529): lane and tile. -/
def State.badLane (s : State) (uses : List W) (nextMb : Nat) : Option (Nat × Nat) :=
  (uses.zipIdx.find? fun q => q.1 != 0xFFFFFFFF && decide (nextMb ≤ q.1.toNat)).map fun q =>
    (q.2 % 64, s.nthTile (q.2 / 64))

/-- Seed, counters and last uses are loaded, and the boundary becomes the committed slot. -/
def State.loadBoundary (s : State) (r : CkRestore) (g : CkGen) (uses : List W) : State :=
  let image := bytesWords s.imageWords (r.boundary.drop 64)
  let s := (s.setSeed (pair64 image 2)).loadCounters image
  let s := { s with lastMb := uses.zipIdx.foldl (fun t q =>
    Tab.put noMb t (genKey (s.nthTile (q.2 / 64)) (q.2 % 64)) q.1) [] }
  if s.bndBase = 0 then s else
  let i := match s.bndIn 2 with
    | some j => otherSlot j
    | none => 0
  let head := ofLe (r.boundary.take 4)
  (s.put 3 (s.bndSlot i) r.boundary).commitSlot i (head / 2 ^ 25 % 2) g.job g.step

/-- Every segment is written: the lanes are checked, and the restore is complete. -/
def State.finishRestore (s : State) (r : CkRestore) (g : CkGen) : State :=
  let s := s.setRestore none
  let n := 64 * s.tileCount
  let uses := bytesWords n (r.boundary.drop (64 + s.imageBytes))
  match s.badLane uses g.nextMb with
  | some (lane, tile) => s.complete r.cmd ⟨St.cursor, lane, tile⟩
  | none => (((s.loadBoundary r g uses).setFld F.fullNext 1).setFld F.restoreOk 1).complete r.cmd okStatus

/-- Asks for the next segment, or ends. -/
def State.restoreNext (s : State) (r : CkRestore) (g : CkGen) : State :=
  match r.todo with
  | [] => s.finishRestore r g
  | n :: _ => (s.setRestore (some r)).askSegment r (BitVec.ofNat 32 g.step) n

/-- The manifest has come: the type 5 segment is asked for first, since order 4 comes before order 5 (R528). -/
def State.takeManifest (s : State) (r : CkRestore) (g : CkGen) : State :=
  let all := (List.range g.entries.length).map (· + 1)
  let isPlan := fun (n : Nat) => match g.entries[n - 1]? with
    | some e => e.type == 5
    | none => false
  let r := { r with man := some g, todo := all.filter isPlan ++ all.filter fun n => !isPlan n }
  let s := s.mapCmd r.cmd fun m => { m with total := max 1 g.entries.length }
  s.restoreNext r g

/-- A segment has come. -/
def State.takeSegment (s : State) (m : Cmd) (r : CkRestore) (g : CkGen) (seg : Nat) (e : CkEntry) (bs : List Byte) : State :=
  let stop := fun (s : State) (st : Status) => (s.setRestore none).complete m.id st
  if bs.length ≠ e.len ∨ sha256 bs ≠ e.sha then stop s ⟨St.digest, seg, 0⟩ else
  let rest := { r with todo := r.todo.filter (· != seg) }
  let s := s.progress m.id (g.entries.length - rest.todo.length)
  if e.type = 5 then
    let w := bytesWords 16 (bs.take 64)
    let q := s.savedPlan w
    match q.2 with
    | none => stop q.1 (uncorrAt (dptr (w.getD 1 0) (w.getD 2 0)).code (dptr (w.getD 1 0) (w.getD 2 0)).addr)
    | some p =>
      if q.1.tablesMatch m p (descs p.handles.length (bytesWords (16 * p.handles.length) (bs.drop 64))) then
        q.1.restoreNext { rest with plan := some p } g
      else stop q.1 (oor 4)
  else if e.type = 1 then s.restoreNext { rest with boundary := bs } g
  else
    match r.plan with
    | none => s.restoreNext rest g
    | some p =>
      let w := s.restoreSegment p e bs
      match w.2 with
      | some st => stop w.1 st
      | none => w.1.restoreNext rest g

/-- The answer to a restore read; one whose rows find no records stays at its receiver. -/
def restoreResponse (p : Pkt) (s₀ : State) : State :=
  let s := s₀.unbox p
  let c : CmdId := ⟨p.ring, p.seq⟩
  match p.body, s.ck.restore, s.findCmd c with
  | .restoreResp seg found bs, some r, some m =>
    if r.cmd ≠ c ∨ r.holder ≠ p.src then s
    else if found = false then (s.setRestore none).complete c (oor 5)
    else if seg = 0 then
      match manifestOf bs with
      | none => (s.setRestore none).complete c ⟨St.digest, 0, 0⟩
      | some g => s.takeManifest r g
    else
      match r.man with
      | none => s
      | some g =>
        match g.entries[seg - 1]? with
        | none => s
        | some e =>
          if r.todo.head? ≠ some seg then s
          else if s.restoreWaits e bs && decide (sha256 bs = e.sha) then s₀
          else s.takeSegment m r g seg e bs
  | _, _, _ => s

def execRestoreSegmentResponse (p : Pkt) (s : State) : Host.Outcome State Fault Refusal := fin (restoreResponse p s)

end Sys2Proof.Machine
end

