-- ==== Sys2Proof/Machine/Results.lean ====
section
/-! DEFINITION. What each operation of the arrays, the Sparse Engines and the Drains computes: its units with their checks, and
the write of its outputs (R251 to R280, R296, R316 to R336). -/

namespace Sys2Proof.Machine

open Fp

/-- One unit's part of an operation: its result tiles, and the check of each. -/
structure UnitRun where
  /-- 0 East, 1 West, 3 Sparse Engine. -/
  unit  : Nat
  outs  : List Grid
  check : List (Grid → Verdict)
  /-- The row check comes from the stored row sums (R328). -/
  rs    : Bool := false

/-- What an operation computes: its units, the extent of its Drain pass if it has one, its arithmetic flags, and the write of its
outputs from the units' results and the Drain's perturbed element. -/
structure Calc where
  units : List UnitRun := []
  drain : Option (Nat × Nat) := none
  flags : Flags := {}
  write : List (List Grid) → Option (Nat × Nat) → State → Written

def headGrid (l : List Grid) : Grid := l.headD []

/-- Result tile i of unit u. -/
def outOf (outs : List (List Grid)) (u i : Nat) : Grid := (outs.getD u []).getD i []

def noWrite (_ : List (List Grid)) (_ : Option (Nat × Nat)) (s : State) : Written := (s, none, {})

/-- The columns of B that a product of column block nb reads, each over all of K. -/
def State.wColumns (s : State) (L : MatLayer) (nb : Nat) : Grid :=
  denseO (transO ((List.range L.kbs).flatMap fun kb => s.wRows L kb nb) (blockLines L.n nb).length)

/-- Rows ib of w over all of N: the columns of B read transposed. -/
def State.wRowLines (s : State) (L : MatLayer) (ib : Nat) : Grid :=
  (List.range (blockLines L.k ib).length).map fun r =>
    (List.range L.nbs).flatMap fun nb => ((denseO (s.wRows L ib nb))).getD r []

/-- dz row block mb over all of N. -/
def State.dzRows (s : State) (m : Cmd) (L : MatLayer) (mb : Nat) : Grid :=
  (List.range (blockLines L.m mb).length).map fun r =>
    (List.range L.nbs).flatMap fun nb => (s.dzTile m L mb nb).getD r []

/-- A dense forward product of a row tensor's block mb, and its array. -/
def State.productUnit (s : State) (L : MatLayer) (o : Op) (src : Option Tensor) (mb nb : Nat) (acc : Grid) : UnitRun :=
  { unit := o.side, outs := [acc],
    check := [s.tileCheck o.hall (s.block src (blockLines L.m mb) (List.range L.k)) (s.wColumns L nb) none] }

def State.calcFwd (s : State) (m : Cmd) (p : Program) (L : MatLayer) (o : Op) (mb nb : Nat) : Calc :=
  let acc := s.fwdAcc m L L.x mb nb
  let z := s.zOf L nb acc.1
  { units := [s.productUnit L o L.x mb nb acc.1]
    drain := some ((blockLines L.m mb).length, (blockLines L.n nb).length)
    flags := acc.2.or z.2
    write := fun outs flip s =>
      s.fwdWrite m p L mb nb o.tile o.side (flipAt (s.zOf L nb (outOf outs 0 0)).1 flip) (nb == 0) }

/-- A tile that stays in a Store Room, converted to a format and read back, with an element perturbed before it (R274, R279). -/
def stored (fmt : Option Nat) (g : Grid) (flip : Option (Nat × Nat)) : Grid × Flags :=
  match fmt with
  | some f => asFmt f (flipAt g flip)
  | none => (flipAt g flip, {})

/-- A recompute operation: the product of a dense layer and its save path, or the save path alone. Its result stays in a Store
Room, in the format that the forward walk would have saved (R274). -/
def State.calcRecompute (s : State) (m : Cmd) (L : MatLayer) (i : Nat) (o : Op) (mb nb : Nat) : Calc :=
  let ext := ((blockLines L.m mb).length, (blockLines L.n nb).length)
  if s.inactive L mb nb then { write := noWrite } else
  let acc := s.fwdAcc m L L.ckpt mb nb true
  let fmt := L.saved.map (·.fmt)
  let z := s.zOf L nb acc.1
  { units := if L.l.op = 0 then [s.productUnit L o L.ckpt mb nb acc.1] else []
    drain := some ext, flags := (acc.2.or z.2).or (stored fmt z.1 none).2
    write := fun outs flip s =>
      let a := if L.l.op = 0 then outOf outs 0 0 else acc.1
      (s.keep m i (stored fmt (s.zOf L nb a).1 flip).1, none, {}) }

/-- The pre-pass of R279: its result stays in the Store Room copy that the pair operations read. -/
def State.calcPre (s : State) (m : Cmd) (p : Program) (L : MatLayer) (i mb nb : Nat) : Calc :=
  let v := s.preTile m p L mb nb
  let fmt := L.dy.map (·.fmt)
  { drain := some ((blockLines L.m mb).length, (blockLines L.n nb).length), flags := v.2.or (stored fmt v.1 none).2
    write := fun _ flip s => (s.keep m i (stored fmt v.1 flip).1, none, {}) }

/-- The dx Drain of a tile, written. -/
def State.dxWrite (s : State) (m : Cmd) (p : Program) (L : MatLayer) (o : Op) (mb ib : Nat) (acc : Grid)
    (flip : Option (Nat × Nat)) : Written :=
  let d := s.dxDrain m p L mb ib acc
  let r := s.drainTile L.dx (blockLines L.m mb) (blockLines L.k ib) L.sp.round o.tile (if o.side = 1 then 1 else 0)
    (some (BitVec.ofNat 32 m.mb)) (flipAt d.1 flip)
  (r.1, r.2.1, d.2.or r.2.2)

def State.calcPair (s : State) (m : Cmd) (p : Program) (L : MatLayer) (i : Nat) (o : Op) (mb ib : Nat) : Calc :=
  let dx := s.dxAcc m L mb ib
  let dws := (List.range L.nbs).map fun nb => s.dwChunk m L mb ib nb
  let east : List UnitRun := if L.dx.isSome then
    [{ unit := 0, outs := [dx.1], check := [s.tileCheck o.hall (s.dzRows m L mb) (s.wRowLines L ib) none] }] else []
  let west : List UnitRun := if L.dw.isSome then
    [{ unit := 1, outs := dws.map (·.1),
       check := (List.range L.nbs).map fun nb => s.tileCheck o.hall (s.xT L mb ib)
         (transpose (s.dzTile m L mb nb) (blockLines L.n nb).length) none }] else []
  { units := east ++ west
    drain := if L.dx.isSome then some ((blockLines L.m mb).length, (blockLines L.k ib).length) else none
    flags := (if L.dx.isSome then dx.2 else {}).or (if L.dw.isSome then Flags.all (dws.map (·.2)) else {})
    write := fun outs flip s =>
      let a : Written := if L.dx.isSome then s.dxWrite m p L o mb ib (outOf outs 0 0) flip else (s, none, {})
      if L.dw.isSome then thenDo a fun s =>
        s.hold' m i ((outs.getD east.length []).zipIdx.map fun g => (g.2, gridWords g.1)) else a }

/-- A forward chunk operation, or one of a recompute operation: its chunk sum stays for the Drain pass. -/
def State.calcChunk (s : State) (m : Cmd) (L : MatLayer) (i : Nat) (o : Op) (src : Option Tensor) (mb nb kb : Nat) : Calc :=
  let g := s.fwdChunk L src mb nb kb
  let a := s.block src (blockLines L.m mb) (blockLines L.k kb)
  let b := denseO (transO (s.wRows L kb nb) (blockLines L.n nb).length)
  let rsv := match L.w with
    | some t =>
      let j := kb * t.nb + nb
      if o.unit = .sparse ∧ (s.spDir t j).rs = true ∧ s.rsActive o.hall = true then
        some (((s.rowSumsAt t j 0).take (blockLines L.k kb).length), ((s.rowSumsAt t j 128).take (blockLines L.k kb).length))
      else none
    | none => none
  { units := [{ unit := if o.unit = .sparse then 3 else o.side, outs := [g.1],
                check := [if o.unit = .sparse then s.sparseCheck o.hall a b rsv else s.tileCheck o.hall a b none],
                rs := rsv.isSome }]
    flags := g.2, write := fun outs _ s => (s.keep m i (outOf outs 0 0), none, {}) }

/-- The Drain pass of a sparse layer's forward tile; an inactive tile is +0 throughout (R333). -/
def State.calcDrain (s : State) (m : Cmd) (p : Program) (L : MatLayer) (o : Op) (mb nb : Nat) : Calc :=
  let rows := blockLines L.m mb
  let cols := blockLines L.n nb
  let off := s.inactive L mb nb
  let acc := s.fwdAcc m L L.x mb nb
  let z := if off then (rows.map fun _ => cols.map fun _ => posZero, ({} : Flags)) else s.zOf L nb acc.1
  { drain := some (rows.length, cols.length), flags := (if off then {} else acc.2).or z.2
    write := fun _ flip s =>
      let s := if off then s.bump (F.hallCnt o.hall 0x528) else s
      s.fwdWrite m p L mb nb o.tile 0 (flipAt z.1 flip) (nb == 0) }

/-- What an operation keeps of its first result for a later one, and of its next for dw's chain accumulators. -/
def State.keepParts (s : State) (m : Cmd) (i : Nat) (dx : Option Grid) (dw : List (Nat × List W)) : Written :=
  (s.hold' m i ((match dx with
    | some g => [(keptKey, gridWords g)]
    | none => []) ++ dw), none, {})

/-- A backward triple on the arrays or the Sparse Engine (R318). -/
def State.calcTriple (s : State) (m : Cmd) (L : MatLayer) (i : Nat) (o : Op) (mb ib nb : Nat) : Calc :=
  let sparse := o.unit == .sparse
  let dz := s.dzTile m L mb nb
  let dzCols := transpose dz (blockLines L.n nb).length
  let dx := s.dxChunk m L mb ib nb
  let hasDw := L.dw.isSome && !(sparse && L.sp.dwFull) && !s.zeroX L mb ib
  let mask := s.wMask L ib nb
  let dw := if sparse then s.dwMasked m L mb ib nb mask else s.dwChunk m L mb ib nb
  let dxPart : List Grid × List (Grid → Verdict) := if L.dx.isSome then
    ([dx.1], [s.tileCheck o.hall dz (denseO (s.wRows L ib nb)) none]) else ([], [])
  let dwPart : List Grid × List (Grid → Verdict) := if hasDw then
    ([dw.1], [if sparse then s.maskedCheck o.hall (s.xT L mb ib) dzCols mask else s.tileCheck o.hall (s.xT L mb ib) dzCols none])
    else ([], [])
  { units := if sparse then [{ unit := 3, outs := dxPart.1 ++ dwPart.1, check := dxPart.2 ++ dwPart.2 }]
      else (if L.dx.isSome then [{ unit := 0, outs := dxPart.1, check := dxPart.2 }] else []) ++
        (if hasDw then [{ unit := 1, outs := dwPart.1, check := dwPart.2 }] else [])
    flags := (if L.dx.isSome then dx.2 else {}).or (if hasDw then dw.2 else {})
    write := fun outs _ s =>
      let gs := outs.flatten
      s.keepParts m i (if L.dx.isSome then gs.head? else none)
        (if hasDw then (nb, gridWords (gs.getD dxPart.1.length [])) :: (if sparse then [(nb + 2 ^ 16, maskWords mask)] else [])
         else []) }

def State.calcDwFull (s : State) (m : Cmd) (L : MatLayer) (i : Nat) (o : Op) (mb ib nb : Nat) : Calc :=
  let dw := s.dwChunk m L mb ib nb
  { units := [{ unit := o.side, outs := [dw.1],
                check := [s.tileCheck o.hall (s.xT L mb ib)
                  (transpose (s.dzTile m L mb nb) (blockLines L.n nb).length) none] }]
    flags := dw.2
    write := fun outs _ s => (s.hold' m i [(nb, gridWords (outOf outs 0 0))], none, {}) }

def State.calcDrainDx (s : State) (m : Cmd) (p : Program) (L : MatLayer) (o : Op) (mb ib : Nat) : Calc :=
  let acc := s.dxAcc m L mb ib
  { drain := some ((blockLines L.m mb).length, (blockLines L.k ib).length), flags := acc.2
    write := fun _ flip s => s.dxWrite m p L o mb ib acc.1 flip }

/-- Writes −0 into dw on every Hall (R280), or clears the zero map's bits (R335). -/
def State.initLayer (s : State) (L : MatLayer) (bwd : Bool) : Written :=
  if bwd then match L.dw with
    | some t => (hallsOf L.l.halls).foldl (fun acc h => State.andWrite acc fun s => s.startDw (dwOn t h)) (s, none, {})
    | none => (s, none, {})
  else match L.yz with
    | some t =>
      let r := s.setMapBits t ((List.range (L.mbs * L.nbs)).map fun b => (b, false))
      (r.1, r.2, {})
    | none => (s, none, {})

/-! ### MATMUL -/

def State.mmA (s : State) (q : MM) (rows ks : List Nat) : Grid :=
  rows.map fun i => ks.map fun k => if q.ta then s.at2 q.a k i else s.at2 q.a i k

def State.mmB (s : State) (q : MM) (cols ks : List Nat) : Grid :=
  cols.map fun j => ks.map fun k => if q.tb then s.at2 q.b j k else s.at2 q.b k j

def State.calcMatmul (s : State) (q : MM) (o : Op) (mb nb : Nat) : Calc :=
  let rows := blockLines q.m mb
  let cols := blockLines q.n nb
  let chunks := (List.range (upDiv q.k 32)).map fun kb =>
    let ks := blockLines q.k kb
    chunkSums (s.mmA q rows ks) ((s.mmB q cols ks).map fun c => c.map some)
  let cin := if q.acc then some (s.block (some q.c) rows cols) else none
  let acc := addChunks (cin.getD (zeroGrid rows.length cols.length)) chunks
  let ks := List.range q.k
  { units := [{ unit := o.side, outs := [acc.1],
                check := [s.tileCheck o.hall (s.mmA q rows ks) (s.mmB q cols ks) cin] }]
    drain := some (rows.length, cols.length), flags := acc.2
    write := fun outs flip s =>
      let f := gridMap (drainFun q.func (of32 q.alpha) [] false) (flipAt (outOf outs 0 0) flip)
      let r := s.drainTile (some q.c) rows cols q.round o.tile o.side none f.1
      (r.1, r.2.1, f.2.or r.2.2) }

/-- What an operation of a matrix layer, or of a MATMUL, computes. -/
def State.calc (s : State) (m : Cmd) (i : Nat) (o : Op) : Calc :=
  let p := m.rawProgram
  match o.kind, m.opcode with
  | .matmul mb nb, _ => s.calcMatmul m.matmulOf o mb nb
  | k, _ =>
    match p.layers[k.layer]? with
    | none => { write := noWrite }
    | some l =>
      let L := m.matLayer p k.layer l
      match k with
      | .fwd _ mb nb => s.calcFwd m p L o mb nb
      | .recompute _ mb nb => s.calcRecompute m L i o mb nb
      | .rechunk _ mb nb kb => s.calcChunk m L i o L.ckpt mb nb kb
      | .pre _ mb nb => s.calcPre m p L i mb nb
      | .pair _ mb ib => s.calcPair m p L i o mb ib
      | .chunk _ mb nb kb => s.calcChunk m L i o L.x mb nb kb
      | .drain _ mb nb => s.calcDrain m p L o mb nb
      | .triple _ mb ib nb => s.calcTriple m L i o mb ib nb
      | .dwFull _ mb ib nb => s.calcDwFull m L i o mb ib nb
      | .drainDx _ mb ib => s.calcDrainDx m p L o mb ib
      | .init _ bwd => { write := fun _ _ s => s.initLayer L bwd }
      | _ => { write := noWrite }

end Sys2Proof.Machine
end

