-- ==== Sys2Proof/Machine/Checks.lean ====
section
/-! DEFINITION. The checks of an operation's results: injected and physical faults, the compare of each unit, the records and
counts of a mismatch, and the retry (R281 to R292, R328 to R330, R370, R371, R494, R589). -/

namespace Sys2Proof.Machine

/-! ### Perturbation by TEST.CHK_INJ (R494) -/

/-- The unit code of an operation's units that TEST.CHK_INJ or a physical fault may name. -/
def State.armed? (s : State) (tile : Nat) (units : List Nat) : Option (Nat × Nat × Nat) :=
  if s.flag F.chkArm && s.fld F.chkTile == tile && units.contains (s.fld F.chkUnit) then
    some (s.fld F.chkUnit, s.fld F.chkRow, s.fld F.chkCol)
  else none

def State.disarm (s : State) (inj : Option (Nat × Nat × Nat)) : State :=
  if inj.isSome then s.setFld F.chkArm 0 else s

/-- The element perturbed in the result of a unit, within its extent. -/
def flipFor (inj : Option (Nat × Nat × Nat)) (unit rows cols : Nat) : Option (Nat × Nat) :=
  match inj with
  | some (u, r, c) => if u = unit ∧ r < rows ∧ c < cols then some (r, c) else none
  | none => none

/-! ### One attempt -/

/-- A mismatch of one unit: its masks, and whether a row-sum check found it. -/
structure Mismatch where
  unit : Nat
  rows : Nat
  cols : Nat
  rs   : Bool := false
deriving DecidableEq, Repr

/-- What an attempt gives: the results as presented, the Drain's perturbed element, the mismatches, and the lines not
compared. -/
structure Attempt where
  outs    : List (List Grid)
  drain   : Option (Nat × Nat)
  bad     : List Mismatch
  skipped : Nat

def gridFlip (g : Grid) (inj : Option (Nat × Nat × Nat)) (unit : Nat) : Option (Nat × Nat) :=
  flipFor inj unit g.length (g.headD []).length

/-- The results of a unit with its first one perturbed. -/
def presented (u : UnitRun) (inj : Option (Nat × Nat × Nat)) : List Grid :=
  match u.outs with
  | [] => []
  | g :: gs => flipAt g (gridFlip g inj u.unit) :: gs

/-- A physical fault that strikes a unit in this attempt (R471): the masks its check unit reports. -/
def faultOn (f : Option OpFault) (retry : Bool) (unit : Nat) : Option (Nat × Nat) :=
  match f with
  | some f => if f.unit = unit ∧ (if retry then f.second else f.first) = true then some (f.rows.toNat, f.cols.toNat) else none
  | none => none

/-- The verdict of one unit. -/
def unitVerdict (u : UnitRun) (outs : List Grid) (f : Option OpFault) (retry : Bool) : Verdict × Bool :=
  let v := Verdict.all (List.zipWith (fun c o => c o) u.check outs)
  match faultOn f retry u.unit with
  | some x => ({ v with rows := v.rows ||| x.1, cols := v.cols ||| x.2 }, true)
  | none => (v, v.rows != 0 || v.cols != 0)

/-- Runs an operation's checks once. The Drain compares once every unit has passed. -/
def State.attempt (s : State) (h : Nat) (q : Calc) (inj : Option (Nat × Nat × Nat)) (f : Option OpFault) (retry : Bool) :
    Attempt :=
  let outs := q.units.map fun u => presented u inj
  let on := s.arrayChecked h
  let vs := if on then (q.units.zip outs).map fun u => (u.1, unitVerdict u.1 u.2 f retry) else []
  let bad := (vs.filter fun v => v.2.2).map fun v => (⟨v.1.unit, v.2.1.rows, v.2.1.cols, v.1.rs && v.2.1.rows != 0⟩ : Mismatch)
  let dflip := match q.drain with
    | some e => flipFor inj 2 e.1 e.2
    | none => none
  let dbad : List Mismatch := if bad.isEmpty && s.drainChecked h && q.drain.isSome then
    match faultOn f retry 2, dflip with
    | some x, _ => [⟨2, x.1, x.2, false⟩]
    | none, some e => [⟨2, 2 ^ e.1, 2 ^ e.2, false⟩]
    | none, none => [] else []
  { outs := outs, drain := dflip, bad := bad ++ dbad, skipped := (vs.map fun v => v.2.1.skipped).foldl (· + ·) 0 }

/-! ### Records and counts -/

/-- What a mismatch names: the operation's Hall and tile, the array its Drain handles, its layer's number, its ring. -/
structure Site where
  hall  : Nat
  tile  : Nat
  array : Nat
  layer : Nat
  ring  : Nat
deriving DecidableEq, Repr

/-- detail1 of CHECKSUM: the array, 2 for the Sparse Engine, 3 for the Vector Engine (R287, R289, R330, R371). -/
def unitDetail (e : Site) (unit : Nat) : Nat :=
  match unit with
  | 0 => 0
  | 1 => 1
  | 2 => e.array
  | 3 => 2
  | _ => 3

/-- The record code of a unit (R291, R330, R371). -/
def unitCode (unit : Nat) : Nat :=
  match unit with
  | 2 => 0x0902
  | 3 => 0x0903
  | 4 => 0x0904
  | _ => 0x0901

/-- The record of a mismatch, its counts, and the Health Monitor's input. -/
def State.mismatch (s : State) (e : Site) (retry : Bool) (b : Mismatch) : State :=
  let ve := b.unit == 4
  let detail := retry.toNat * 2 ^ 15 + (if ve then 0 else unitDetail e b.unit * 2 ^ 13) + e.tile % 32
  let s := s.event 3 (32 * e.hall + e.tile % 640 / 32) (unitCode b.unit) detail
    [BitVec.ofNat 32 (if ve then 0 else b.rows), BitVec.ofNat 32 (if ve then 0 else b.cols), BitVec.ofNat 32 (e.layer % 65536),
     BitVec.ofNat 32 e.ring]
  let s := { s with safe := { s.safe with win4 := s.safe.win4 + 1 } }
  if ve then
    ((s.bump (F.hallCnt e.hall 0x614)).setFld (F.veLastRetry e.hall) retry.toNat).setFld (F.veLastTile e.hall) e.tile
  else
    let s := s.bump (F.hallCnt e.hall (if b.unit = 2 then 0x418 else 0x408))
    let s := if b.rs then s.bump (F.hallCnt e.hall 0x520) else s
    (s.setFld (F.chkLastUnit e.hall) b.unit).setFld (F.chkLastTile e.hall) e.tile

def State.mismatches (s : State) (e : Site) (retry : Bool) (l : List Mismatch) : State :=
  l.foldl (fun s b => s.mismatch e retry b) s

/-- The operation fails its command with CHECKSUM (R287). -/
def State.checkFail (s : State) (c : CmdId) (i : Nat) (e : Site) (unit : Nat) : State :=
  (s.bump (F.hallCnt e.hall (if unit = 4 then 0x624 else 0x410))).failOp c i ⟨St.checksum, e.tile, unitDetail e unit⟩

/-- Two attempts at most: the results of the one that passed, or the unit that failed the operation. -/
def State.checked (s : State) (e : Site) (q : Calc) (f : Option OpFault) : State × (Attempt ⊕ Nat) :=
  let inj := s.armed? e.tile (q.units.map (·.unit) ++ if q.drain.isSome then [2] else [])
  let both := s.flag F.chkBoth
  let s := s.disarm inj
  let a := s.attempt e.hall q inj f false
  let s := s.bump (F.hallCnt e.hall 0x414) a.skipped
  match a.bad with
  | [] => (s, .inl a)
  | b :: _ =>
    let s := s.mismatches e false a.bad
    if !s.flag (F.chkRetry e.hall) then (s, .inr b.unit) else
    let a := s.attempt e.hall q (if both then inj else none) f true
    let s := s.bump (F.hallCnt e.hall 0x414) a.skipped
    match a.bad with
    | [] => (s.bump (F.hallCnt e.hall 0x40C), .inl a)
    | b :: _ => (s.mismatches e true a.bad, .inr b.unit)

end Sys2Proof.Machine
end

