-- ==== Sys2Proof/Machine/Sampling.lean ====
section
/-! DEFINITION. Graphs and sample jobs (R150 to R176): descriptors and their checks, the selection of neighbours, the
path record, and the check of a graph. -/

namespace Sys2Proof.Machine

open Fp

/-! ### Descriptors -/

/-- One hop of a job descriptor (R154). -/
structure Hop where
  mode     : Nat
  temporal : Bool
  chain    : Bool
  fanout   : Nat
  cap      : Nat
  nb       : Nat
  eb       : Nat
deriving DecidableEq, Repr

/-- A job descriptor (R154). -/
structure Job where
  at_     : Nat
  gen     : Nat
  seedTimes : Bool
  edgeCol : Bool
  hops    : List Hop
deriving DecidableEq, Repr

/-- A graph descriptor (R150). -/
structure Graph where
  timed : Bool
  nodes : Nat
  edges : Nat
  hot   : Nat
  celOff  : Nat
  celEdge : Nat
  deepOff : Nat
  deepEdge : Nat
deriving DecidableEq, Repr

/-- A sample job with all it names: the path record, the seeds, and the operand words its statuses name. -/
structure SampleArgs where
  job   : Job
  graph : Graph
  seed  : Tensor
  path  : Tensor
  seedWord : Nat
  pathWord : Nat
  mb    : W
deriving DecidableEq, Repr

def hopOf (ws : List W) (h : Nat) : Hop :=
  { mode := wbits ws (4 + h) 31 30, temporal := wbits ws (4 + h) 29 29 == 1, chain := wbits ws (4 + h) 28 28 == 1,
    fanout := wbits ws (4 + h) 27 16, cap := wbits ws (4 + h) 15 0, nb := wbits ws (8 + h) 23 0,
    eb := wordAt ws (12 + h) }

/-- Whether hop h, from 0, breaks order 3 of R158. -/
def badHop (h : Nat) (p : Hop) : Bool :=
  (if p.mode = 3 then p.fanout != 0 else p.fanout == 0) || p.cap == 0 || p.nb == 0 ||
    (p.chain && (h == 0 || !p.temporal))

/-- Orders 1 to 3 of R158. -/
def State.jobArg (s : State) (ws : List W) (addr : Nat) : Except Status Job := do
  let n := wbits ws 0 27 25
  need (wbits ws 0 31 28 == 5 && wbits ws 0 22 0 == 0 && wbits ws 1 31 14 == 0 && wbits ws 2 5 0 == 0 &&
    decide (1 ≤ n) && decide (n ≤ 4) && (List.range 4).all fun h => wbits ws (8 + h) 31 24 == 0) (badDesc addr)
  let gen := wbits ws 1 13 0
  need (s.validTile gen) (oor 4)
  need ((List.range 4).all fun h =>
    if h < n then !badHop h (hopOf ws h)
    else wordAt ws (4 + h) == 0 && wordAt ws (8 + h) == 0 && wordAt ws (12 + h) == 0) (badDesc addr)
  pure { at_ := addr, gen := gen, seedTimes := wbits ws 0 24 24 == 1, edgeCol := wbits ws 0 23 23 == 1,
         hops := (List.range n).map (hopOf ws) }

def graphOf (ws : List W) : Graph :=
  { timed := wbits ws 0 27 27 == 1, nodes := wordAt ws 1 + 2 ^ 32 * wbits ws 2 7 0,
    edges := wordAt ws 3 + 2 ^ 32 * wbits ws 4 7 0, hot := wordAt ws 5 + 2 ^ 32 * wbits ws 6 7 0,
    celOff := wordAt ws 7 + 2 ^ 32 * wordAt ws 8, celEdge := wordAt ws 9 + 2 ^ 32 * wordAt ws 10,
    deepOff := wordAt ws 11 + 2 ^ 32 * wordAt ws 12, deepEdge := wordAt ws 13 + 2 ^ 32 * wordAt ws 14 }

/-- What order 4 of R158 asks of a graph descriptor alone. -/
def graphArg (ws : List W) (addr : Nat) : Except Status Graph := do
  let g := graphOf ws
  need (wbits ws 0 31 28 == 4 && wbits ws 0 26 0 == 0 && wbits ws 2 31 8 == 0 && wbits ws 4 31 8 == 0 &&
    wbits ws 6 31 8 == 0 && wordAt ws 15 == 0 && g.nodes != 0 && decide (g.hot ≤ g.nodes) && g.celOff % 64 == 0 &&
    g.celEdge % 64 == 0 && g.deepOff % 64 == 0 && g.deepEdge % 64 == 0) (badDesc addr)
  pure g

def seedWords (j : Job) : Nat := if j.seedTimes then 4 else 2
def seedCount (j : Job) (seed : Tensor) : Nat := seed.size 0 / seedWords j

/-- Bytes a path record may need (R172). -/
def pathBound (j : Job) (n0 : Nat) : Nat :=
  let b := (j.hops.map (·.nb)).foldl (· + ·) 0
  64 + 8 * (n0 + b) + if j.edgeCol then 8 * b else 0

/-- Orders 5 to 9 of R158. -/
def State.sampleTensors (s : State) (j : Job) (seed path : Tensor) (seedWord pathWord : Nat) : Except Status Unit := do
  need (seed.fmt == 7) (badFormat seedWord seed.fmt)
  need (path.fmt == 7) (badFormat pathWord path.fmt)
  need (seed.ndim == 1 && seed.size 0 % seedWords j == 0) (badDesc seed.at_)
  need (path.ndim == 1) (badDesc path.at_)
  let n0 := seedCount j seed
  need (n0 != 0 && decide (n0 ≤ 16777215)) (oor seedWord)
  let e := s.extent path
  need ((path.tier == 0 || path.tier == 2 || path.tier == 3) &&
    (path.tier == 3 || (hallOf path.tier e.1 == j.gen / 640 && hallOf path.tier e.2 == j.gen / 640))) (oor pathWord)
  need ((j.hops.zip (n0 :: j.hops.map (·.nb))).all fun p => decide (p.2 ≤ p.1.eb)) (badDesc j.at_)
  need (decide (pathBound j n0 ≤ 4 * path.size 0)) (oor 8)

/-- The job and graph that a job pointer names; `w` is the operand word of R109. -/
def State.jobGraph (s : State) (m : Cmd) (w : Nat) (p : DPtr) : Except Status (Job × Graph) := do
  let ws ← m.block w p 64
  let j ← s.jobArg ws p.addr
  let gp := ptrAt ws 2
  let gs ← m.block w gp 64
  let g ← graphArg gs gp.addr
  need (j.hops.all fun h => !h.temporal || (g.timed && j.seedTimes)) (badDesc gp.addr)
  pure (j, g)

/-- The arguments of a SAMPLE (R156, R158). -/
def State.sampleArgs (s : State) (m : Cmd) : Except Status SampleArgs := do
  let jg ← s.jobGraph m 4 (m.ptr 4)
  let seed ← s.tensorArg m 6
  let path ← s.tensorArg m 8
  s.sampleTensors jg.1 seed path 6 8
  pure { job := jg.1, graph := jg.2, seed := seed, path := path, seedWord := 6, pathWord := 8,
         mb := m.words.getD 10 0 }

/-- The arguments of a sample layer (R157, R158, R174); its micro-batch number is the walk's. -/
def State.sampleLayerArgs (s : State) (m : Cmd) (p : Program) (l : Layer) (mb : W) : Except Status SampleArgs := do
  need ((List.range 8).all (fun i => wordAt l.words (8 + i) == 0) && l.w == noTensor && l.y == noTensor &&
    l.saved == noTensor && l.dy == noTensor && l.dx == noTensor && l.dw == noTensor && l.x != noTensor &&
    l.path != noTensor && l.fwd && !l.bwd && !l.keep && !l.recompute && (hallsOf l.halls).length == 1) (badDesc l.at_)
  need (wbits l.words 6 5 0 == 0) (badDesc l.at_)
  let jg ← s.jobGraph m 4 (ptrAt l.words 6)
  need (hallsOf l.halls == [jg.1.gen / 640]) (badDesc l.at_)
  let seed ← s.layerTensor m 4 p l.x
  let path ← s.layerTensor m 4 p l.path
  s.sampleTensors jg.1 seed path 4 4
  pure { job := jg.1, graph := jg.2, seed := seed, path := path, seedWord := 4, pathWord := 4, mb := mb }

/-! ### Running a job -/

/-- What a job gathers while it runs. -/
structure SampAcc where
  s    : State
  read : Nat := 0
  bad  : Nat := 0
  void : Nat := 0
  /-- Entries dropped by node budgets, and hops edge-trimmed (R179). -/
  dropped : Nat := 0
  trims : Nat := 0
  /-- Hops whose columns are complete (R173). -/
  hops : Nat := 0
  flags : Flags := {}

abbrev SampM := ExceptT Status (StateM SampAcc)

/-- Reads bytes of the graph; an uncorrectable unit ends the job (R45, R176). -/
def sampRead (tier addr n : Nat) : SampM (List Byte) := fun a =>
  let r := a.s.touch tier addr n
  match r.2 with
  | some x => (.error (uncorrAt tier x), { a with s := r.1 })
  | none => (.ok (r.1.peek tier addr n), { a with s := r.1 })

/-- A violation of R174: the event record, then the status. Which hop and which position word 6 holds is open: here the hop
being sampled and the parent's position in the column before it, a seed's number, or in GRAPH_VERIFY the index in the list
(DESIGN CHOICE, assumption 23). -/
def sampFault (hall ring word code node hop pos : Nat) : SampM α := fun a =>
  let words : List W :=
    [BitVec.ofNat 32 node, BitVec.ofNat 32 (node / 2 ^ 32 % 256), BitVec.ofNat 32 (hop * 2 ^ 29 + pos % 2 ^ 24), 0]
  (.error (oor word), { a with s := a.s.event 2 hall code ring words })

/-- Where a job's faults are reported. -/
structure SampEnv where
  hall : Nat
  ring : Nat
  word : Nat
deriving DecidableEq, Repr

/-- A node's list (R151, R152): tier, base of the edge array, first index, length. -/
structure NodeList where
  tier  : Nat
  base  : Nat
  first : Nat
  len   : Nat
deriving DecidableEq, Repr

def entrySize (g : Graph) : Nat := if g.timed then 16 else 8

def nodeList (e : SampEnv) (g : Graph) (node hop pos : Nat) : SampM NodeList := do
  let hot := decide (node < g.hot)
  let tier := if hot then 3 else 4
  let bs ← sampRead tier ((if hot then g.celOff else g.deepOff) + 8 * node) 16
  let o0 := ofLe (bs.take 5)
  let o1 := ofLe ((bs.drop 8).take 5)
  if o1 < o0 then sampFault e.hall e.ring e.word 0x2001 node hop pos
  else if g.edges < o1 then sampFault e.hall e.ring e.word 0x2002 node hop pos
  else pure { tier := tier, base := if hot then g.celEdge else g.deepEdge, first := o0, len := o1 - o0 }

/-- One edge entry as read. -/
structure Edge where
  nbr    : Nat
  idx    : Nat
  etype  : Nat
  weight : Nat
  time   : Nat
deriving DecidableEq, Repr

def edgeAt (g : Graph) (l : NodeList) (i : Nat) : Nat := l.base + entrySize g * (l.first + i)

/-- Reads the i-th entry of a list (R151, R174). -/
def readEdge (e : SampEnv) (g : Graph) (l : NodeList) (hop pos i : Nat) : SampM Edge := do
  let bs ← sampRead l.tier (edgeAt g l i) (entrySize g)
  modify fun a => { a with read := a.read + 1 }
  let nbr := ofLe (bs.take 5)
  if g.nodes ≤ nbr then sampFault e.hall e.ring e.word 0x2003 nbr hop pos
  else pure { nbr := nbr, idx := l.first + i, etype := ofLe ((bs.drop 7).take 1), weight := ofLe ((bs.drop 5).take 2),
              time := if g.timed then ofLe ((bs.drop 8).take 4) else 0 }

/-- The search of R160; the first argument bounds its rounds. -/
def eligible (g : Graph) (l : NodeList) (limit : Nat) : Nat → Nat → Nat → SampM Nat
  | 0, lo, _ => pure lo
  | n + 1, lo, hi =>
    if hi ≤ lo then pure lo else do
      let mid := (lo + hi) / 2
      let bs ← sampRead l.tier (edgeAt g l mid + 8) 4
      if ofLe bs ≤ limit then eligible g l limit n (mid + 1) hi else eligible g l limit n lo mid

/-- A parent: its node, the time of the seed at its root, and the time of the edge that reached it. -/
structure Parent where
  node : Nat
  root : Nat
  time : Nat
deriving DecidableEq, Repr

/-- A parent's list and eligible length (R160, R161). -/
def parentList (e : SampEnv) (g : Graph) (h : Hop) (hop pos : Nat) (p : Parent) : SampM (NodeList × Nat) := do
  let l ← nodeList e g p.node hop pos
  if h.temporal then do
    let n ← eligible g l (if h.chain then p.time else p.root) 41 0 l.len
    pure (l, n)
  else pure (l, l.len)

/-- A parent's cost at a cap (R161). -/
def capCost (h : Hop) (c e : Nat) : Nat := if h.mode = 0 then min e (min h.fanout c) else min e c

def hopCost (h : Hop) (es : List Nat) (c : Nat) : Nat := (es.map (capCost h c)).foldl (· + ·) 0

/-- The largest cap from lo to hi whose cost fits the edge budget (R161). -/
def findCap (h : Hop) (es : List Nat) : Nat → Nat → Nat → Nat
  | 0, lo, _ => lo
  | n + 1, lo, hi =>
    if hi ≤ lo then lo else
    let mid := (lo + hi + 1) / 2
    if hopCost h es mid ≤ h.eb then findCap h es n mid hi else findCap h es n lo (mid - 1)

/-- Floyd selection of k positions out of m, ascending (R162); `draw i` is the i-th draw. -/
def floyd (m k : Nat) (draw : Nat → Nat) : List Nat :=
  sortNat ((List.range k).foldl (fun (set : List Nat) i =>
    let j := m - k + i
    let t := draw i * (j + 1) / 2 ^ 32
    if set.contains t then j :: set else t :: set) [])

/-- A weight as mode 1 reads it: 0 where it is negative, zero, NaN or +∞ (R164). -/
def goodWeight (w : Nat) : Option Val :=
  match decode 1 w 0 with
  | .fin false m e => if m = 0 then none else some (.fin false m e)
  | _ => none

/-- Prefix sums in FP32 (R164). -/
def prefixSums (acc : Val) : List Val → List Val × Flags
  | [] => ([], {})
  | v :: vs =>
    let r := add acc v
    let t := prefixSums r.1 vs
    (r.1 :: t.1, r.2.or t.2)

/-- The candidate a draw picks (R164). -/
def pickWeight (sums : List Val) (last : Nat) (total : Val) (r : Nat) : Nat :=
  let target := match total with
    | .fin _ m e => (roundTo fp32 .nearest (.fin false (m * r) (e - 32))).1
    | v => v
  match sums.findIdx? fun q => gt q target with
  | some i => i
  | none => last

/-- Mode 1: the candidates picked, in adjacency order, with repeats (R164, R165). -/
def weighted (ws : List Nat) (f : Nat) (draw : Nat → Nat) : SampM (List Nat) := do
  let good := ws.map goodWeight
  let ps := prefixSums posZero (good.map fun v => v.getD posZero)
  let total := (ps.1.getLast?).getD posZero
  modify fun a => { a with bad := a.bad + (good.filter (·.isNone)).length, flags := a.flags.or ps.2 }
  if isZero total || isInf total then do
    modify fun a => { a with void := a.void + 1 }
    pure []
  else
    let last := ((good.zipIdx.filter fun p => p.1.isSome).getLast?.map (·.2)).getD 0
    pure (sortNat ((List.range f).map fun i => pickWeight ps.1 last total (draw i)))

/-- Mode 2: the k largest weights, NaN as −∞, equal weights to the lower position (R162). -/
def topK (ws : List Nat) (k : Nat) : List Nat :=
  let key := fun (w : Nat) => match decode 1 w 0 with
    | .nan => Val.inf true
    | v => v
  let before := fun (a b : Nat × Nat) => Fp.cmp (key b.1) (key a.1) != Ordering.gt
  sortNat (((sortBy before ws.zipIdx).take k).map (·.2))

/-- The children of parent j of a hop, in adjacency order (R162). -/
def children (e : SampEnv) (g : Graph) (h : Hop) (hop c : Nat) (draw : Nat → Nat) (j : Nat) (l : NodeList) (n : Nat) :
    SampM (List Edge) := do
  if h.mode = 0 then do
    let k := min h.fanout (min n c)
    let ps := if k = n then List.range n else floyd n k draw
    ps.mapM (readEdge e g l hop j)
  else do
    let ps := if c < n then floyd n c draw else List.range n
    let es ← ps.mapM (readEdge e g l hop j)
    if h.mode = 3 then pure es
    else do
      let used := if c < n then c else 0
      let ws := es.map (·.weight)
      let pick ← if h.mode = 1 then weighted ws h.fanout (fun i => draw (used + i))
        else pure (topK ws (min h.fanout (min n c)))
      pure (pick.filterMap fun i => es[i]?)

/-- The reservoir of R166: indices kept, ascending. -/
def reservoir (n b : Nat) (draw : Nat → Nat) : List Nat :=
  if n ≤ b then List.range n else
  sortNat ((List.range (n - b)).foldl (fun (slot : List Nat) i =>
    let j := draw i * (b + i + 1) / 2 ^ 32
    if j < b then slot.set j (b + i) else slot) (List.range b))

/-- What a hop leaves: its kept entries with their parents' positions, N_h minus the budget, whether it was edge-trimmed,
the counter base of the next hop. -/
structure HopOut where
  kept    : List (Nat × Edge)
  parents : List Parent
  dropped : Nat
  trim    : Bool
  next    : Nat

/-- The draw window of one parent (R168). -/
def drawWindow : Nat := 131072

/-- One hop (R161 to R168); `at_` is A_h, `draw lane value` reads a lane's generator at c_l + value. -/
def runHop (e : SampEnv) (g : Graph) (draw : Nat → Nat → Nat) (h : Hop) (hop at_ : Nat) (ps : List Parent) :
    SampM HopOut := do
  let lists ← ps.zipIdx.mapM fun p => parentList e g h hop p.2 p.1
  let es := lists.map (·.2)
  let c := findCap h es 17 1 h.cap
  let kids ← lists.zipIdx.mapM fun p => do
    let d := fun n => draw (p.2 % 64) (at_ + p.2 / 64 * drawWindow + n)
    let cs ← children e g h hop c d p.2 p.1.1 p.1.2
    pure (cs.map fun x => (p.2, x))
  let kids := kids.flatten
  let n := kids.length
  let w := upDiv ps.length 64 * drawWindow
  let keep := reservoir n h.nb fun i => draw (i % 64) (at_ + w + i / 64)
  let kept := keep.filterMap fun i => kids[i]?
  let trim := decide (h.eb < hopCost h es h.cap)
  modify fun a => { a with dropped := a.dropped + (n - h.nb), trims := a.trims + trim.toNat }
  pure { kept := kept, dropped := n - h.nb, trim := trim,
         parents := kept.map fun k =>
           { node := k.2.nbr, root := (ps.getD k.1 ⟨0, 0, 0⟩).root, time := k.2.time },
         next := at_ + w + upDiv (n - h.nb) 64 }

/-- The seeds as parents (R155, R174): code 0x2006 names the seed pointer's word. -/
def seedParents (e : SampEnv) (a : SampleArgs) : SampM (List Parent) := fun acc =>
  let n := a.seed.size 0
  let t := acc.s.touchElems a.seed (a.seed.run 0 n)
  match t.2 with
  | some x => (.error (uncorrAt x.1 x.2), { acc with s := t.1 })
  | none =>
    let w := seedWords a.job
    let word := fun (i : Nat) => t.1.elemBits a.seed (a.seed.coord i)
    let ps := (List.range (seedCount a.job a.seed)).map fun i =>
      ({ node := word (w * i) + word (w * i + 1) % 256 * 2 ^ 32, root := if w = 4 then word (w * i + 2) else 0,
         time := 0 } : Parent)
    match ps.zipIdx.find? fun p => decide (a.graph.nodes ≤ p.1.node) with
    | some p => sampFault e.hall e.ring a.seedWord 0x2006 p.1.node 0 p.2 { acc with s := t.1 }
    | none => (.ok ps, { acc with s := t.1 })

/-! ### The path record (R170 to R173) -/

/-- A node column entry. -/
def nodeEntry (parent node : Nat) : List W :=
  [BitVec.ofNat 32 node, BitVec.ofNat 32 (parent % 2 ^ 24 * 256 + node / 2 ^ 32 % 256)]

/-- An edge column entry. -/
def edgeEntry (x : Edge) : List W :=
  [BitVec.ofNat 32 x.idx, BitVec.ofNat 32 (x.etype * 2 ^ 24 + x.weight * 256 + x.idx / 2 ^ 32 % 256)]

/-- Bits of a list of flags, the first in bit 0. -/
def maskOf : List Bool → Nat
  | [] => 0
  | b :: bs => b.toNat + 2 * maskOf bs

def sat32 (n : Nat) : Nat := min n 0xFFFFFFFF

/-- The header. -/
def pathHeader (a : SampleArgs) (n0 : Nat) (os : List HopOut) (adv read : Nat) : List W :=
  let o := fun (h : Nat) (f : HopOut → Nat) => BitVec.ofNat 32 ((os[h]?.map f).getD 0)
  [BitVec.ofNat 32 (6 * 2 ^ 28 + a.job.hops.length * 2 ^ 25 + a.job.edgeCol.toNat * 2 ^ 24 +
      maskOf (os.map fun x => decide (0 < x.dropped)) * 2 ^ 20 + maskOf (os.map (·.trim)) * 2 ^ 16),
   BitVec.ofNat 32 n0] ++
  (List.range 4).map (fun h => o h fun x => x.kept.length) ++ (List.range 4).map (fun h => o h fun x => sat32 x.dropped) ++
  [BitVec.ofNat 32 adv, BitVec.ofNat 32 (adv / 2 ^ 32), BitVec.ofNat 32 (sat32 read), a.mb, 0, 0]

/-- A write of words to the path record from a word on. -/
def sampWrite (path : Tensor) (at_ : Nat) (ws : List W) : SampM Unit := fun acc =>
  let w := acc.s.writeElems path (ws.zipIdx.map fun p => (path.coord (at_ + p.2), p.1.toNat))
  match w.2 with
  | some x => (.error (uncorrAt x.1 x.2), { acc with s := w.1 })
  | none => (.ok (), { acc with s := w.1 })

/-- The columns of one more hop are complete (R173). -/
def hopDone : SampM Unit := modify fun a => { a with hops := a.hops + 1 }

/-- The hops in order, each with its node column from a word of the path record on: the hops, the counter base after the last
and the word after the last column (R171). -/
def runHops (e : SampEnv) (a : SampleArgs) (draw : Nat → Nat → Nat) : List Hop → Nat → Nat → Nat → List Parent →
    SampM (List HopOut × Nat × Nat)
  | [], _, at_, w, _ => pure ([], at_, w)
  | h :: hs, hop, at_, w, ps => do
    let o ← runHop e a.graph draw h hop at_ ps
    sampWrite a.path w (o.kept.flatMap fun k => nodeEntry k.1 k.2.nbr)
    if !a.job.edgeCol then hopDone
    let r ← runHops e a draw hs (hop + 1) o.next (w + 2 * o.kept.length) o.parents
    pure (o :: r.1, r.2)

/-- The edge columns, after the last node column (R171). -/
def edgeColumns (path : Tensor) : List HopOut → Nat → SampM Unit
  | [], _ => pure ()
  | o :: os, w => do
    sampWrite path w (o.kept.flatMap fun k => edgeEntry k.2)
    hopDone
    edgeColumns path os (w + 2 * o.kept.length)

/-- What a finished job leaves: its hops, and the advance of its lanes. -/
structure SampOut where
  os  : List HopOut
  adv : Nat

/-- The job (R160 to R173): the header is written last. -/
def sampleRun (e : SampEnv) (a : SampleArgs) (draw : Nat → Nat → Nat) : SampM SampOut := do
  let seeds ← seedParents e a
  sampWrite a.path 16 (seeds.flatMap fun p => nodeEntry 0xFFFFFF p.node)
  let r ← runHops e a draw a.job.hops 1 0 (16 + 2 * seeds.length) seeds
  if a.job.edgeCol then edgeColumns a.path r.1 r.2.2
  let acc ← get
  sampWrite a.path 0 (pathHeader a seeds.length r.1 r.2.1 acc.read)
  pure { os := r.1, adv := r.2.1 }

/-- Counts edge entries in units of 1,024 (R179). -/
def State.countEdges (s : State) (h n : Nat) : State :=
  let t := (s.halls.getD h {}).edgeRem + n
  let s := { s with halls := s.halls.modify h fun x => { x with edgeRem := t % 1024 } }
  s.bump (F.smp h 0x31C) (t / 1024)

/-- How a job ends: its failure, or whether it was truncated and its dropped entries; the hops whose columns are complete; its
arithmetic flags. -/
structure JobEnd where
  result : Except Status (Bool × Nat)
  hops   : Nat
  flags  : Flags

/-- Runs a job, with the counters of R179 and, on success, the advance of the lanes of R169. -/
def State.sampleJob (s : State) (e : SampEnv) (a : SampleArgs) : State × JobEnd :=
  let tile := a.job.gen
  let r := sampleRun e a (fun lane v => s.drawAt tile lane (s.ctr tile lane + BitVec.ofNat 64 v)) { s := s }
  let acc := r.2
  let n := fun (s : State) (off k : Nat) => s.bump (F.smp e.hall off) k
  let s := n (n (n (n (acc.s.countEdges e.hall acc.read) 0x314 acc.void) 0x318 acc.bad) 0x30C acc.dropped) 0x310 acc.trims
  match r.1 with
  | .error st => (s, ⟨.error st, acc.hops, acc.flags⟩)
  | .ok o =>
    let cut := decide (0 < acc.dropped) || decide (0 < acc.trims)
    let s := if cut then n s 0x308 1 else s
    (s.advance tile (List.range 64) o.adv (some a.mb), ⟨.ok (cut, sat32 acc.dropped), acc.hops, acc.flags⟩)

/-! ### GRAPH_VERIFY (R156, R176) -/

/-- Checks the entries of one list from i on: neighbour ids, ascending times, equal copies. -/
def verifyEntries (e : SampEnv) (g : Graph) (l : NodeList) (node : Nat) : Nat → Nat → Nat → SampM Unit
  | 0, _, _ => pure ()
  | n + 1, i, before => do
    let bs ← sampRead 4 (g.deepEdge + entrySize g * (l.first + i)) (entrySize g)
    let t := if g.timed then ofLe ((bs.drop 8).take 4) else 0
    if g.nodes ≤ ofLe (bs.take 5) then sampFault e.hall e.ring e.word 0x2003 (ofLe (bs.take 5)) 0 i
    else if t < before then sampFault e.hall e.ring e.word 0x2004 node 0 i
    else if node < g.hot then do
      let cs ← sampRead 3 (g.celEdge + entrySize g * (l.first + i)) (entrySize g)
      if cs ≠ bs then sampFault e.hall e.ring e.word 0x2005 node 0 i else verifyEntries e g l node n (i + 1) t
    else verifyEntries e g l node n (i + 1) t

/-- One node. -/
def verifyNode (e : SampEnv) (g : Graph) (node : Nat) : SampM Unit := do
  let bs ← sampRead 4 (g.deepOff + 8 * node) 16
  let o0 := ofLe (bs.take 5)
  let o1 := ofLe ((bs.drop 8).take 5)
  if o1 < o0 then sampFault e.hall e.ring e.word 0x2001 node 0 0
  else if g.edges < o1 then sampFault e.hall e.ring e.word 0x2002 node 0 0
  else do
    let same ← if node < g.hot then do
        let cs ← sampRead 3 (g.celOff + 8 * node) 16
        pure (cs == bs)
      else pure true
    if !same then sampFault e.hall e.ring e.word 0x2005 node 0 0
    else verifyEntries e g { tier := 4, base := g.deepEdge, first := o0, len := o1 - o0 } node (o1 - o0) 0 0

/-- Nodes from `first`, n of them; the state, the status and how many passed. -/
def State.verifyNodes (e : SampEnv) (g : Graph) : Nat → Nat → Nat → State → State × Status × Nat
  | 0, _, passed, s => (s, okStatus, passed)
  | n + 1, node, passed, s =>
    let r := verifyNode e g node { s := s }
    match r.1 with
    | .ok _ => State.verifyNodes e g n (node + 1) (passed + 1) r.2.s
    | .error st => (r.2.s, st, passed)

/-- The arguments: the graph, the first node and the count; a range beyond num_nodes is out of range (assumption 37). -/
def graphVerifyArgs (m : Cmd) : Except Status (Graph × Nat × Nat) := do
  let p := m.ptr 4
  let ws ← m.block 4 p 64
  let g ← graphArg ws p.addr
  let first := m.word 6 + 2 ^ 32 * m.bits 7 7 0
  let n := m.word 8
  need (decide (first < g.nodes)) (oor 6)
  need (n != 0 && decide (first + n ≤ g.nodes)) (oor 8)
  pure (g, first, n)

/-- The Hall whose index an event record of GRAPH_VERIFY carries is not stated: a free value (assumption 2). -/
def runGraphVerify (c : CmdId) (s : State) : State :=
  s.run c 0x21 fun m s =>
    match graphVerifyArgs m with
    | .error st => s.refuse c st
    | .ok (g, first, n) =>
      let w := s.freeWord
      let r := State.verifyNodes { hall := w.2.toNat % 16, ring := c.ring, word := 4 } g n first 0 w.1
      (r.1.progress c (r.2.2 / 65536)).complete c r.2.1

def execGraphVerify (c : CmdId) (s : State) : Host.Outcome State Fault Refusal := fin (runGraphVerify c s)

end Sys2Proof.Machine
end

