-- ==== Sys2Proof/Machine/Complete.lean ====
section
/-! DEFINITION. OPERATION_COMPLETE (R138): an issued operation ends, writes its outputs and advances counters, or fails its
command; sample jobs (R159 to R169); the arrival of operands (R191, R258, R259, R324, R332). -/

namespace Sys2Proof.Machine

open Fp

/-! ### Operands read -/

/-- What an operation reads as it runs: on-die operands, and words of bit maps. Operands in the Cellar were checked as they
arrived (R258), index tensors and the rows of a batch as it was presented and issued. -/
def State.runReads (s : State) (m : Cmd) (o : Op) : List Span :=
  let u := s.uses m o
  let index := s.indexSpans m o
  ((u.reads ++ if o.unit == .array || o.unit == .sparse then u.accs else []).filter fun x =>
    (decide (x.tier < 3) || decide (x.hi ≤ x.lo + 1)) && !index.contains x).dedup

/-- Where a mismatch of an operation lies. -/
def Cmd.site (m : Cmd) (o : Op) : Site :=
  { hall := o.tile / 640, tile := o.tile, array := if o.side < 2 && o.unit == .array then o.side else 0,
    layer := if m.opcode = 0x41 then 0 else (m.rawLayers[o.kind.layer]?.map (·.number)).getD 0, ring := m.id.ring }

/-- An operation's writes are over: it ends, or fails its command. -/
def State.closeOp (m : Cmd) (i : Nat) (o : Op) (w : Written) (differ : Bool := false) : State :=
  let s := w.1.addFlags m.id w.2.2
  match w.2.1 with
  | some x => s.failOp m.id i (uncorrAt x.1 x.2)
  | none => s.endOp m i o differ

/-- A physical fault that strikes an adder of a chain accumulator (R255, R292). -/
def adderFault : Option OpFault → Bool
  | some f => f.unit == 5
  | none => false

/-! ### Arrays, Sparse Engines, Drains -/

/-- Forward operations of a Sparse Engine without the row-sum check (R328). -/
def unsummed (q : Calc) : OpKind → Bool
  | .chunk _ _ _ _ => q.units.any fun u => u.unit == 3 && !u.rs
  | .rechunk _ _ _ _ => q.units.any fun u => u.unit == 3 && !u.rs
  | _ => false

def State.matrixDone (s : State) (m : Cmd) (i : Nat) (o : Op) (f : Option OpFault) : State :=
  let q := s.calc m i o
  let e := m.site o
  let s := if unsummed q o.kind then s.bump (F.hallCnt e.hall 0x524) else s
  let r := s.checked e q f
  match r.2 with
  | .inr unit => r.1.checkFail m.id i e unit
  | .inl a =>
    let s := r.1.addFlags m.id q.flags
    State.closeOp m i o (q.write a.outs a.drain s) (adderFault f)

/-! ### Vector Engines -/

/-- Inverts the perturbed bit of a lane result (R494). -/
def laneFlip (lf b : Nat) : Nat := if lf = 1 then b ^^^ 2 ^ 13 else b ^^^ 2 ^ 29

/-- The rows of lane results of an operation, with one element perturbed. -/
def flipRows (lf : Nat) (rows : List (List Nat × Nat)) (at_ : Option (Nat × Nat)) : List (List Nat × Nat) :=
  match at_ with
  | none => rows
  | some p => rows.modify p.1 fun r => (r.1.modify p.2 (laneFlip lf), r.2)

/-- The compare of the two datapaths, and the retry (R370, R371, R589). -/
def State.veChecked (s : State) (e : Site) (rows cols : Nat) (f : Option OpFault) : State × (Option (Nat × Nat) ⊕ Unit) :=
  let inj := s.armed? e.tile [4]
  let both := s.flag F.chkBoth
  let s := s.disarm inj
  let flip := flipFor inj 4 rows cols
  let on := s.attested || s.flag (F.veDup e.hall)
  let bad := fun (retry : Bool) (fl : Option (Nat × Nat)) => on && ((faultOn f retry 4).isSome || fl.isSome)
  if !bad false flip then (s, .inl flip) else
  let s := s.mismatch e false ⟨4, 0, 0, false⟩
  if !s.flag (F.chkRetry e.hall) then (s, .inr ()) else
  let flip := if both then flip else none
  if !bad true flip then (s.bump (F.hallCnt e.hall 0x618), .inl flip)
  else (s.mismatch e true ⟨4, 0, 0, false⟩, .inr ())

/-- The operation of a chain and the place in it of an output element (row of dimensions 1 to 4, column). -/
def ChainLayer.opOf (L : ChainLayer) (row : List Nat) (col : Nat) : Nat × Nat :=
  let tr := L.out.tr + 1
  let tc := L.out.tc + 1
  let hi := row.getD 1 0 + L.out.dim 2 * (row.getD 2 0 + L.out.dim 3 * row.getD 3 0)
  let cb := if L.c.row.isSome then 0 else col / tc
  let n := (hi * L.rbs + row.getD 0 0 / tr) * L.cbs + cb
  let width := (L.rowsOf n).2.2
  (n, row.getD 0 0 % tr * width + (col - (L.rowsOf n).2.1))

/-- Writes the MXFP4 blocks of an operation all of whose elements have been computed (R58, R586). -/
def State.chainBlocks (s : State) (c : CmdId) (L : ChainLayer) (layer n : Nat) (bwd : Bool) : Written :=
  match s.findCmd c with
  | none => (s, none, {})
  | some m =>
    let shape := L.rowsOf n
    let got := fun (row : List Nat) (col : Nat) =>
      let q := L.opOf row col
      (m.ops.find? fun o => decide (o.kind = .chain layer q.1 bwd)).bind fun o =>
        (o.held.head?).bind fun h => (h.2[q.2]?).map (·.toNat)
    let first := shape.2.1 / 32
    let last := (shape.2.1 + shape.2.2 - 1) / 32
    shape.1.foldl (fun acc row => (List.range (last + 1 - first)).foldl (fun acc b =>
      State.andWrite acc fun s =>
        let vs := (List.range 32).map fun j => got row (32 * (first + b) + j)
        if vs.all (·.isSome) then
          s.writeVals L.out (vs.zipIdx.map fun v =>
            (((List.range L.out.ndim).map fun d => ((32 * (first + b) + v.2) :: row).getD d 0),
              decode L.lf (v.1.getD 0) 0, Mode.nearest))
        else (s, none, {})) acc) (s, none, {})

/-- Writes the results of an operation of a chain. -/
def State.chainWrite (s : State) (m : Cmd) (L : ChainLayer) (i layer n : Nat) (bwd : Bool)
    (rows : List (List Nat × Nat)) : Written :=
  let shape := L.rowsOf n
  if isMx L.out.fmt then
    let s := s.mapOp m.id i fun o => { o with held := [(0, (rows.flatMap fun r => r.1.map (BitVec.ofNat 32 ·)))] }
    s.chainBlocks m.id L layer n bwd
  else
    let es := (shape.1.zip rows).flatMap fun r => r.2.1.zipIdx.map fun v =>
      let c := (shape.2.1 + v.2) :: r.1
      ((List.range L.out.ndim).map (fun d => c.getD d 0), leaveLane L.lf L.out.fmt v.1)
    let w := s.writeElems L.out (es.map fun e => (e.1, e.2.1))
    (w.1, w.2, Flags.all (es.map fun e => e.2.2))

/-- The row flags of a chain that ends in smax (R356). -/
def State.rowFlags (s : State) (L : ChainLayer) (shape : List (List Nat)) (rows : List (List Nat × Nat)) : Written :=
  match L.aux with
  | none => (s, none, {})
  | some a =>
    let r := s.setMapBits a ((shape.zip rows).map fun q => (L.out.rowNo q.1, q.2.2 == 3))
    (r.1, r.2, {})

def State.chainDone (s : State) (m : Cmd) (i : Nat) (o : Op) (layer n : Nat) (bwd : Bool) (f : Option OpFault) : State :=
  match (m.rawLayers[layer]?).bind fun l => m.chainLayer m.rawProgram l bwd with
  | none => s.finishOp m.id i
  | some L =>
    let shape := L.rowsOf n
    let v := s.chainValues m L n o.tile
    let e := m.site o
    let r := s.veChecked e v.1.length ((v.1.headD ([], 0)).1.length) f
    match r.2 with
    | .inr _ => r.1.checkFail m.id i e 4
    | .inl flip =>
      let rows := flipRows L.lf v.1 flip
      let count := fun (k : Nat) => (v.1.filter fun q => q.2 == k).length
      let s := ((r.1.addFlags m.id v.2).bump (F.hallCnt e.hall 0x61C) (count 3)).bump (F.hallCnt e.hall 0x620) (count 2)
      let w := State.andWrite (s.chainWrite m L i layer n bwd rows) fun s => s.rowFlags L shape.1 rows
      let by_ := L.c.rands * upDiv (shape.1.length * shape.2.2) 64
      let w : Written := thenDo w fun s =>
        if by_ = 0 then s else s.advance o.tile (List.range 64) by_ (some (BitVec.ofNat 32 m.mbNo))
      State.closeOp m i o w

/-! ### Gather Engines -/

def State.closeWritten (m : Cmd) (i : Nat) (w : Written) : State :=
  let s := w.1.addFlags m.id w.2.2
  match w.2.1 with
  | some x => s.failOp m.id i (uncorrAt x.1 x.2)
  | none => s.finishOp m.id i

/-- A batch ends (R200): the next one waits to issue, or the operation ends. The requests for a Cellar destination have all
been applied (R201). -/
def State.batchDone (s : State) (m : Cmd) (i : Nat) (o : Op) (b : Batch) : State :=
  if s.erm.adds.any fun a => decide (a.cmd = m.id) && a.op == i then s else
  let rows := b.rows o
  let w : Written :=
    if b.c.dest.tier = 3 then (s, none, {})
    else
      let r := s.readBatch b rows
      match r.2 with
      | some x => (r.1, some x, {})
      | none => let a := b.adds rows; State.andWrite (State.andWrite (r.1, none, a.2) fun s => s.zeroFirst b o) fun s => s.addRows b.c a.1
  let s := w.1.addFlags m.id w.2.2
  match w.2.1 with
  | some x => s.failOp m.id i (uncorrAt x.1 x.2)
  | none =>
    let pos := o.pos + o.batch
    if b.own.length ≤ pos then s.finishOp m.id i
    else (s.mapOp m.id i fun o => { o with stage := .waiting, pos := pos, batch := 0, room := (0, 0), tiles := [] }).settle m.id

def State.gatherDone (s : State) (m : Cmd) (i : Nat) (o : Op) : State :=
  match s.batchOf m o with
  | some b => s.batchDone m i o b
  | none =>
    let p := m.rawProgram
    match o.kind, p.layers[o.kind.layer]? with
    | .gather _ bwd, some l => match m.gatherLayer p l with
      | none => s.finishOp m.id i
      | some G =>
        if bwd then State.closeWritten m i (if G.g.src = 1 then s.gradRows G else (s, none, {}))
        else State.closeWritten m i (s.gatherForward G o)
    | .scatter _ true, some l => match m.tableTensor p l.path, m.tableTensor p l.dx, m.tableTensor p l.dy with
      | some path, some dx, some dy =>
        let dests := s.scatterDests l path dx.rows
        if dests.any fun d => decide (dy.rows ≤ d) then s.failOp m.id i (oor 4)
        else State.closeWritten m i (s.scatterBack dx dy dests)
      | _, _, _ => s.finishOp m.id i
    | _, _ => s.finishOp m.id i

/-! ### OPERATION_COMPLETE -/

def operationComplete (c : CmdId) (i : Nat) (f : Option OpFault) (s : State) : State :=
  match s.op c i with
  | none => s
  | some (m, o) =>
    if o.stage ≠ .issued ∨ o.unit = .sampler then s else
    let r := s.touchSpans (s.runReads m o)
    match r.2 with
    | some x => r.1.failOp c i (uncorrAt x.1 x.2)
    | none =>
      match o.kind with
      | .chain l n bwd => r.1.chainDone m i o l n bwd f
      | .gather _ _ => r.1.gatherDone m i o
      | .scatter _ _ => r.1.gatherDone m i o
      | .contribution l => match m.rawLayers[l]? with
        | some q =>
          let w := r.1.contribute m m.rawProgram q (m.word 7)
          if w.1.heldBack m then r.1.failOp c i ⟨St.quenched, 0, 0⟩ else State.closeWritten m i w
        | none => r.1.finishOp c i
      | .sample _ => s
      | _ => r.1.matrixDone m i o f

def execOperationComplete (c : CmdId) (op : Nat) (fault : Option OpFault) (s : State) : Host.Outcome State Fault Refusal :=
  fin (s.onSpent c (operationComplete c op fault)).runCaptures

/-! ### Sample jobs (R159, R167, R169) -/

/-- The arguments of a sample operation. -/
def State.jobArgs (s : State) (m : Cmd) (o : Op) : Except Status SampleArgs :=
  if m.opcode = 0x20 then s.sampleArgs m else
  match m.rawLayers[o.kind.layer]? with
  | some l => s.sampleLayerArgs m m.rawProgram l (m.words.getD 7 0)
  | none => .error okStatus

/-- SAMPLE checks its job and hands it to the Hall of gen_tile. -/
def runSample (c : CmdId) (s : State) : State :=
  match s.runnable c 0x20 with
  | none => s
  | some m =>
    match s.sampleArgs m with
    | .error st => s.refuseCmd c st
    | .ok a => s.mapCmd c fun m => { m with
        phase := .running
        ops := [{ kind := .sample 0, hall := a.job.gen / 640, tile := a.job.gen, unit := .sampler, draws := true,
                  onDie := decide (a.path.tier < 3) }] }

def execSample (c : CmdId) (s : State) : Host.Outcome State Fault Refusal := fin (runSample c s)

/-- The lowest sampler of a Hall that runs no job (R159; which one takes a job is not told: DESIGN CHOICE, assumption 23). -/
def State.freeSampler (s : State) (hall : Nat) : Nat :=
  let used := (s.running.filter fun e => e.2.unit == .sampler && e.2.hall == hall).map fun e => e.2.sampler
  ((List.range 8).find? fun k => !used.contains k).getD 0

/-- A free sampler of the Hall takes a waiting job. -/
def samplerJobStart (c : CmdId) (i : Nat) (s : State) : State :=
  match s.op c i with
  | none => s
  | some (m, o) =>
    if !s.presentable m o ∨ o.unit ≠ .sampler ∨ (s.stallCause m i o true).isSome = true ∨ s.engineBusy o = true then s
    else
      let k := s.freeSampler o.hall
      (s.issue m i o).mapOp c i fun o => { o with sampler := k }

def execSamplerJobStart (c : CmdId) (op : Nat) (s : State) : Host.Outcome State Fault Refusal :=
  fin (samplerJobStart c op s)

/-- A job ends. -/
def samplerJobEnd (c : CmdId) (i : Nat) (s : State) : State :=
  match s.op c i with
  | none => s
  | some (m, o) =>
    if o.stage ≠ .issued ∨ o.unit ≠ .sampler then s else
    match s.jobArgs m o with
    | .error st => s.failOp c i st
    | .ok a =>
      let r := s.sampleJob { hall := o.hall, ring := c.ring, word := 4 } a
      let s := r.1.addFlags c r.2.flags
      match r.2.result with
      | .error st => (if m.opcode = 0x20 ∧ o.onDie = false then s.progress c r.2.hops else s).failOp c i st
      | .ok (cut, count) =>
        let s := if cut then s.mapOp c i fun o => { o with held := [(count, [])] } else s
        s.finishOp c i

def execSamplerJobEnd (c : CmdId) (op : Nat) (s : State) : Host.Outcome State Fault Refusal := fin (s.onSpent c (samplerJobEnd c op)).runCaptures

/-! ### Operands arrive -/

/-- The tensor an operand tile belongs to, as WEIGHT_TILE_FETCH and TILE_MOVE_DONE name it. -/
def Cmd.operandTensor (m : Cmd) (tensor : Nat) : Option Tensor :=
  if m.opcode = 0x41 then (if tensor < 3 then some (m.matmulOf.operand tensor) else none)
  else m.tableTensor m.rawProgram tensor

/-- An operand belongs to a vector chain. -/
def isChain : OpKind → Bool
  | .chain _ _ _ => true
  | _ => false

/-- The spans of an operand tile: a tile of a matrix or of a row, a weight tile, or a chain operation's elements. -/
def State.operandSpans (s : State) (t : Tensor) (row col : Nat) : List Span :=
  if t.ndim = 1 then s.cellSpans t ((blockLines (t.size 0) col).map fun j => [j])
  else s.blockSpans t (blockLines (t.size 1) row) (blockLines (t.size 0) col)

/-- The operations of a layer on a Hall that wait for a tile, in walk order: those of the first walk that does, since a tile is
fetched once a walk (R258). -/
def State.waiters (s : State) (m : Cmd) (hall layer : Nat) (r : TileRef) : List (Nat × Op) :=
  let all := (m.ops.zipIdx.filter fun q =>
    q.1.kind.layer == layer && q.1.hall == hall && q.1.stage == .waiting && (s.waitsFor m q.1).contains r).map fun q => (q.2, q.1)
  match all with
  | [] => []
  | (i, o) :: rest => (i, o) :: rest.filter fun q => m.opcode == 0x41 || q.2.part == o.part

/-- An operand tile reaches every operation of a layer's walk on a Hall that needs it (R258, R259), a MATMUL being one walk: each
holds it until it ends (R138). -/
def State.arrived (s : State) (c : CmdId) (hall layer part : Nat) (r : TileRef) : State :=
  s.mapCmd c fun m => { m with ops := m.ops.map fun o =>
    if o.kind.layer = layer ∧ o.hall = hall ∧ (m.opcode = 0x41 ∨ o.part = part) ∧ o.stage = .waiting ∧ o.needs.contains r = true then
      { o with needs := o.needs.filter (· != r), tiles := o.tiles ++ [r] }
    else o }

/-- An operand that comes from the Cellar, or whose scale bytes do (R258, R290). -/
def Tensor.fromFar (t : Tensor) : Bool := decide (3 ≤ t.tier) || (isMx t.fmt && decide (3 ≤ t.metaTier))

/-- An on-die operand moves within one Hall (R259): it lies in the Hall that it is brought to. -/
def nearHall (t : Tensor) (hall : Nat) (l : List Span) : Bool :=
  decide (3 ≤ t.tier) || l.all fun x => decide (3 ≤ x.tier) || hallOf x.tier (x.lo / 8) == hall

/-- What an arriving operand holds: the elements of its tile, or of the chain operation that needs it. -/
def State.needSpans (s : State) (m : Cmd) (t : Tensor) (o : Op) (row col : Nat) : List Span :=
  match o.kind with
  | .chain l n bwd => match (m.rawLayers[l]?).bind fun q => m.chainLayer m.rawProgram q bwd with
    | some L =>
      let shape := L.rowsOf n
      let idx := shape.1.flatMap fun r => (List.range shape.2.2).map fun j => (shape.2.1 + j) :: r
      s.cellSpans t ((idx.map (srcCoord t)).dedup)
    | none => []
  | _ => s.operandSpans t row col

/-- A weight tile of a sparse tensor arrives: the checks of R324; a tile that fails ends the command (R325). -/
def State.sparseArrives (s : State) (m : Cmd) (layer : Nat) (t : Tensor) (r : TileRef) (i : Nat) (o : Op) : State :=
  let k := r.2.1 * t.nb + r.2.2
  let number := (m.rawLayers[layer]?.map (·.number)).getD 0
  let q := s.spTouch t k o.hall
  match q.2 with
  | some a => q.1.failOp m.id i (uncorrAt 3 a)
  | none =>
    match q.1.spCheck t k (q.1.attested || q.1.flag (F.crcCheck o.hall)) with
    | some code => let z := q.1.metaFail t k code o.tile number m.id.ring; z.1.failOp m.id i z.2
    | none => q.1.arrived m.id o.hall layer o.part r

/-- The slot and directory entry of weight tile i of a sparse tensor. -/
def sparseSpans (t : Tensor) (i : Nat) : List Span :=
  [⟨3, 8 * slotOf t i, 8 * (slotOf t i + 2304)⟩, ⟨3, 8 * spDirAt t i, 8 * (spDirAt t i + 8)⟩]

/-- An operand tile reaches a Hall's galleries, once its writers have completed (R137, R258). -/
def State.operandArrives (s : State) (c : CmdId) (hall layer : Nat) (r : TileRef) (far : Bool) : State :=
  match s.findCmd c with
  | none => s
  | some m =>
    match s.waiters m hall layer r, m.operandTensor r.1 with
    | (i, o) :: _, some t =>
      if m.phase = .accepted ∨ m.failure.isSome = true ∨ (t.fromFar != far) = true ∨
        isMaskRef m layer r = true then s
      else if t.sparse then
        if writerBusy (s.pendingUses m i o) (sparseSpans t (r.2.1 * t.nb + r.2.2)) then s
        else s.sparseArrives m layer t r i o
      else
        let spans := s.needSpans m t o r.2.1 r.2.2
        if writerBusy (s.pendingUses m i o) spans || spansMeet spans s.copySpans || !nearHall t hall spans then s else
        let q := s.touchSpans spans
        match q.2 with
        | some x => q.1.failOp c i (uncorrAt x.1 x.2)
        | none => q.1.arrived c hall layer o.part r
    | _, _ => s

def weightTileFetch (c : CmdId) (hall layer tensor row col : Nat) (s : State) : State :=
  s.operandArrives c hall layer (tensor, row, col) true

def execWeightTileFetch (c : CmdId) (hall layer tensor : Nat) (tile : Nat × Nat) (s : State) :
    Host.Outcome State Fault Refusal := fin (weightTileFetch c hall layer tensor tile.1 tile.2 s)

def tileMoveDone (c : CmdId) (hall layer tensor row col : Nat) (s : State) : State :=
  s.operandArrives c hall layer (tensor, row, col) false

def execTileMoveDone (c : CmdId) (hall layer tensor : Nat) (tile : Nat × Nat) (s : State) :
    Host.Outcome State Fault Refusal := fin (tileMoveDone c hall layer tensor tile.1 tile.2 s)

/-- The Predictor Unit forms the mask of a row block (R332): x and pa are read, the bits written, once the earlier operations
on them have completed. -/
def predictorRowBlock (c : CmdId) (layer mb : Nat) (s : State) : State :=
  match s.findCmd c with
  | none => s
  | some m =>
    let p := m.rawProgram
    match p.layers[layer]? with
    | none => s
    | some l =>
      let L := m.matLayer p layer l
      let r : TileRef := (L.sp.mask, mb, 0)
      if l.op ≠ 1 ∨ L.sp.pred = false then s else
      match s.waiters m (s.blockHall L mb) layer r, L.x, L.pa, L.mask with
      | (i, o) :: _, some x, some pa, some mask =>
        if m.phase = .accepted ∨ m.failure.isSome = true then s else
        let spans := s.blockSpans x (blockLines L.m mb) (List.range L.k) ++ s.wholeSpans pa
        let bits := (List.range L.nbs).map fun nb => s.mapSpan mask (mb * L.nbs + nb)
        let us := s.pendingUses m i o
        if writerBusy us spans || regionBusy us { writes := bits } || spansMeet spans s.copySpans then s else
        let q := s.touchSpans spans
        match q.2 with
        | some z => q.1.failOp c i (uncorrAt z.1 z.2)
        | none =>
          let w := q.1.setMapBits mask ((q.1.activeBlocks L x pa mb).zipIdx.map fun b => (mb * L.nbs + b.2, b.1))
          match w.2 with
          | some z => w.1.failOp c i (uncorrAt z.1 z.2)
          | none => w.1.arrived c o.hall layer o.part r
      | _, _, _, _ => s

def execPredictorRowBlock (c : CmdId) (layer mb : Nat) (s : State) : Host.Outcome State Fault Refusal :=
  fin (predictorRowBlock c layer mb s)

/-- A row of a tensor off die reaches the Store Room of an operation that reads it, once its writers have completed. -/
def State.fetchSource (s : State) (m : Cmd) (i : Nat) (o : Op) (t : Tensor) (row : Nat) : State :=
  if t.tier < 3 ∨ t.rows ≤ row then s else
  let cells := (List.range t.rowLen).map fun e => [e, row]
  if writerBusy (s.pendingUses m i o) (s.cellSpans t cells) then s else
  let r := s.touchElems t cells
  match r.2 with
  | some x => r.1.failOp m.id i (uncorrAt x.1 x.2)
  | none => r.1.mapOp m.id i (addGot { entry := row, row := row, fmt := t.fmt, bytes := [] })

/-- A row of its table reaches the Store Room of an operation that has taken its stamp. -/
def State.fetchEntry (s : State) (m : Cmd) (i entry : Nat) (o : Op) (G : GatherCtx) : State :=
  match o.stamp with
  | some st => if o.asked (entryRow ((s.entries G).getD entry 0)) then s else s.fetchRow m i entry G st
  | none => s

/-- A row that a Gather Engine fetches reaches the Store Room (R191): a row of its table, or of the tensor it reads. -/
def gatherRowFetchDone (c : CmdId) (op entry : Nat) (s : State) : State :=
  match s.op c op with
  | none => s
  | some (m, o) =>
    if o.stage ≠ .waiting ∨ m.phase = .accepted ∨ m.failure.isSome = true then s else
    match (m.gatherOf o).filter (·.readsTable o.kind.backward), s.sourceRows m o with
    | some G, _ => s.fetchEntry m op entry o G
    | none, some (t, rows) => if rows.contains entry && !o.has entry then s.fetchSource m op o t entry else s
    | none, none => s

def execGatherRowFetchDone (c : CmdId) (op entry : Nat) (s : State) : Host.Outcome State Fault Refusal :=
  fin (gatherRowFetchDone c op entry s)

end Sys2Proof.Machine
end

