-- ==== Sys2Proof/Machine/Halls.lean ====
section
/-! DEFINITION. Performance points (R27 to R32), rate monitors (R34 to R37), and the clears of the Hall's registers
(R575). -/

namespace Sys2Proof.Machine

/-- The supply of a point in mV (R27). -/
def pointVolts (p : Nat) : Nat := [650, 720, 800, 880].getD p 720

def State.mapHall (s : State) (h : Nat) (f : HallX → HallX) : State := { s with halls := s.halls.modify h f }

/-- The point a Hall's supply moves to: PP0 under the thermal hold (R32). -/
def State.pointGoal (s : State) (h : Nat) : Nat := if s.flag (F.thermalHold h) then 0 else s.fld (F.ppTarget h)

/-- The supply begins to move when it is not at its goal (R29, R31); a supply that moves keeps moving. -/
def State.steerSupply (s : State) (h : Nat) : State :=
  if s.flag (F.slewing h) then s
  else if (s.halls.getD h {}).supply = pointVolts (s.pointGoal h) then s
  else s.setFld (F.slewing h) 1

def ppCtl (h : Nat) (v : W) (s : State) : State := (s.setFld (F.ppTarget h) (bits v 1 0)).steerSupply h

def runPpCtlWrite (h : Nat) (v : W) (s : State) : State := s.regWrite (Reg.hall h 0x10) v (ppCtl h v)

def execPpCtlWrite (_path : Path) (h : Nat) (value : W) (s : State) : Host.Outcome State Fault Refusal :=
  fin (runPpCtlWrite h value s)

/-- The supply settles at its goal. -/
def supplySettled (h : Nat) (s : State) : State :=
  if s.flag (F.slewing h) then
    let g := s.pointGoal h
    ((s.mapHall h fun x => { x with supply := pointVolts g }).setFld (F.ppCurrent h) g).setFld (F.slewing h) 0
  else s

def execSupplySlewDone (h : Nat) (s : State) : Host.Outcome State Fault Refusal := fin (supplySettled h s)

def thermalHoldOn (h : Nat) (s : State) : State := (s.setFld (F.thermalHold h) 1).steerSupply h

def execThermalHoldEntry (h : Nat) (s : State) : Host.Outcome State Fault Refusal := fin (thermalHoldOn h s)

def thermalHoldOff (h : Nat) (s : State) : State :=
  if s.flag (F.thermalHold h) then (s.setFld (F.thermalHold h) 0).steerSupply h else s

def execThermalHoldExit (h : Nat) (s : State) : Host.Outcome State Fault Refusal := fin (thermalHoldOff h s)

/-- A window ends: each enabled gallery's rate and its lowest (R34). -/
def rateWindow (h : Nat) (rates : List Nat) (s : State) : State :=
  (List.range s.galleries).foldl (fun s g =>
    let r := rates.getD g 0
    (s.setFld (F.curRate h g) r).setFld (F.minRate h g) (min r (s.fld (F.minRate h g)))) s

def execRateMonitorWindow (h : Nat) (rates : List Nat) (s : State) : Host.Outcome State Fault Refusal :=
  fin (rateWindow h rates s)

/-- HALL.RATE_MIN (R35): the lowest min_rate and cur_rate over the enabled galleries. -/
def State.hallMinRate (s : State) (h : Nat) : Nat :=
  ((List.range s.galleries).map fun g => s.fld (F.minRate h g)).foldl min 0xFFFF

def State.hallCurRate (s : State) (h : Nat) : Nat :=
  ((List.range s.galleries).map fun g => s.fld (F.curRate h g)).foldl min 0xFFFF

/-- clr_min (R36). -/
def clrMin (h : Nat) (v : W) (s : State) : State :=
  if bits v 0 0 = 1 then (List.range 20).foldl (fun s g => s.setFld (F.minRate h g) 0xFFFF) s else s

def runRateCtlClrMin (h : Nat) (v : W) (s : State) : State := s.regWrite (Reg.hall h 0x20) v (clrMin h v)

def execRateCtlClrMin (_path : Path) (h : Nat) (value : W) (s : State) : Host.Outcome State Fault Refusal :=
  fin (runRateCtlClrMin h value s)

/-- clr_temp (R575). -/
def clrTemp (h : Nat) (v : W) (s : State) : State :=
  if bits v 1 1 = 1 then s.setFld (F.tempMax h) (s.fld (F.tempCur h)) else s

/-- clr_ecc (R575). -/
def clrEcc (h : Nat) (v : W) (s : State) : State :=
  if bits v 0 0 = 1 then s.clear [Reg.hall h 4, Reg.hall h 8] else s

def runHallCtlClrTemp (h : Nat) (v : W) (s : State) : State := s.regWrite (Reg.hall h 0xC) v fun s => clrTemp h v (clrEcc h v s)

def execHallCtlClrTemp (_path : Path) (h : Nat) (value : W) (s : State) : Host.Outcome State Fault Refusal :=
  fin (runHallCtlClrTemp h value s)

def runHallCtlClrEcc (h : Nat) (v : W) (s : State) : State := s.regWrite (Reg.hall h 0xC) v fun s => clrEcc h v (clrTemp h v s)

def execHallCtlClrEcc (_path : Path) (h : Nat) (value : W) (s : State) : Host.Outcome State Fault Refusal :=
  fin (runHallCtlClrEcc h value s)

end Sys2Proof.Machine
end

