-- ==== Sys2Proof/Machine/Programs.lean ====
section
/-! DEFINITION. The commands that run layer programs and matrix products: their checks, claims and copies (R133, R134, R187,
R264, R271, R294, R296, R367), and the operations they lay out. -/

namespace Sys2Proof.Machine

open Fp

/-! ### Checks -/

/-- Checks one layer by the rules of its op class; `w` is the operand word of the program pointer. -/
def State.layerCheck (s : State) (m : Cmd) (w : Nat) (p : Program) (pos : Nat) (l : Layer) : Except Status Unit :=
  match l.op with
  | 0 => s.matCheck m w p pos l
  | 1 => s.matCheck m w p pos l
  | 2 => s.gatherCheck m w p l
  | 3 => s.scatterCheck m w p l
  | 4 => s.chainCheck m w p l
  | 5 => (s.sampleLayerArgs m p l (m.words.getD 7 0)).map fun _ => ()
  | _ => s.contribCheck m w p l

/-- Checks the layers in descriptor order; a command of one group takes only its own op classes. -/
def State.layersCheck (s : State) (m : Cmd) (p : Program) (allowed : Nat → Bool) : List (Layer × Nat) → Except Status Unit
  | [] => .ok ()
  | (l, pos) :: ls => do
    need (allowed l.op) (badDesc l.at_)
    s.layerCheck m 4 p pos l
    s.layersCheck m p allowed ls

/-- The checks of a program at word 4. -/
def State.programCheck (s : State) (m : Cmd) (allowed : Nat → Bool) : Except Status Program := do
  let p ← s.program m 4
  s.layersCheck m p allowed p.layers.zipIdx
  pure p

/-- What a command that runs a program takes at acceptance: its claims on lookup-table banks (R143, R271) and its user
tables. -/
def State.programTakes (s : State) (m : Cmd) (p : Program) : State × Except Status (List CapBlock) :=
  match s.claimStatus m with
  | some st => (s, .error st)
  | none => s.loadTables m p

/-- HS.ATTIC_FALLBACK counts the layers that each Hall recomputes for want of Attic space (R134). -/
def State.countFallbacks (s : State) (m : Cmd) (p : Program) : State :=
  (List.range 16).foldl (fun s h => s.bump (F.hallCnt h 0x224) (s.fallbacks m p h)) s

/-- Keeps a command's user tables and lays out its operations, in the given phase; leading layers that it skips count as done
(R367). -/
def State.layOut (s : State) (c : CmdId) (phase : Phase) (p : Program) (tables : List CapBlock) : State :=
  let s := s.mapCmd c fun m => { m with cap := m.cap ++ tables, phase := phase }
  match s.findCmd c with
  | none => s
  | some m =>
    let ops := s.programOps m p
    ((s.countFallbacks m p).mapCmd c fun m => { m with ops := ops }).progress c (leadingUnits ops m.total 0)

/-- A command's program after its checks. -/
def State.runProgram (s : State) (c : CmdId) (m : Cmd) (p : Program) : State :=
  let r := s.programTakes m p
  match r.2 with
  | .error st => r.1.refuseCmd c st
  | .ok tables => (r.1.layOut c .running p tables).settle c

/-! ### PROGRAM_RUN, CHAIN_RUN, GATHER_RUN -/

/-- PROGRAM_RUN: the conditions of its pointer, word 4, come before its walk, word 6 (R109, R584). -/
def runProgramRun (c : CmdId) (s : State) : State :=
  match s.runnable c 0x40 with
  | none => s
  | some m =>
    match (do
      let p ← s.programCheck m fun _ => true
      need (m.bits 6 1 0 != 3) (oor 6)
      pure p : Except Status Program) with
    | .error st => s.refuseCmd c st
    | .ok p => s.runProgram c m p

def execProgramRun (c : CmdId) (s : State) : Host.Outcome State Fault Refusal := fin (runProgramRun c s)

def runChainRun (c : CmdId) (s : State) : State :=
  match s.runnable c 0x50 with
  | none => s
  | some m =>
    match s.programCheck m fun op => op == 4 with
    | .error st => s.refuseCmd c st
    | .ok p => s.runProgram c m p

def execChainRun (c : CmdId) (s : State) : Host.Outcome State Fault Refusal := fin (runChainRun c s)

def runGatherRun (c : CmdId) (s : State) : State :=
  match s.runnable c 0x32 with
  | none => s
  | some m =>
    match s.programCheck m fun op => op == 2 || op == 3 with
    | .error st => s.refuseCmd c st
    | .ok p => s.runProgram c m p

def execGatherRun (c : CmdId) (s : State) : Host.Outcome State Fault Refusal := fin (runGatherRun c s)

/-! ### MATMUL (R296) -/

/-- The shapes of A, B and C agree: as R264 checks a layer's. -/
def mmShapes (q : MM) : Except Status Unit := do
  let full := fun (t : Tensor) => t.ndim == 2 && t.tr == 31 && t.tc == 31
  needShape [(some q.a, full), (some q.b, fun t => full t && t.size (if q.tb then 0 else 1) == q.k),
    (some q.c, isMatrix q.n q.m)]

def State.matmulCheck (s : State) (m : Cmd) : Except Status MM := do
  let a ← s.tensorArg m 4
  let b ← s.tensorArg m 6
  let c ← s.tensorArg m 8
  let q := { m.matmulOf with a := a, b := b, c := c }
  need (arrayFmt a.fmt) (badFormat 4 a.fmt)
  need (formPair a.fmt b.fmt) (badFormat 6 b.fmt)
  need (c.fmt != 7) (badFormat 8 c.fmt)
  need (!q.acc || (c.fmt == 0 && q.func == 0)) (badFormat 8 c.fmt)
  need (decide (q.func < 8)) (oor 10)
  need (q.func != 2 || isFinite (of32 q.alpha)) (oor 11)
  need (q.halls != 0) (oor 12)
  need (decide (a.tier < 4)) (oor 4)
  need (decide (b.tier < 4)) (oor 6)
  need (decide (c.tier < 4)) (oor 8)
  mmShapes q
  pure q

def runMatmul (c : CmdId) (s : State) : State :=
  match s.runnable c 0x41 with
  | none => s
  | some m =>
    match s.matmulCheck m with
    | .error st => s.refuseCmd c st
    | .ok q =>
      let ops := (s.matmulOps q).map fun o => { o with needs := s.matmulNeeds q o }
      (s.mapCmd c fun m => { m with phase := .running, ops := ops }).settle c

def execMatmul (c : CmdId) (s : State) : Host.Outcome State Fault Refusal := fin (runMatmul c s)

end Sys2Proof.Machine
end

