-- ==== Sys2Proof/Machine/Time.lean ====
section
/-! DEFINITION. System time (R71 to R91): the states of the time base, references and offsets, time transfer, TIME_LOAD,
the two copies, the registers of the time base, and the passing of time. -/

namespace Sys2Proof.Machine

/-! ### Stepping and offsets (R71, R79, R80) -/

/-- Both copies take a value in one step. -/
def State.setStime (s : State) (v : Nat) : State := { s with tb := { s.tb with stime := v, bStime := v, hold := none, pull := 0, bPull := 0, pullNs := 0 } }

/-- Forward in ACQUIRING once an epoch is held, either way before; a lead of at most 1 s is held, a larger one is FAULT
(R71, R80). The Bool says that STIME is at the reference. -/
def State.stepTo (s : State) (ref : Nat) : State × Bool :=
  let now := s.tb.stime
  if now ≤ ref ∨ s.tb.epoch = false then (s.setStime ref, true)
  else if now - ref ≤ 1000000000 then ({ s with tb := { s.tb with hold := some (now - ref) } }, false)
  else (s.setTb TbSt.fault, false)

/-- A quotient rounded to the nearest whole number, ties to even (R66). -/
def evenDiv (a n : Int) : Int :=
  let q := a.fdiv n
  let r := 2 * a.fmod n
  if n < r ∨ (r = n ∧ q.fmod 2 = 1) then q + 1 else q

/-- The mean of the latest offsets in ns (R79, assumption 35). -/
def meanOf (l : List Int) : Int := evenDiv (l.foldl (· + ·) 0) (max 1 l.length)

/-- TB.STATUS.last_offset (R89). -/
def State.showOffset (s : State) (m : Int) : State :=
  s.setFld F.tbLastOffset ((max (-127) (min 127 m) + 256).toNat % 256)

/-- The correction by rate that the latest offsets ask of each copy (R72, R79): each is brought to the reference. -/
def State.steer (s : State) (mean : Int) : State :=
  { s with tb := { s.tb with slew := mean, bSlew := mean - ((s.tb.bStime : Int) - s.tb.stime) } }

/-- An offset met in ACQUIRING (R71, R80): within ±1 ns it counts towards LOCKED; else STIME takes the reference's value, or is
held until the reference reaches it. DEDUCED (assumption 75): in roles 0 to 2 the 64 words of LOCKED are counted once the hold
has ended; role 3 alone is LOCKED at its end. -/
def State.acquire (s : State) (off : Int) : State :=
  let ref := ((s.tb.stime : Int) + off).toNat
  if s.tb.hold = none ∧ off.natAbs ≤ 1 then
    let s := { s with tb := { s.tb with good := s.tb.good + 1 } }
    if 64 ≤ s.tb.good then s.setTb TbSt.locked else s
  else { (s.stepTo ref).1 with tb := { (s.stepTo ref).1.tb with good := 0 } }

/-- One offset of the reference, ref minus STIME in ns, at a word, PTP interval or edge: the steps of R80 and the
correction by rate of R79. -/
def State.refOffset (s : State) (off : Int) : State :=
  let offs := (off :: s.tb.offs).take 16
  let s := { s with tb := { s.tb with offs := offs } }
  let s := s.showOffset (meanOf offs)
  let st := s.fld F.tbState
  let s :=
    if st = TbSt.free ∨ st = TbSt.unsync then (s.setTb TbSt.acquiring).acquire off
    else if st = TbSt.acquiring then s.acquire off
    else if st = TbSt.locked then
      let bad := if 3 < off.natAbs then s.tb.bad + 1 else 0
      let s := ({ s with tb := { s.tb with bad := bad } }).steer (meanOf offs)
      if 16 ≤ bad then s.setTb TbSt.acquiring else s
    else if st = TbSt.holdover then
      let s := s.steer (meanOf offs)
      if off.natAbs ≤ 3 then s.setTb TbSt.locked else s
    else s
  s.publishHops

/-! ### Time transfer (R76 to R78) -/

/-- Sends a time-transfer word (R76). -/
def timeTick (p : Nat) (s : State) : State :=
  if !s.timeLink p then s else
  let t := s.timePort p
  let now := s.tb.stime
  let w := [BitVec.ofNat 32 (0x5A000000 + s.ownHops * 2 ^ 20 + t.txSeq), BitVec.ofNat 32 now, BitVec.ofNat 32 (now / 2 ^ 32),
    BitVec.ofNat 32 (t.rxSeq * 2 ^ 16), BitVec.ofNat 32 (now - t.rxAt)]
  (s.mapTimePort p fun t => { t with
    txSeq := (t.txSeq + 1) % 2 ^ 16, sent := (t.txSeq, now) :: t.sent.filter fun e => e.1 != t.txSeq }).emit
    (.timeWord p w)

def execTimeTransferTick (port : Nat) (s : State) : Host.Outcome State Fault Refusal := fin (timeTick port s)

/-- offset of R78 in ns, rounded to the nearest (R66, assumption 35): a is in 1/16 ns. -/
def State.wordOffset (s : State) (p : Nat) (words : List W) (t1 : Nat) : Int :=
  let t4 : Int := s.tb.stime
  let ttx : Int := wordAt words 1 + 2 ^ 32 * wordAt words 2
  let rtt : Int := (t4 - t1) - wordAt words 4
  evenDiv (16 * (ttx - t4) + 8 * rtt + Fp.signed 16 (s.fld (F.portAsym p))) 16

/-- A time-transfer word arrives (R77, R78). DEDUCED (assumption 75): role 0's reference is present at a word of its upstream
that gives an offset, so one that echoes a word sent. -/
def timeWord (p : Nat) (words : List W) (s : State) : State :=
  if wbits words 0 31 24 ≠ 0x5A ∨ words.length ≠ 5 ∨ s.timeLink p = false then s else
  let s := s.mapTimePort p fun t => { t with hops := wbits words 0 23 20, rxSeq := wbits words 0 15 0, rxAt := s.tb.stime }
  let had := s.fld F.tbUpstream
  let s := s.chooseUpstream
  if s.fld F.tbRole ≠ 0 then s
  else if s.fld F.tbUpstream = 0xFF then if had = 0xFF then s else s.loseReference
  else if s.fld F.tbUpstream ≠ p then s.publishHops
  else match (s.timePort p).sent.find? fun e => e.1 == wbits words 3 31 16 with
    | some e => s.refOffset (s.wordOffset p words e.2)
    | none => s.publishHops

def execTimeTransferWord (port : Nat) (words : List W) (s : State) : Host.Outcome State Fault Refusal :=
  fin (timeWord port words s)

/-! ### The other references (R73, R74) -/

/-- TIME_LOAD (R103): refused outside roles 1 and 3, in LOCKED, HOLDOVER and FAULT, with a timer armed, and for a value
more than 1 s behind a held epoch. Role 3 takes the value at once; role 1 at the next edge. -/
def timeLoadAt (m : Cmd) (s : State) : State × Status :=
  let role := s.fld F.tbRole
  let st := s.fld F.tbState
  let v := m.word 4 + 2 ^ 32 * m.word 5
  let refused : Status := ⟨St.timeRole, role, st⟩
  if role ≠ 1 ∧ role ≠ 3 then (s, refused)
  else if st = TbSt.locked ∨ st = TbSt.holdover ∨ st = TbSt.fault ∨ s.timers ≠ 0 then (s, refused)
  else if s.tb.epoch = true ∧ v + 1000000000 < s.tb.stime then (s, refused)
  else
    let s := s.setTb TbSt.acquiring
    let s := { s with tb := { s.tb with given := true } }
    if role = 1 then ({ s with tb := { s.tb with loaded := some v } }, okStatus)
    else
      let r := s.stepTo v
      ((if r.2 then r.1.setTb TbSt.locked else r.1).publishHops, okStatus)

def runTimeLoad (c : CmdId) (s : State) : State := s.runTo c 0x03 timeLoadAt

def execTimeLoad (c : CmdId) (s : State) : Host.Outcome State Fault Refusal := fin (runTimeLoad c s)

/-- A second boundary of role 1 (R73): in ACQUIRING a loaded value takes effect; later edges mark the nearest whole second.
Without an epoch the boundary says nothing of STIME before a value is loaded: the reference is present (R80) and no more.
DESIGN CHOICE (assumption 75): the edges of role 1 are counted in R80 as words are. -/
def State.ppsBoundary (s : State) : State :=
  match s.tb.loaded with
  | some v =>
    if s.fld F.tbState ≠ TbSt.acquiring then s else
    ((({ s with tb := { s.tb with loaded := none } }).stepTo v).1).publishHops
  | none =>
    if s.tb.epoch = false ∧ s.tb.given = false then
      if s.fld F.tbState = TbSt.free then s.setTb TbSt.acquiring else s
    else
      let near := (s.tb.stime + 500000000) / 1000000000 * 1000000000
      s.refOffset ((near : Int) - s.tb.stime)

/-- The epoch base in use (R91). -/
def State.ptpBase (s : State) : Nat :=
  if s.fld F.tbState = TbSt.free ∨ s.fld F.tbState = TbSt.unsync then s.reg64 0x10010 0x10014 else s.tb.epochBase

/-- The master's sending time of the Sync in progress is known: the device sends its Delay_Req over the same transport (R74). -/
def State.delayReq (s : State) (udp : Bool) (origin : Nat) : State :=
  let x := s.tb.ptp
  ({ s with tb := { s.tb with ptp := { x with t1 := some origin, t3 := some s.tb.stime, reqSeq := (x.reqSeq + 1) % 2 ^ 16 } } }).emit
    (.delayReq udp ((x.reqSeq + 1) % 2 ^ 16))

/-- The master's time minus the device's after a finished exchange (R74): PTP time minus the epoch base is the reference (R73);
the delay of the path is taken as half of the two ways' sum. -/
def State.ptpOffset (s : State) (t1 t3 t4 : Nat) : Int :=
  evenDiv (((t1 : Int) - s.ptpBase - s.tb.ptp.t2) + ((t4 : Int) - s.ptpBase - t3)) 2

/-- An IEEE 1588 message of the master (R74): a Sync gives the device's time of its arrival, and of a one-step master the
sending time; a Follow_Up gives it of a two-step master; a Delay_Resp ends the exchange with one offset. -/
def State.ptpTake (s : State) (udp : Bool) (msg : PtpMsg) : State :=
  let x := s.tb.ptp
  match msg with
  | .sync seq origin =>
    let s := { s with tb := { s.tb with ptp := { x with syncSeq := seq, t1 := none, t2 := s.tb.stime, t3 := none } } }
    match origin with
    | some o => s.delayReq udp o
    | none => s
  | .followUp seq origin => if seq = x.syncSeq ∧ x.t1 = none then s.delayReq udp origin else s
  | .delayResp seq receive =>
    match x.t1, x.t3 with
    | some t1, some t3 =>
      if seq ≠ x.reqSeq then s else
      let off := s.ptpOffset t1 t3 receive
      ({ s with tb := { s.tb with ptp := { x with t1 := none, t3 := none } } }).refOffset off
    | _, _ => s

/-- The Ethernet multicast addresses of IEEE 1588 messages. PRESUMED (assumption 74): the standard's. -/
def ptpGroups : List (BitVec 48) := [0x011B19000000, 0x0180C200000E]

/-- The port accepts the frame of a PTP message (R555, R556): untagged, to its own or to a PTP address, and over UDP to
MGMT.IPV4, of which 0 is none. -/
def State.takesPtp (s : State) (m : PtpFrame) : Bool :=
  s.flag F.mgmtPtp && !m.head.tagged && (m.head.dst == s.fuses.mac || ptpGroups.contains m.head.dst) && (match m.ip with
    | some ip => ip != 0 && s.reg Reg.mgmtIp == ip
    | none => true)

/-- A frame of the management port that carries a PTP message: discarded and counted (R555), or taken in role 2. -/
def ptpMessage (m : PtpFrame) (s : State) : State :=
  if !s.mgmtLive then s
  else if !s.takesPtp m then s.dropFrame
  else if s.fld F.tbRole ≠ 2 then s
  else s.ptpTake m.ip.isSome m.msg

def execPtpMessage (m : PtpFrame) (s : State) : Host.Outcome State Fault Refusal := fin (ptpMessage m s)

/-- The reference of roles 0 to 2 is lost; role 3's is the die's own oscillator. A lost upstream may be replaced (R77). -/
def referenceLoss (s : State) : State :=
  if s.fld F.tbRole = 3 then s
  else if s.fld F.tbRole = 0 then
    let up := s.fld F.tbUpstream
    let s := if up < 48 then s.mapTimePort up fun t => { t with hops := 15 } else s
    let s := s.chooseUpstream
    if s.fld F.tbUpstream = 0xFF then s.loseReference else s.publishHops
  else s.loseReference

def execTbReferenceLoss (s : State) : Host.Outcome State Fault Refusal := fin (referenceLoss s)

/-- R80, R83, R88. -/
def holdoverExpiry (s : State) : State :=
  if s.fld F.tbState = TbSt.holdover ∧ s.tb.holdoverAt + s.fld F.tbHoldover * 1000000 ≤ s.tb.stime then
    (s.setTb TbSt.unsync).publishHops
  else s

def execHoldoverLimitExpiry (s : State) : Host.Outcome State Fault Refusal := fin (holdoverExpiry s)

/-! ### Two copies (R87) -/

/-- Control Die B compares (R87). `drift` is what its oscillator has gained on Control Die A's since the latest compare, `off`
the reference minus STIME where a reference is present. The copy with the smaller offset is kept and the other is brought to
it; with no reference, or both beyond ±3 ns, the time base fails. DESIGN CHOICE (assumption 76): of two copies with one offset
Control Die A's is kept; the mismatch writes no event record, since the spec gives it no code; it counts in input 6 alone. -/
def copyCompare (drift : Int) (off : Option Int) (s : State) : State :=
  let s := { s with tb := { s.tb with bStime := ((s.tb.bStime : Int) + drift).toNat } }
  let diff := (s.tb.bStime : Int) - s.tb.stime
  if diff.natAbs ≤ 2 then s else
  let s := s.setFld F.tbMismatch 1
  let s := { s with safe := { s.safe with win6 := s.safe.win6 + 1 } }
  match off with
  | some a =>
    if 3 < a.natAbs ∧ 3 < (a - diff).natAbs then (s.setTb TbSt.fault).publishHops
    else if a.natAbs ≤ (a - diff).natAbs then
      { s with tb := { s.tb with bPull := -diff, pull := 0, pullNs := if s.tb.bPull = 0 then 1000000 else s.tb.pullNs } }
    else { s with tb := { s.tb with pull := diff, bPull := 0, pullNs := if s.tb.pull = 0 then 1000000 else s.tb.pullNs } }
  | none => (s.setTb TbSt.fault).publishHops

def execTbCopyCompare (drift : Int) (present : Bool) (off : Int) (s : State) : Host.Outcome State Fault Refusal :=
  fin (copyCompare drift (if present then some off else none) s)

/-! ### Registers (R88, R90) -/

/-- Role 1 takes the TIME_PPS_IN pin: every pending wait for a trigger ends (R143, R145). -/
def State.takePps (s : State) : State :=
  s.failAll ((s.cmds.filter (·.waitsTrigger)).map (·.id)) (heldBy 0x10 noHolder)

/-- A change of role (R88): loss of the old role's reference, whose hold and counts end with it; role 3's reference is present
at once. -/
def State.changeRole (s : State) (role : Nat) : State :=
  let s := if role = 1 then s.takePps else s
  let s := if s.fld F.tbState = TbSt.locked then s.setTb TbSt.holdover else s
  let s := { (s.setFld F.tbRole role).setFld F.tbUpstream 0xFF with
    tb := { s.tb with loaded := none, given := false, offs := [], good := 0, bad := 0, hold := none, ptp := {} } }
  let st := s.fld F.tbState
  let s := if role ≠ 3 then s
    else if st = TbSt.free ∨ st = TbSt.unsync then s.setTb TbSt.acquiring
    else if st = TbSt.holdover then s.setTb TbSt.locked else s
  s.publishHops

def tbCfg (v : W) (s : State) : State :=
  let role := bits v 2 0
  let old := s.reg Reg.tbCfg
  let s := s.setReg Reg.tbCfg (merge (if s.attested then 0x10 else 0xFFFF0010) old v)
  if s.attested = true then s
  else if 4 ≤ role ∨ s.timers ≠ 0 then s.setFld F.tbRefused 1
  else if role = bits old 2 0 then s
  else s.changeRole role

def runTbCfgWrite (v : W) (s : State) : State := s.regWrite Reg.tbCfg v (tbCfg v)

def execTbCfgWrite (_path : Path) (value : W) (s : State) : Host.Outcome State Fault Refusal := fin (runTbCfgWrite value s)

/-- A read of TB.STIME_LO returns STIME [31:0] and latches [63:32] (R90); 0 where BAR0 is not served (R554). -/
def stimeLoRead (s : State) : State :=
  if s.bar0Open then
    (s.setReg 0x1000C (BitVec.ofNat 32 (s.tb.stime / 2 ^ 32))).emit (.readData (BitVec.ofNat 32 s.tb.stime))
  else s.emit (.readData 0)

def execTbStimeLoRead (_path : Path) (s : State) : Host.Outcome State Fault Refusal := fin (stimeLoRead s)

/-- TIME_PPS_OUT rises at each whole second, or within 2 ns after it where STIME has passed it between two readings, in LOCKED or HOLDOVER with pps_out_en set (R75). -/
def ppsOut (s : State) : State :=
  if s.hasTime ∧ s.flag F.tbPpsEn = true ∧ s.tb.stime % 1000000000 ≤ 2 ∧ s.tb.pps ≠ some (s.tb.stime / 1000000000) then
    ({ s with tb := { s.tb with pps := some (s.tb.stime / 1000000000) } }).emit (.ppsPulse s.tb.stime)
  else s

def execTimePpsOutPulse (s : State) : Host.Outcome State Fault Refusal := fin (ppsOut s)

/-! ### One nanosecond of the oscillator -/

/-- Correction by rate: 1 ns per 20,000 ns at most, 50 ns per ms (R79, R494). From the ns since the latest correction and what
is still to be made, the same two after a nanosecond and the correction made. -/
def slewStep (clock : Nat) (total : Int) : Nat × Int :=
  if clock + 1 < 20000 ∨ total = 0 then (clock + 1, 0) else (0, if 0 < total then 1 else -1)

/-- What a copy that R87 brings to the other makes of it in a nanosecond, with so many ns left of the 1 ms. DESIGN CHOICE
(assumption 76): this correction is not bound by the 50 ns per ms of R79. -/
def pullStep (pull : Int) (left : Nat) : Int :=
  let share := ((pull.natAbs + max 1 left - 1) / max 1 left : Nat)
  if 0 < pull then share else -share

/-- A nanosecond of Control Die A's copy, which never goes back (R71): one that leads by more than 1 ms is held until it is
brought. -/
def Tb.stepA (t : Tb) : Tb :=
  let p := max (-1) (pullStep t.pull t.pullNs)
  let r := if p = 0 then slewStep t.slewClock (t.slew + t.skew) else (t.slewClock + 1, 0)
  let own := t.slew ≠ 0 ∧ decide (0 < t.slew) = decide (0 < t.slew + t.skew)
  { t with
    stime := ((t.stime : Int) + 1 + p + r.2).toNat % 2 ^ 64, slewClock := r.1, pull := t.pull - p,
    slew := if own then t.slew - r.2 else t.slew, skew := if own then t.skew else t.skew - r.2 }

/-- A nanosecond of Control Die B's copy (R72). -/
def Tb.stepB (t : Tb) : Tb :=
  let p := pullStep t.bPull t.pullNs
  let r := if p = 0 then slewStep t.bClock t.bSlew else (t.bClock + 1, 0)
  { t with
    bStime := ((t.bStime : Int) + 1 + p + r.2).toNat % 2 ^ 64, bClock := r.1, bPull := t.bPull - p, bSlew := t.bSlew - r.2
    pullNs := t.pullNs - 1 }

/-- Both copies advance by a nanosecond; a held STIME waits for its reference, and the hold of a value loaded in role 3 ends in
LOCKED (R71, R80). Between two words the reference is taken to advance with the oscillator (assumption 35). -/
def State.tickTime (s : State) : State :=
  match s.tb.hold with
  | some n =>
    if 1 < n then { s with tb := { s.tb with hold := some (n - 1) } }
    else
      let s := { s with tb := { s.tb with hold := none } }
      if s.fld F.tbRole = 3 ∧ s.tb.given = true ∧ s.fld F.tbState = TbSt.acquiring then (s.setTb TbSt.locked).publishHops else s
  | none => { s with tb := s.tb.stepA.stepB }

/-- What an empty queue's step does: one nanosecond passes; captures whose draws are through are made (R517), and what R513
held may take place. -/
def State.tick (s : State) : State :=
  let s := s.tickTime.runCaptures
  if s.rst.held.isEmpty then s else s.releaseHeld

end Sys2Proof.Machine
end

