-- ==== Sys2Proof/Machine/Slots.lean ====
section
/-! DEFINITION. Slot launches (R378 to R385): their checks, their sizing (R141, R147, R297, R338, R369), readiness, slips,
and the external trigger. -/

namespace Sys2Proof.Machine

/-! ### A slot's words -/

def Cmd.stream (m : Cmd) : Nat := m.bits 6 15 8
def Cmd.slotLen (m : Cmd) : Nat := m.word 8
def Cmd.trig (m : Cmd) : Bool := m.bits 6 29 29 == 1

/-- Places of aux after the sixteen words of R298: sized over, slips. -/
def slotOverAt : Nat := 16
def slotSlipsAt : Nat := 17

def State.shiftOf (s : State) (stream : Nat) : Nat := Tab.get zeroNat s.red.shifts stream

/-- R380. -/
def State.effective (s : State) (m : Cmd) : Nat := m.t + s.shiftOf m.stream

/-- The Halls of a slot: those of its layers. -/
def Cmd.slotHalls (m : Cmd) : List Nat := hallsOf ((m.rawLayers.map (·.halls)).foldl (· ||| ·) 0)

/-! ### Sizing (R141) -/

/-- p of R252. -/
def pairRate (a b : Nat) : Nat :=
  if isMx a && isMx b then 4 else if Fp.width a ≤ 8 ∧ Fp.width b ≤ 8 then 2 else 1

def fmtOf (t : Option Tensor) : Nat := match t with
  | some t => t.fmt
  | none => 1

/-- Steps of an operation over some chunks (R252). -/
def arraySteps (chunks : Nat) (a b : Option Tensor) : Nat := 32 * chunks / pairRate (fmtOf a) (fmtOf b)

/-- The class of an operation for R297, R338 and R369. -/
inductive SizeClass where
  | single | pair | chunk | pairChunk | sparse | vector | other
deriving DecidableEq, Repr

/-- Steps of R322 of a Sparse Engine operation. -/
def State.sparseSteps (s : State) (L : MatLayer) : OpKind → Nat
  | .triple _ _ ib nb => match L.w with
    | some t =>
      let d := s.spDir t (ib * t.nb + nb)
      (if L.dx.isSome then d.tt else 0) + (if L.dw.isSome && !L.sp.dwFull then upDiv d.nnz 16 else 0)
    | none => 0
  | .chunk _ _ nb kb => match L.w with
    | some t => (s.spDir t (kb * t.nb + nb)).tf
    | none => 0
  | .rechunk _ _ nb kb => match L.w with
    | some t => (s.spDir t (kb * t.nb + nb)).tf
    | none => 0
  | _ => 0

/-- The class and steps of an operation. -/
def State.opSize (s : State) (m : Cmd) (p : Program) (o : Op) : SizeClass × Nat :=
  match p.layers[o.kind.layer]? with
  | none => (.other, 0)
  | some l =>
    match o.kind with
    | .chain _ n bwd => match m.chainLayer p l bwd with
      | some L => (.vector, L.steps n)
      | none => (.other, 0)
    | k =>
      if 1 < l.op then (.other, 0) else
      let L := m.matLayer p k.layer l
      if o.unit = .sparse then (.sparse, s.sparseSteps L k)
      else if o.unit ≠ .array then (.other, 0)
      else if l.op = 0 then
        match k with
        | .pair _ _ _ => (.pair, max (if L.dx.isSome then arraySteps L.nbs L.dy L.w else 0)
            (if L.dw.isSome then arraySteps L.nbs L.x L.dy else 0))
        | .recompute _ _ _ => (.single, arraySteps L.kbs L.ckpt L.w)
        | _ => (.single, arraySteps L.kbs L.x L.w)
      else if o.side = 2 then (.pairChunk, 32) else (.chunk, 32)

/-- Drain passes of an operation: one per output tile (R297, R338). -/
def drainPasses (m : Cmd) (p : Program) (o : Op) : Nat :=
  match o.kind with
  | .fwd _ _ _ => 1
  | .recompute _ _ _ => 1
  | .pre _ _ _ => 1
  | .drain _ _ _ => 1
  | .drainDx _ _ _ => 1
  | .pair l _ _ => match p.layers[l]? with
    | some q => if (m.tableTensor p q.dx).isSome then 1 else 0
    | none => 0
  | _ => 0

/-- The sum over the distinct step counts of a class. -/
def classTerm (engines : Nat) (l : List Nat) : Nat :=
  (l.dedup.map fun st => upDiv (l.filter (· == st)).length engines * st).foldl (· + ·) 0

/-- Steps of the Predictor Unit of a Hall (R332, R338). -/
def State.predictorSteps (s : State) (m : Cmd) (p : Program) (h : Nat) : Nat :=
  ((m.matLayers p).map fun L => if m.dirs.1 && L.l.fwd && L.sp.pred then (s.hallBlocks L h).length * upDiv L.k 256 else 0).foldl
    (· + ·) 0

/-- The largest term of a Hall. -/
def State.slotSteps (s : State) (m : Cmd) (p : Program) (h : Nat) : Nat :=
  let ops := m.ops.filter fun o => o.hall == h
  let sized := ops.map fun o => (o.tile, s.opSize m p o)
  let of := fun (c : SizeClass) => (sized.filter fun q => q.2.1 == c).map fun q => q.2.2
  let n := s.hallTiles
  let arrays := classTerm (2 * n) (of .single) + classTerm (2 * n) (of .chunk) + classTerm n (of .pair) +
    classTerm n (of .pairChunk)
  let drains := upDiv ((ops.map (drainPasses m p)).foldl (· + ·) 0) n * 32
  let sparse := ((List.range n).map fun i => ((sized.filter fun q => q.1 == 640 * h + i && q.2.1 == .sparse).map
    fun q => q.2.2).foldl (· + ·) 0).foldl max 0
  let ve := of .vector
  let vector := upDiv ve.length n * ve.foldl max 0
  max arrays (max drains (max sparse (max vector (s.predictorSteps m p h))))

/-- est_ns of a Hall. -/
def State.slotEstimate (s : State) (m : Cmd) (p : Program) (h : Nat) : Nat :=
  let low := s.hallMinRate h
  let rate := if low = 0xFFFF then s.hallCurRate h else low
  let rate := if rate = 0 then 8 * s.fld (F.floorRate h) else rate
  upDiv (s.slotSteps m p h * 1000 * (64 + s.fld (F.margin h))) (rate * 64)

/-- Writes HS.SLOT_EST of each Hall of a slot; the Bool says that one is over (R147, R384). -/
def State.sizeSlot (s : State) (m : Cmd) (p : Program) : State × Bool :=
  m.slotHalls.foldl (fun acc h =>
    let e := acc.1.slotEstimate m p h
    let past := decide (m.slotLen < e)
    ((acc.1.setFld (F.slotEst h) (min e 0x7FFFFFFF)).setFld (F.slotOver h) past.toNat, acc.2 || past)) (s, false)

/-! ### Acceptance (R379, R385) -/

/-- RESOURCE_HELD for TIME_PPS_IN (R143): held by role 1, or by an earlier accepted triggered slot until its completion. -/
def State.pinHeld (s : State) (m : Cmd) : Option Status :=
  if s.fld F.tbRole = 1 then some (heldBy 0x0010 noHolder)
  else (s.cmds.find? fun o => o.opcode == 0x80 && o.trig && decide (o.order < m.order)).map fun o => heldBy 0x0010 o.id.ring

def State.slotCheck (s : State) (m : Cmd) : Except Status Program := do
  need m.sched (oor 0)
  need (decide (2000 ≤ m.slotLen) && decide (m.slotLen ≤ 1000000000)) (oor 8)
  need (decide (Tab.get zeroNat s.red.slotT m.stream < m.t)) (oor 2)
  let p ← s.programCheck m fun _ => true
  need (decide (m.bits 6 31 30 < 2)) (oor 6)
  match if m.trig then s.pinHeld m else none with
  | some st => .error st
  | none => pure p

def State.setSlot (s : State) (c : CmdId) (i v : Nat) : State :=
  s.mapCmd c fun m => { m with aux := (m.aux ++ List.replicate 19 0).take 19 |>.set i v }

/-- SLOT_LAUNCH is checked, laid out and sized, and waits with its launch timer. -/
def runSlotLaunch (c : CmdId) (s : State) : State :=
  match s.runnable c 0x80 with
  | none => s
  | some m =>
    match s.slotCheck m with
    | .error st => s.refuseCmd c st
    | .ok p =>
      let r := s.programTakes m p
      match r.2 with
      | .error st => r.1.refuseCmd c st
      | .ok tables =>
        let s := r.1.layOut c .armed p tables
        let s := { s with red := { s.red with slotT := Tab.put zeroNat s.red.slotT m.stream m.t } }
        match s.findCmd c with
        | none => s
        | some m =>
          let q := s.sizeSlot m p
          q.1.setSlot c slotOverAt q.2.toNat

def execSlotLaunch (c : CmdId) (s : State) : Host.Outcome State Fault Refusal := fin (runSlotLaunch c s)

/-! ### At the effective instant (R380 to R385) -/

/-- R381, with the fence of R588. -/
def State.slotReady (s : State) (m : Cmd) : Bool :=
  let earlier := s.cmds.filter fun o => decide (o.order < m.order)
  s.fenceOk m && !(earlier.any fun o => o.opcode == 0x80 && o.stream == m.stream) &&
    (let reads := m.ops.flatMap fun o => (s.uses m o).reads
     let us := ((earlier.flatMap fun o => (o.ops.filter notDone).map fun q => s.uses o q).map fun u => (⟨false, u⟩ : Earlier)) ++
       earlier.map fun o => (⟨false, { writes := s.cmdWrites o }⟩ : Earlier)
     !writerBusy us reads && !spansMeet reads s.copySpans)

/-- Consecutive slips of a stream. -/
def State.slipRun (s : State) (stream : Nat) : Nat := ((s.safe.slips.find? fun q => q.1 == stream).map (·.2)).getD 0

def State.setSlipRun (s : State) (stream n : Nat) : State :=
  { s with safe := { s.safe with slips := (s.safe.slips.filter fun q => q.1 != stream) ++ if n = 0 then [] else [(stream, n)] } }

/-- A slot begins to issue its operations. -/
def State.launchSlot (s : State) (m : Cmd) : State :=
  let s := if m.aux.getD slotOverAt 0 = 1 then s.bump (cnt (Reg.red 0x60)) else s
  let s := if m.trig then s.bump (cnt (Reg.red 0x64)) else s
  ((s.setSlipRun m.stream 0).mapCmd m.id fun m => { m with phase := .running }).settle m.id

/-- A slot slips by its length, or ends (R382); a run of slips that reaches a Hall's limit is an event for the Health
Monitor (R146). -/
def State.slipSlot (s : State) (m : Cmd) : State :=
  let n := m.aux.getD slotSlipsAt 0 + 1
  let most := m.bits 6 7 0
  if most ≠ 0 ∧ most < n then s.failCmd m.id ⟨St.lateInstant, s.tb.stime % 2 ^ 32, s.tb.stime / 2 ^ 32⟩ else
  let run := s.slipRun m.stream + 1
  let s := { s with red := { s.red with shifts := Tab.put zeroNat s.red.shifts m.stream (s.shiftOf m.stream + m.slotLen) } }
  let s := (s.setSlipRun m.stream run).bump (cnt (Reg.red 0x5C))
  let s := m.slotHalls.foldl (fun s h =>
    let s := s.bump (F.slipCount h)
    if run = s.fld (F.slipLimit h) then { s with safe := { s.safe with win6 := s.safe.win6 + 1 } } else s) s
  (s.setSlot m.id slotSlipsAt n).setSlot m.id slotWaitAt 0

/-- An armed slot is evaluated at its effective instant. -/
def State.slotAt (s : State) (m : Cmd) : State :=
  if m.aux.getD slotWaitAt 0 = 1 then s
  else if !s.slotReady m then s.slipSlot m
  else if m.trig then s.setSlot m.id slotWaitAt 1
  else s.launchSlot m

/-- A ready slot whose edge has not come by the end of its slot slips (R385). -/
def slotTimeout (c : CmdId) (s : State) : State :=
  match s.findCmd c with
  | none => s
  | some m =>
    if m.opcode = 0x80 ∧ m.phase = .armed ∧ m.aux.getD slotWaitAt 0 = 1 ∧ s.effective m + m.slotLen ≤ s.tb.stime then
      s.slipSlot m
    else s

def execSlotTriggerTimeout (c : CmdId) (s : State) : Host.Outcome State Fault Refusal := fin (slotTimeout c s)

/-- A rising edge of TIME_PPS_IN: the second boundary of role 1 (R73), or the trigger of the slot that waits for it. -/
def ppsEdge (s : State) : State :=
  if s.fld F.tbRole = 1 then s.ppsBoundary
  else match s.cmds.find? fun m => m.waitsTrigger with
    | none => s
    | some m => if s.tb.stime < s.effective m + m.slotLen then s.launchSlot m else s

def execTimePpsInEdge (s : State) : Host.Outcome State Fault Refusal := fin (ppsEdge s)

end Sys2Proof.Machine
end

