-- ==== Sys2Proof/Machine/Launch.lean ====
section
/-! DEFINITION. The launch timers (R83, R85, R86, R588): what an instant does with the scheduled actions armed for it. -/

namespace Sys2Proof.Machine

/-- The instant at which an armed action is due: a slot's is moved by its stream's shift (R380). -/
def State.dueAt (s : State) (m : Cmd) : Nat := if m.opcode = 0x80 then s.effective m else m.t

/-- The place of an action in the order of R86; a NOP comes last. -/
def launchKind (opcode : Nat) : Nat :=
  match opcode with
  | 0x91 => 1
  | 0x3A => 2
  | 0x36 => 3
  | 0x60 => 4
  | 0x80 => 5
  | _ => 6

/-- The order of two due actions: instant, kind, ring, sequence number (R86). -/
def State.launchLe (s : State) (a b : Cmd) : Bool :=
  let ka := [s.dueAt a, launchKind a.opcode, a.id.ring, a.id.seq]
  let kb := [s.dueAt b, launchKind b.opcode, b.id.ring, b.id.seq]
  match (ka.zip kb).find? fun p => p.1 != p.2 with
  | some (x, y) => decide (x < y)
  | none => true

/-- The armed actions that are due, in the order of R86. -/
def State.dueActions (s : State) : List Cmd :=
  sortBy s.launchLe (s.cmds.filter fun m => m.sched && m.phase == .armed && decide (s.dueAt m ≤ s.tb.stime) && !m.waitsTrigger)

/-- The late rule of R86 for an action whose fence is not satisfied at its T (R588). -/
def State.lateAction (s : State) (m : Cmd) : State :=
  match m.opcode with
  | 0x80 => s.slipSlot m
  | 0x60 => s.commitAt m
  | _ => s.complete m.id s.late

/-- One action at its instant. -/
def State.launch (s : State) (m : Cmd) : State :=
  if !s.fenceOk m then s.lateAction m else
  match m.opcode with
  | 0x91 => s.routeSwitchAt m
  | 0x3A => s.tableSwitchAt m
  | 0x36 => s.migrateSwitchAt m
  | 0x60 => s.commitAt m
  | 0x80 => s.slotAt m
  | _ => (s.begin m.id).complete m.id okStatus

/-- A NOP at its instant stays behind a slot of that instant that has yet to launch or to follow its late rule: one that waits
for its trigger (R86, R385). -/
def State.nopWaits (s : State) (m : Cmd) : Bool :=
  launchKind m.opcode == 6 && s.cmds.any fun o => o.waitsTrigger && s.effective o == m.t

/-- Takes the due actions one after another; each is looked up again, since an earlier one may have ended or moved it. -/
def State.launchAll (s : State) : List Cmd → State
  | [] => s
  | m :: ms =>
    match s.findCmd m.id with
    | some n => (if n.phase = .armed ∧ s.dueAt n ≤ s.tb.stime ∧ s.nopWaits n = false then s.launch n else s).launchAll ms
    | none => s.launchAll ms

/-- LAUNCH_TIMER_FIRE: captures whose draws are through are made before their COMMIT takes effect (R517); what R513 held
follows. -/
def launchTimer (s : State) : State :=
  let s := s.runCaptures
  (s.launchAll s.dueActions).releaseHeld

def execLaunchTimerFire (s : State) : Host.Outcome State Fault Refusal := fin (launchTimer s)

end Sys2Proof.Machine
end

