-- ==== Sys2Proof/Machine/Monitor.lean ====
section
/-! DEFINITION. Modes (R476 to R478), twin mode's command (R480), the Health Monitor (R486 to R489), its log's
configuration (R497), and the perturbation registers with their lock (R492 to R494, R498). -/

namespace Sys2Proof.Machine

/-! ### The lock of the test registers (R492, R493) -/

/-- BAR0 offsets of the perturbation registers (R498). -/
def perturbRegs : List Nat :=
  [Reg.testBp, Reg.testLaneErr, Reg.testEccInj, Reg.testEccAddrLo, Reg.testEccAddrHi, Reg.testChkInj, Reg.testTbOffset] ++
    (List.range 16).map Reg.testHallDelay

/-- Relocks: every perturbation register is 0, and the time offset ends; a record when they were unlocked (R491). -/
def State.relock (s : State) : State :=
  let was := s.flag F.unlocked
  let s := ((s.clear perturbRegs).setFld F.unlocked 0).setFld F.unlockStage 0
  let s := { s with tb := { s.tb with skew := 0 } }
  if was then s.event 0 0 0x0A06 0 else s

/-- The sequence waits for its next write. -/
def State.inSequence (s : State) (path : Path) : Bool :=
  s.fld F.unlockStage != 0 && s.safe.unlockPath == some path && decide (s.tb.stime ≤ s.safe.unlockAt + 1000000)

def testUnlock (path : Path) (v : W) (s : State) : State :=
  if s.attested then s.setFld F.testRefused 1
  else if v = 0 then s.relock
  else
    let stage := if s.inSequence path then s.fld F.unlockStage else 0
    let want : List Nat := [0x7E570001, 0x81A8FFFE, 0x7E570000 + s.pkg]
    let first := v.toNat == want.getD 0 0
    if v.toNat = want.getD stage 0 then
      if stage = 2 then
        let was := s.flag F.unlocked
        let s := (s.setFld F.unlockStage 0).setFld F.unlocked 1
        if was then s else s.event 0 0 0x0A06 1
      else
        let s := s.setFld F.unlockStage (stage + 1)
        if stage = 0 then { s with safe := { s.safe with unlockPath := some path, unlockAt := s.tb.stime } } else s
    else if first then
      { s.setFld F.unlockStage 1 with safe := { s.safe with unlockPath := some path, unlockAt := s.tb.stime } }
    else s.setFld F.unlockStage 0

def runTestUnlock (path : Path) (v : W) (s : State) : State := s.regWrite Reg.testUnlock v (testUnlock path v)

def execTestUnlockWrite (path : Path) (value : W) (s : State) : Host.Outcome State Fault Refusal :=
  fin (runTestUnlock path value s)

/-- A sequence longer than 1 ms returns to its start. -/
def unlockTimeout (s : State) : State :=
  if s.fld F.unlockStage ≠ 0 ∧ s.safe.unlockAt + 1000000 < s.tb.stime then s.setFld F.unlockStage 0 else s

def execTestUnlockTimeout (s : State) : Host.Outcome State Fault Refusal := fin (unlockTimeout s)

/-! ### Perturbation registers (R493, R494, R498) -/

/-- A write of a perturbation register: refused while locked; one that takes effect writes a record. Any write to the test
block interrupts an unlock sequence. -/
def State.testWrite (s : State) (off : Nat) (v : W) (f : State → State) : State :=
  s.regWrite off v fun s =>
    let s := s.setFld F.unlockStage 0
    if s.flag F.unlocked then (f s).event 0 0 0x0A07 0 [BitVec.ofNat 32 off, v] else s.setFld F.testRefused 1

/-- The stored word of a test register's write. -/
def State.testStore (s : State) (off : Nat) (v : W) : State :=
  match regSpec off with
  | some r => s.setReg off (merge r.rw (s.reg off) v)
  | none => s

/-- Lengthens the matched delays of a Hall: timing alone (R494). -/
def runHallDelay (h : Nat) (v : W) (s : State) : State :=
  s.testWrite (Reg.testHallDelay h) v fun s => s.testStore (Reg.testHallDelay h) v

def execTestHallDelayWrite (_path : Path) (h : Nat) (value : W) (s : State) : Host.Outcome State Fault Refusal :=
  fin (runHallDelay h value s)

/-- The credit that a port's Landing withholds from now on (`State.withholds`). -/
def runTestBp (v : W) (s : State) : State := s.testWrite Reg.testBp v fun s => s.testStore Reg.testBp v

def execTestBpWrite (_path : Path) (value : W) (s : State) : Host.Outcome State Fault Refusal := fin (runTestBp value s)

/-- The codewords of a lane that are corrupted from now on (`State.laneErrors`). -/
def runLaneErr (v : W) (s : State) : State := s.testWrite Reg.testLaneErr v fun s => s.testStore Reg.testLaneErr v

def execTestLaneErrWrite (_path : Path) (value : W) (s : State) : Host.Outcome State Fault Refusal := fin (runLaneErr value s)

/-- Arms an injection: refused for a tier above 4 or a count outside 1 to 6. -/
def runEccInj (v : W) (s : State) : State :=
  s.testWrite Reg.testEccInj v fun s =>
    let bad := decide (4 < bits v 30 28) || bits v 27 24 == 0 || decide (6 < bits v 27 24)
    s.testStore Reg.testEccInj (if bad then setBits v 31 31 0 else v)

def execTestEccInjWrite (_path : Path) (value : W) (s : State) : Host.Outcome State Fault Refusal := fin (runEccInj value s)

def runChkInj (v : W) (s : State) : State :=
  s.testWrite Reg.testChkInj v fun s => s.testStore Reg.testChkInj (if 4 < bits v 29 27 then setBits v 31 31 0 else v)

def execTestChkInjWrite (_path : Path) (value : W) (s : State) : Host.Outcome State Fault Refusal := fin (runChkInj value s)

/-- Moves Control Die A's copy of STIME, by rate. -/
def runTbOffset (v : W) (s : State) : State :=
  s.testWrite Reg.testTbOffset v fun s =>
    let s := s.testStore Reg.testTbOffset v
    { s with tb := { s.tb with skew := v.toInt } }

def execTestTbOffsetWrite (_path : Path) (value : W) (s : State) : Host.Outcome State Fault Refusal := fin (runTbOffset value s)

/-- A write of the two address registers; at an offset of the block that no register occupies it has no effect (R567), and a
write of TEST.STATUS interrupts an unlock sequence. -/
def runTestOther (off : Nat) (v : W) (s : State) : State :=
  if off = Reg.testEccAddrLo ∨ off = Reg.testEccAddrHi then s.testWrite off v fun s => s.testStore off v
  else if (regSpec off).isNone then s
  else s.regWrite off v fun s => s.setFld F.unlockStage 0

/-- The write of a perturbation register at an offset. -/
def State.perturbAt (s : State) (off : Nat) (v : W) : State :=
  if off = Reg.testBp then runTestBp v s
  else if off = Reg.testLaneErr then runLaneErr v s
  else if off = Reg.testEccInj then runEccInj v s
  else if off = Reg.testChkInj then runChkInj v s
  else if off = Reg.testTbOffset then runTbOffset v s
  else if Reg.testHallDelay 0 ≤ off ∧ off ≤ Reg.testHallDelay 15 ∧ off % 4 = 0 then runHallDelay ((off - Reg.testHallDelay 0) / 4) v s
  else runTestOther off v s

/-- PERTURB: the offset is that of R498's table. -/
def perturbCmd (m : Cmd) (s : State) : State × Status :=
  let off := Reg.safeMode + m.bits 4 8 0
  if !perturbRegs.contains off then (s, oor 4)
  else if s.attested then (s, ⟨St.modeLocked, 0, 0⟩)
  else if s.flag F.unlocked = false then (s, ⟨St.testRefused, 0, 0⟩)
  else (s.perturbAt off (m.words.getD 5 0), okStatus)

def runPerturb (c : CmdId) (s : State) : State := s.runTo c 0xA3 perturbCmd

def execPerturb (c : CmdId) (s : State) : Host.Outcome State Fault Refusal := fin (runPerturb c s)

/-! ### Modes -/

/-- The oldest accepted command of a job, other than the one that asks (R476). -/
def State.jobHolder (s : State) (c : CmdId) : Option Cmd :=
  (s.cmds.filter fun m => m.job != 0 && decide (m.id ≠ c)).foldl (fun best m => match best with
    | some b => if m.order < b.order then some m else some b
    | none => some m) none

/-- A change of mode (R477). -/
def State.enterMode (s : State) (attested : Bool) : State :=
  if s.attested = attested then s else
  let s := if attested then s.relock else s
  (s.setFld F.attested attested.toNat).event 0 0 0x0A03 attested.toNat

def modeSetCmd (m : Cmd) (s : State) : State × Status :=
  match s.jobHolder m.id with
  | some o => (s, heldBy 0x70 o.id.ring)
  | none => (s.enterMode (m.bits 4 0 0 == 1), okStatus)

def runModeSet (c : CmdId) (s : State) : State := s.runTo c 0xA0 modeSetCmd

def execModeSet (c : CmdId) (s : State) : Host.Outcome State Fault Refusal := fin (runModeSet c s)

/-- The ring of a stream's command. -/
def CkStream.holder (k : CkStream) : Nat := match k.cmd with
  | some c => c.ring
  | none => noHolder

/-- TWIN_SET (R480, R143 resource 0x0020, R495). -/
def twinSetCmd (m : Cmd) (s : State) : State × Status :=
  let share := m.bits 4 19 16
  if m.bits 4 31 31 = 0 then
    if s.attested then (s, ⟨St.modeLocked, 0, 0⟩)
    else ((s.setFld F.twinEnable 0).setFld F.twinShare 0, okStatus)
  else if share = 0 then (s, oor 4)
  else
    let full := s.ck.stream.filter fun k => decide (16 < k.share + share)
    match full with
    | some k => (s, busy 0x20 k.holder)
    | none => (((s.setFld F.twinEnable 1).setFld F.twinShare share).setFld F.twinPartner (m.bits 4 15 0), okStatus)

def runTwinSet (c : CmdId) (s : State) : State := s.runTo c 0xA1 twinSetCmd

def execTwinSet (c : CmdId) (s : State) : Host.Outcome State Fault Refusal := fin (runTwinSet c s)

/-! ### The risk estimate (R486, R487) -/

/-- A window of 1 s ends. -/
def State.rollWindow (s : State) : State :=
  let n := (s.tb.stime - s.safe.winAt) / 1000000000
  if n = 0 then s else
  let f := s.safe
  let keep := fun (x : Nat) => if n = 1 then x else 0
  { s with safe := { f with lat0 := keep f.win0, lat1 := keep f.win1, lat4 := keep f.win4, lat6 := keep f.win6,
                            win0 := 0, win1 := 0, win4 := 0, win6 := 0, winAt := f.winAt + n * 1000000000 } }

/-- °C of the hottest Hall junction above 85 °C. -/
def State.hotInput (s : State) : Nat :=
  let t : Int := ((List.range 16).map fun h => Fp.signed 16 (s.fld (F.tempCur h))).foldl max (-32768)
  ((t - 85 * 16) / 16).toNat

/-- M steps/s by which the slowest Hall falls short of HM.RATE_REF. -/
def State.rateInput (s : State) : Nat :=
  let low := ((List.range 16).map s.hallCurRate).foldl min 0xFFFF
  s.fld F.hmRate - low

/-- The eight inputs. -/
def State.hmInputs (s : State) : List Nat :=
  let f := s.safe
  [f.lat0, f.lat1, s.hotInput, s.rateInput, f.lat4, (s.tb.stime - f.ckptAt) / 60000000000, f.lat6, s.fld F.buddyOverride]

/-- Weight i (R497). -/
def State.hmWeight (s : State) (i : Nat) : Nat :=
  bits (s.reg (if i < 4 then Reg.hmWeight0 else Reg.hmWeight1)) (8 * (i % 4) + 7) (8 * (i % 4))

def State.hmScores (s : State) (xs : List Nat) : List Nat := xs.zipIdx.map fun p => min 255 (p.1 * s.hmWeight p.2 / 16)

/-- Scores packed four to a word. -/
def packScores (ss : List Nat) : Nat := (ss.take 4).zipIdx.foldl (fun a p => a + p.1 * 2 ^ (8 * p.2)) 0

/-- A threshold at an evaluation: whether it is crossed, and whether it is disarmed afterwards (R487). -/
def threshold (risk level hyst : Nat) (fired : Bool) : Bool × Bool :=
  if fired then (false, !decide (risk + hyst < level)) else (decide (level ≤ risk), decide (level ≤ risk))

/-- The record of a crossed threshold (R489). -/
def State.crossed (s : State) (detail risk : Nat) : State :=
  s.event 0 0 0x0A04 detail [BitVec.ofNat 32 risk, BitVec.ofNat 32 (packScores (s.safe.scores.take 4)),
    BitVec.ofNat 32 (packScores (s.safe.scores.drop 4))]

def State.evaluate (s : State) : State :=
  let s := s.rollWindow
  let xs := s.hmInputs
  let ss := s.hmScores xs
  let risk := min 255 (ss.foldl (· + ·) 0)
  let s := xs.zipIdx.foldl (fun (s : State) p => s.setReg (Reg.hmInput p.2) (BitVec.ofNat 32 (min p.1 0xFFFFFFFF))) s
  let s := { s with safe := { s.safe with scores := ss } }
  let c := threshold risk (s.fld F.hmCkpt) (s.fld F.hmHyst) (s.flag F.hmCFired)
  let q := threshold risk (s.fld F.hmQuiesce) (s.fld F.hmHyst) (s.flag F.hmQFired)
  let s := ((s.setFld F.hmRiskVal risk).setFld F.hmCFired c.2.toNat).setFld F.hmQFired q.2.toNat
  if q.1 then
    ({ s.crossed 1 risk with safe := { (s.crossed 1 risk).safe with ckptReq := false } }).askQuiesce 2
  else if c.1 then
    let s := s.crossed 0 risk
    { s with safe := { s.safe with ckptReq := true } }
  else s

/-- A request is due at once: no COMMIT is accepted and uncompleted (R488). -/
def State.requestDue (s : State) : Bool := s.safe.ckptReq && !s.cmds.any fun m => m.opcode == 0x60

/-- Every 1 ms (R486). A request is served here where no COMMIT is accepted; else the end of a COMMIT serves it (R488). -/
def healthMonitor (s : State) : State :=
  if s.bar0Open = false then s else
  let s := s.evaluate
  if s.requestDue then s.serveRequest else s

def execHealthMonitorEvaluation (s : State) : Host.Outcome State Fault Refusal := fin (healthMonitor s)

/-! ### HM_SNAPSHOT (R495) -/

/-- Its tensor: FORMAT and BAD_DESCRIPTOR as for a generator image. -/
def State.snapArg (s : State) (m : Cmd) : Except Status Tensor := do
  let t ← s.tensorArg m 4
  need (t.fmt == 7) (badFormat 4 t.fmt)
  need (t.ndim == 1 && decide (16 ≤ t.size 0)) (badDesc t.at_)
  pure t

def State.snapWords (s : State) : List Nat :=
  [s.fld F.hmRiskVal] ++ ((List.range 8).map fun i => (s.reg (Reg.hmInput i)).toNat) ++
    [packScores (s.safe.scores.take 4), packScores (s.safe.scores.drop 4)] ++ List.replicate 5 0

def snapshotCmd (m : Cmd) (s : State) : State :=
  match s.snapArg m with
  | .error st => s.refuse m.id st
  | .ok t =>
    let r := s.writeElems t ((t.run 0 16).zip s.snapWords)
    match r.2 with
    | some x => r.1.complete m.id (uncorrAt x.1 x.2)
    | none => r.1.complete m.id okStatus

def runSnapshot (c : CmdId) (s : State) : State := s.run c 0xA2 snapshotCmd

def execHmSnapshot (c : CmdId) (s : State) : Host.Outcome State Fault Refusal := fin (runSnapshot c s)

/-! ### HM.LOG_CFG (R497) -/

def logConfig (v : W) (s : State) : State :=
  let on := bits v 31 31
  if s.flag F.logEnable then s.setFld F.logEnable on else
  let s := (s.setFld F.logSize (max 12 (min 30 (bits v 4 0)))).setFld F.logEnable on
  if on = 1 then s.setReg Reg.hmLogProd 0 else s

def runLogCfg (v : W) (s : State) : State := s.regWrite Reg.hmLogCfg v (logConfig v)

def execHmLogCfgWrite (_path : Path) (value : W) (s : State) : Host.Outcome State Fault Refusal := fin (runLogCfg value s)

end Sys2Proof.Machine
end

