-- ==== Sys2Proof/Machine/Accept.lean ====
section
/-! DEFINITION. PACKET_DECODE: the decision records of the two control dies (R104, R105), the acceptance of a command with its
total and its Ledger entry (R112, R584), and the checks of its chapter at acceptance. -/

namespace Sys2Proof.Machine

/-! ### The command a packet makes -/

/-- What a command takes from the registers and tables at acceptance: a program's Attic regions (R298), a COMMIT's lock_lead in
ns (R405, R417), the pending records of a LOG_MERGE of all (R187). -/
def State.acceptAux (s : State) (op : Nat) : List Nat :=
  if op = 0x40 ∨ op = 0x80 then (List.range 16).map fun h => (s.reg (Reg.hall h 0x240)).toNat
  else if op = 0x60 then [1000 * max 25 (s.fld F.cmtLead), 0]
  else if op = 0x34 then [s.erm.logCount]
  else []

/-- Units of a command as its acceptance counts them (R111, R112; assumption 27). -/
def State.acceptTotal (s : State) (m : Cmd) : Nat :=
  match m.opcode with
  | 0x34 => upDiv (if m.word 4 = 0 then s.erm.logCount else m.word 4) 1024
  | 0x60 => s.commitTotal m
  | 0x72 => match s.streamReady with
    | some (p, _) => (s.streamSegs p (m.bits 4 0 0 == 1 || s.flag F.fullNext)).length
    | none => 1
  | _ => m.units

/-- The command a packet makes. -/
def State.cmdOf (s : State) (n : Nat) (ws : List W) (frame : Option (BitVec 48)) (hostErr : Option Nat) : Cmd :=
  let op := wbits ws 0 31 24
  let words := ws.take (wbits ws 0 19 16 + 1)
  let m : Cmd :=
    { id := ⟨n, wbits ws 0 15 0⟩, opcode := op, flags := wbits ws 0 23 20, job := wbits ws 1 31 16, words := words,
      order := s.arb.accepted, cap := s.capture op words hostErr, accAt := s.tb.stime,
      t := if wbits ws 0 22 22 = 1 then wordAt ws 2 + 2 ^ 32 * wordAt ws 3 else 0, frame := frame,
      aux := s.acceptAux op }
  { m with total := max 1 (s.acceptTotal m) }

/-! ### The checks of the chapters (R584 check 5) -/

/-- What runs a command of an opcode, where its chapter checks it at acceptance. -/
def runOf (opcode : Nat) : Option (CmdId → State → State) :=
  match opcode with
  | 0x01 => some runWaitRing
  | 0x10 => some runCopy
  | 0x11 => some runFill
  | 0x20 => some runSample
  | 0x21 => some runGraphVerify
  | 0x30 => some runTableOpen
  | 0x31 => some runTableClose
  | 0x32 => some runGatherRun
  | 0x33 => some runTierPass
  | 0x35 => some runMigrate
  | 0x36 => some runMigrateSwitch
  | 0x37 => some runTableWrite
  | 0x38 => some runTableStage
  | 0x39 => some runTableRebuild
  | 0x3A => some runTableSwitch
  | 0x40 => some runProgramRun
  | 0x41 => some runMatmul
  | 0x48 => some runEncode
  | 0x49 => some runSparseVerify
  | 0x50 => some runChainRun
  | 0x51 => some runGenLoad
  | 0x52 => some runGenSave
  | 0x60 => some fun c => runCommit c false
  | 0x70 => some runBuddySet
  | 0x71 => some runCkptPlan
  | 0x75 => some runReadmit
  | 0x80 => some runSlotLaunch
  | 0x90 => some runRouteLoad
  | 0x91 => some runRouteSwitch
  | 0x92 => some runQuench
  | 0x93 => some runXferSend
  | 0x94 => some runXferRecv
  | 0x95 => some runCmapRead
  | 0x96 => some runPortFence
  | 0xA0 => some runModeSet
  | 0xA1 => some runTwinSet
  | 0xA2 => some runSnapshot
  | 0xA3 => some runPerturb
  | _ => none

/-- A status that the checks of a chapter give at acceptance, and not the state in which the work is met: an argument or a
captured block that is wrong, a FILL word with reserved bits, an instant too close to its lock point (R238), and what a program,
a job or a COMMIT claims (R143, R402). -/
def givenAtAcceptance (m : Cmd) (code : Nat) : Bool :=
  code / 2 ^ 12 == 3 || code / 2 ^ 12 == 6 || (m.opcode == 0x11 && code == St.badReserved) ||
    (m.opcode == 0x3A && m.sched && code == St.lateInstant) ||
    (decide (0x2000 ≤ code) && [0x20, 0x32, 0x40, 0x41, 0x50, 0x60, 0x80].contains m.opcode)

/-- The status with which a command has ended before any work of it issued, as its Ledger entry shows. -/
def State.refusedWith (s : State) (m : Cmd) : Option Nat :=
  let a := s.ledgerAddr m.id.ring m.id.seq
  if (s.findCmd m.id).isSome || s.trap.isSome || decide (s.word 3 (a + 4) + s.word 3 (a + 8) ≠ 0) then none
  else some (s.word 3 a % 2 ^ 16)

/-- The checks of a command's chapter, which no fence holds back: a command that fails them ends, any other waits for its turn
(R98, R584; assumption 16). -/
def State.checkNow (s : State) (m : Cmd) : State :=
  match runOf m.opcode with
  | none => s
  | some f =>
    let t := f m.id (s.mapCmd m.id fun m => { m with phase := .checking })
    match t.refusedWith m with
    | some code => if givenAtAcceptance m code then t else s
    | none => s

/-! ### Acceptance -/

/-- Journals and holds an accepted command, then applies the checks of R584; a Ledger entry that cannot be written ends it
(R473, R585). RESTORE clears restore_ok at acceptance (R530), and a COMMIT takes its boundary slot
(R517). -/
def State.accept (s : State) (m : Cmd) : State :=
  let verdict := s.acceptCheck m
  let s := { s with arb := { s.arb with accepted := s.arb.accepted + 1 }, cmds := s.cmds ++ [m] }
  let s := if s.fld F.devState = Dev.ready then s.setDev Dev.running else s
  let j := s.journalled m 0xFFFF 0
  match verdict, j.2 with
  | some st, _ => j.1.failCmd m.id st
  | none, some a => j.1.failCmd m.id (uncorrAt 3 a)
  | none, none => ((if m.opcode = 0x73 then j.1.setFld F.restoreOk 0 else j.1).checkNow m).takeSlot m

/-! ### PACKET_DECODE -/

/-- A packet that cannot be fetched (R583). -/
def State.fetchFailed (s : State) (n tier addr : Nat) (frame : Option (BitVec 48)) : State :=
  let s := (s.consume n).answer n (s.fld (F.ringExpected n)) 0xFF 0 0 (uncorrAt tier addr) false frame
  s.event 7 n 0x6001 0

/-- A packet that fails a check of R100. -/
def State.badPacket (s : State) (n : Nat) (ws : List W) (st : Status) (frame : Option (BitVec 48)) : State :=
  let s := s.bump (F.ringMalformed n)
  let s := s.answer n (wbits ws 0 15 0) (wbits ws 0 31 24) 0 0 st (wbits ws 0 21 21 == 1) frame
  s.event 7 n st.code 0

/-- Control Die A's decision record for a packet (R104): the outcome of its checks, the status, the expected number afterwards,
and the CRC-64 of the work descriptors it releases. -/
def State.decision (s : State) (n : Nat) (ws : List W) (verdict : Option Status) : Decision :=
  let released := if verdict.isNone then Config.workBytes ws else []
  { outcome := verdict.isSome.toNat, status := (verdict.map (·.code)).getD 0, expected := s.fld (F.ringExpected n),
    crc := crc64From 0 released }

/-- The decision records differ: the Health Monitor hears of it, and the Bool asks for QUIESCED at the second within 1 ms
(R105). -/
def State.noteMismatch (s : State) : State × Bool :=
  let again := match s.arb.mismatch with | some t => decide (s.tb.stime ≤ t + 1000000) | none => false
  ({ s with arb := { s.arb with mismatch := some s.tb.stime },
            safe := { s.safe with win6 := s.safe.win6 + 1 } }, again)

/-- A command on which the dies differ: it is accepted and completes with LOCKSTEP; no work of it is released (R105). -/
def State.lockstepCmd (s : State) (m : Cmd) (st : Status) : State :=
  let s := { s with arb := { s.arb with accepted := s.arb.accepted + 1 }, cmds := s.cmds ++ [m] }
  (s.journal m 0xFFFF 0).failCmd m.id st

/-- A packet fetched from ring n: its checks, the compare with Control Die B's record `b`, its acceptance. The Bool asks for
QUIESCED. -/
def State.decodeWords (s : State) (n : Nat) (ws : List W) (frame : Option (BitVec 48)) (b : Option Decision)
    (hostErr : Option Nat) : State × Bool :=
  let v := s.checkPacket n ws
  let s := (s.consume n).setExpected n v.2
  let m := s.cmdOf n ws frame hostErr
  let verdict := v.1 <|> s.acceptCheck m
  let own := s.decision n ws verdict
  match b.filter (· != own), v.1 with
  | none, some a => (s.badPacket n ws a frame, false)
  | none, none => ((s.captureReads (wbits ws 0 31 24) ws hostErr).accept m, false)
  | some d, bad =>
    let r := s.noteMismatch
    let st : Status := ⟨St.lockstep, own.status, d.status⟩
    (if bad.isSome then r.1.badPacket n ws st frame else r.1.lockstepCmd m st, r.2)

/-- One decode. -/
def State.decodeOne (s : State) (b : Option Decision) (hostErr : Option Nat) : State × Bool :=
  if !s.takesBells then (s, false) else
  match s.chooseRing with
  | none => (s, false)
  | some n =>
    let s := s.served n
    match (s.ringx n).mgmt with
    | (src, ws) :: _ => s.decodeWords n ws (some src) b hostErr
    | [] =>
      let p := s.packetAt n
      let r := s.touch p.1 p.2 64
      let failed := r.2.isSome || (p.1 == 5 && (match hostErr with
        | some a => decide (p.2 ≤ a) && decide (a < p.2 + 64)
        | none => false))
      if failed then (r.1.fetchFailed n p.1 p.2 none, false)
      else r.1.decodeWords n (r.1.peekWords p.1 p.2 16) none b hostErr

/-- PACKET_DECODE: a second lockstep mismatch within 1 ms quiesces the device (R105). -/
def packetDecode (b : Option Decision) (hostErr : Option Nat) (s : State) : State :=
  let r := s.decodeOne b hostErr
  if r.2 then r.1.askQuiesce 3 else r.1

def execPacketDecode (b : Option Decision) (hostErr : Option Nat) (s : State) : Host.Outcome State Fault Refusal :=
  fin (packetDecode b hostErr s)

end Sys2Proof.Machine
end

