-- ==== Sys2Proof/Machine/Boot.lean ====
section
/-! DEFINITION. Warm reset and boot (R501 to R507, R560 to R562): the end of the reset actions, watchdogs, the choice of the
firmware image, what happens before READY, and the operating seconds. -/

namespace Sys2Proof.Machine

/-! ### What a reset keeps (R505) -/

/-- Memory without the on-die tiers, and without the Cellar where `cellar` is false. -/
def keptMem (cellar : Bool) (k : Nat) : Bool := decide (4 * 2 ^ 64 ≤ k) || (cellar && decide (3 * 2 ^ 64 ≤ k))

/-- The device with everything that depends on its main supply at its reset value: every register, on-die memory, commands,
rings, time base, fabric, and what only the Cellar holds when `cellar` is false. DESIGN CHOICE (assumption 3): on-die memory,
which R39 leaves undefined after a reset, reads as bytes that nothing has written. -/
def State.blank (s : State) (cellar : Bool) : State :=
  let live := fun (r : ShardRun) => s.red.applies.any fun a => decide (a.cmd.id = r.cmd)
  let red : Red := { applies := s.red.applies, shards := s.red.shards.filter live }
  let e := s.erm
  let erm : Erm := { handles := e.handles, retiring := e.retiring, wins := e.wins, guests := e.guests, logHead := e.logHead,
                     logTail := e.logTail, logCount := e.logCount, lseq := e.lseq }
  let r := s.rst
  let rst : Rst := { retired := r.retired, history := r.history, opsec := r.opsec, opsecSaved := r.opsecSaved, wdA := r.wdA,
                     wdB := r.wdB, wdDue := r.wdDue }
  let ck : Ck := { plan := s.ck.plan, gens := s.ck.gens, last := s.ck.last, held := s.ck.held }
  { pending := s.pending, trap := s.trap, free := s.free, out := s.out, fuses := s.fuses
    mem := s.mem.filter fun p => keptMem cellar p.1
    errs := s.errs.filter fun p => keptMem cellar p.1
    zeroAt := if cellar then s.zeroAt else []
    wear := s.wear
    scrubAge := if cellar then s.scrubAge else []
    red := if cellar then red else {}
    erm := if cellar then erm else {}
    ck := if cellar then ck else { held := s.ck.held }
    rst := rst
    board := { s.board with staged := none } }

/-- The registers that say where the event log stands (R497). -/
def logRegs : List Nat := [Reg.hmLogBaseLo, Reg.hmLogBaseHi, Reg.hmLogCfg, Reg.hmLogProd, Reg.hmLogCons]

/-- The record of a warm reset goes to the log as the reset found it, which the Cellar keeps (R504, R505; assumption 106). -/
def State.resetRecord (s : State) : State :=
  let now := logRegs.map s.reg
  let t := (logRegs.zip s.rst.log).foldl (fun (t : State) q => t.setReg q.1 q.2) s
  let t := t.event 0 0 0x0B04 (s.fld F.cause)
  (logRegs.zip now).foldl (fun (t : State) q => t.setReg q.1 q.2) t

/-- The registers that hold the state of the Cellar's zeroing. -/
def State.keepZeroing (s t : State) : State :=
  let t := (List.range 12).foldl (fun (t : State) k => t.setFld (F.zeroing k) (s.fld (F.zeroing k))) t
  t.setFld F.bootZeroing (s.fld F.bootZeroing)

/-! ### The end of the reset actions (R504 step 5, R116, R364, R493) -/

def resetDone (s : State) : State :=
  if s.fld F.devState ≠ Dev.resetting then s else
  let t := s.keepZeroing (s.blank true)
  let t := (t.setFld F.cause (s.fld F.cause)).setFld F.restoreOk (s.fld F.restoreOk)
  let t := t.setReg (Reg.red 0x30) (s.reg (Reg.red 0x30))
  let t := (List.range 12).foldl (fun (t : State) k => t.setFld (F.selfRefresh k) 1) t
  let t := { t with rst := { t.rst with warmBoot := true, log := logRegs.map s.reg } }
  (t.setFld F.devState Dev.boot).emit (.ibi 1)

def execWarmResetActionsDone (s : State) : Host.Outcome State Fault Refusal := fin (resetDone s)

/-! ### Watchdogs (R506) -/

/-- FAULT_N is asserted, once (R547, R558). -/
def State.assertFault (s : State) : State :=
  if s.board.faultN then s else ({ s with board := { s.board with faultN := true } }).emit (.ibi 3)

/-- The control dies disable the Hall converters: the Halls' rails leave their range, and MOD_PG falls (R506, R542, R543). -/
def State.dropHalls (s : State) : State :=
  { s with rst := { s.rst with hallsOff := true }, halls := s.halls.map fun h => { h with supply := 0 }
           board := { s.board with railsOk := false, modPg := false } }

/-- A watchdog's period ends before READY or RETIRED: Control Die B takes over; after it, both dies give up. The watchdog's
own seconds and the operating seconds begin apart, so the count may be one short (assumption 90). -/
def watchdog (s : State) : State :=
  let st := s.fld F.devState
  if (st ≠ Dev.resetting ∧ st ≠ Dev.boot) ∨ s.rst.opsec + 1 < s.rst.wdDue then s
  else if s.rst.wdB then
    let due := s.rst.opsec + s.resetLimit
    let s := s.beginReset 4
    { s with rst := { s.rst with wdB := false, wdA := true, wdDue := due } }
  else if s.rst.wdA then
    let s := { s with rst := { s.rst with wdA := false } }
    (s.dropHalls.fenceOwn true).assertFault.setDev Dev.failsafe
  else s

def execWatchdogExpiry (s : State) : Host.Outcome State Fault Refusal := fin (watchdog s)

/-! ### The image (R560) -/

/-- An image is valid on a die: its key, its signature and its security version pass. -/
def State.imageOk (s : State) (g : FlashImage) : Bool :=
  decide (g.image.key = s.fuses.keyHash) && g.image.sigOk && decide (s.fuses.minSvn ≤ g.image.svn)

/-- The contents of a slot of a die's boot flash. -/
def State.flashSlot (s : State) (die i : Nat) : Option FlashImage := (s.board.flash.getD die []).getD i none

/-- Puts an image, or nothing, into a slot of both dies. -/
def State.setFlash (s : State) (i : Nat) (g : Option FlashImage) : State :=
  { s with board := { s.board with flash := s.board.flash.map fun l => l.set i g } }

/-- The image of a slot, where it is valid on both dies with the same digest. -/
def State.validImage (s : State) (i : Nat) : Option FwImage :=
  match s.flashSlot 0 i, s.flashSlot 1 i with
  | some a, some b => if s.imageOk a && s.imageOk b && decide (a.digest = b.digest) then some a.image else none
  | _, _ => none

/-- The image with the highest security version boots; ties go to slot 1. The Bool says that one qualified. -/
def State.selectImage (s : State) : State × Bool :=
  let run := fun (i : Nat) (g : FwImage) =>
    ((((s.setFld F.bootCode 0).setFld F.bootSvn g.svn).setFld F.noImage 0).setFld F.bootSlot i, true)
  match s.validImage 0, s.validImage 1 with
  | some a, some b => if a.svn ≤ b.svn then run 1 b else run 0 a
  | some a, none => run 0 a
  | none, some b => run 1 b
  | none, none => ((s.setFld F.bootCode 0xA003).setFld F.noImage 1, false)

/-- Slots of the boot flashes that no longer return what was programmed into them: die and slot. -/
def State.loseSlots (s : State) (lost : List (Nat × Nat)) : State :=
  { s with board := { s.board with flash := lost.foldl (fun l q => l.modify q.1 fun d => d.set q.2 none) s.board.flash } }

/-! ### Before READY (R411, R215, R246, R504, R507) -/

/-- One round of the applies: every engine goes on with its run, and the log makes room for one that waits for it (R206). -/
def State.applyRound (s : State) : State :=
  (List.range 16).foldl (fun s h =>
    let s := applySegment h 0 s
    match s.applyOf h with
    | some a => if a.stalled && s.erm.logCount != 0 then s.mergeOne.1 else s
    | none => s) s

/-- Applies run on until none is left; `n` bounds the rounds. -/
def State.finishApplies : Nat → State → State
  | 0, s => s
  | n + 1, s => if s.red.applies.isEmpty then s else finishApplies n s.applyRound

/-- Rounds that finishing every apply takes at most: its segments, its rows, and the merges that make room for these. -/
def State.applyRounds (s : State) : Nat :=
  let sum := fun (l : List Nat) => l.foldl (· + ·) 0
  s.erm.logCount + sum (s.red.applies.map fun a => sum (a.todo.map fun pos =>
    match s.runAt a pos with
    | some r => s.shardSegments (a.cmd.shard pos) a.engine r + 2 * r.rows.length + 1
    | none => denseSegs (a.cmd.shard pos) + 1))

/-- Versions that a warm reset leaves: those in force (R246). Freed records are those no directory names (R186). -/
def State.dropVersions (s : State) : State :=
  { s with erm := { s.erm with
      handles := (s.erm.handles.filter fun h => h.role == .main).map fun h => { h with locked := none, since := 0 }
      retiring := [] } }

/-- A counted reset lies within the window (R507). -/
def State.countedResets (s : State) : Nat :=
  (s.rst.history.filter fun h => decide (s.rst.opsec ≤ h + (s.reg Reg.rstWindow).toNat)).length

def State.mustRetire (s : State) : Bool :=
  s.rst.retired || (s.fld F.resetLimit != 0 && decide (s.fld F.resetLimit ≤ s.countedResets))

/-- The applies of a warm boot go on to their end (R411); their multicasts are not sent (assumption 53). -/
def State.resumeApplies (s : State) : State :=
  let s := s.finishApplies s.applyRounds
  { s with fab := { s.fab with outq := s.fab.outq.filter fun p => p.type != .mcast } }

/-- The rest of the recovery work of a warm boot (R215, R246). -/
def State.recover (s : State) : State :=
  (s.cancelWins s.erm.wins).dropVersions.resetRecord

/-- Every Cellar stack begins its zeroing (R562). -/
def State.beginZeroing (s : State) : State :=
  let s := (List.range 12).foldl (fun (s : State) k => s.setFld (F.zeroing k) 1) s
  s.setFld F.bootZeroing 1

/-- Boot ends in READY or RETIRED (R501); a RETIRED package fences its ports (R426). -/
def State.enterReady (s : State) : State :=
  let s := (List.range 12).foldl (fun (s : State) k => s.setFld (F.selfRefresh k) 0) s
  let s := if s.rst.warmBoot then s.recover else s
  let retire := s.mustRetire
  let s := { s with rst := { s.rst with retired := retire, warmBoot := false, wdA := false, wdB := false }
                    board := { s.board with configOk := true, romServes := false }
                    safe := { s.safe with ckptAt := s.tb.stime } }
  (if retire then s.fenceOwn true else s).setDev (if retire then Dev.retired else Dev.ready)

/-- What follows the choice of the image (R561): after a power-on, the zeroing of the Cellar begins. Boot ends once no apply of
before is left: one that waits for a row elsewhere, or for a record, keeps the device in BOOT (R411, assumption 53). -/
def State.leaveBoot (s : State) : State :=
  let s := if s.rst.warmBoot then s.resumeApplies else s.beginZeroing
  if s.rst.warmBoot && !s.red.applies.isEmpty then s else s.enterReady

/-- Boot: the image is chosen; with none the device stays in BOOT, and after a power-on its boot ROM serves. -/
def bootDone (lost : List (Nat × Nat)) (s : State) : State :=
  if s.fld F.devState ≠ Dev.boot then s else
  let r := (s.loseSlots lost).selectImage
  if r.2 then r.1.leaveBoot
  else if r.1.rst.warmBoot then r.1
  else { r.1 with board := { r.1.board with romServes := true } }

def execBootComplete (lost : List (Nat × Nat)) (s : State) : Host.Outcome State Fault Refusal := fin (bootDone lost s)

/-! ### Operating seconds (R507) -/

/-- The count is written to the system area every 60 s. The stacks' scrub ages advance with main supply (R580). -/
def opSecond (s : State) : State :=
  if s.fld F.devState = Dev.off then s else
  let n := s.rst.opsec + 1
  let saved := if s.rst.opsecSaved + 60 ≤ n then n else s.rst.opsecSaved
  let s := { s with rst := { s.rst with opsec := n, opsecSaved := saved } }
  if s.powered then
    { s with scrubAge := (List.range 12).foldl (fun (t : Tab Nat) k => Tab.put noErr t k (Tab.get noErr t k + 1)) s.scrubAge }
  else s

def execOperatingSecondTick (s : State) : Host.Outcome State Fault Refusal := fin (opSecond s)

/-! ### RST.CTL (R533) -/

def runWarmRequest (v : W) (s : State) : State :=
  s.regWrite Reg.rstCtl v fun s => if bits v 0 0 = 1 then s.askReset 2 else s

def execRstCtlWarm (_path : Path) (value : W) (s : State) : Host.Outcome State Fault Refusal := fin (runWarmRequest value s)

end Sys2Proof.Machine
end

