-- ==== Sys2Proof/Machine/Views.lean ====
section
/-! DEFINITION. Reads of BAR0 registers (R554, R565, R567, R570, R573): the stored word, or what the register reports of
state kept elsewhere. -/

namespace Sys2Proof.Machine

/-- CTL.PART_ID (R2). -/
def State.partId (s : State) : Nat :=
  0x2160 * 2 ^ 16 + (if s.fuses.gradeB then 0xB else 0xA) * 2 ^ 12 + s.fuses.stepping % 16 * 2 ^ 8 + s.galleries

/-- HALL.GALLERY_MAP (R21). -/
def State.galleryMap (s : State) (h : Nat) : Nat := s.galleries * 2 ^ 27 + s.fuses.galleryEnable.getD h 0 % 2 ^ 21

/-- SMP.STATUS (R177): bit s of busy while sampler s of the Hall runs a job. -/
def State.smpStatus (s : State) (h : Nat) : Nat :=
  let ops := (s.busyCmds.flatMap (·.ops)).filter fun o => o.unit == .sampler && o.hall == h
  let busy := (List.range 8).filter fun n => ops.any fun o => o.stage == .issued && o.sampler == n
  min 255 (ops.filter fun o => o.stage == .waiting).length * 2 ^ 16 + (busy.map fun n => 2 ^ n).foldl (· + ·) 0

/-- MEM.STATUS.wear (R579): percent of 5,475 TiB. -/
def State.wearPercent (s : State) (k : Nat) : Nat := min 255 (Tab.get noErr s.wear k * 100 / (5475 * 2 ^ 40))

/-- A Hall window's register. -/
def State.readHall (s : State) (h r : Nat) : Nat :=
  let stored := (s.reg (Reg.hall h r)).toNat
  if r = 0 then s.galleryMap h
  else if r = 0x24 then s.hallMinRate h * 2 ^ 16 + s.hallCurRate h
  else if 0x100 ≤ r ∧ r < 0x150 ∧ s.galleries ≤ (r - 0x100) / 4 then 0
  else if r = 0x300 then s.smpStatus h
  else if r = 0x604 then s.seed.toNat % 2 ^ 32
  else if r = 0x608 then s.seed.toNat / 2 ^ 32
  else stored

/-- RING_STATUS (R121). -/
def State.ringStatus (s : State) (n : Nat) : Nat :=
  let w := setBits (s.reg (Reg.ring n + 0xC)) 15 15 (!(s.cmds.any fun m => m.id.ring == n)).toNat
  (setBits w 12 12 (s.ledgerWaits n).toNat).toNat

/-- A register outside the Hall windows. -/
def State.readPlain (s : State) (path : Path) (off : Nat) : Nat :=
  let stored := (s.reg off).toNat
  let w := off / 0x10000
  let r := off % 0x10000
  if off = 0 then s.partId
  else if off = 4 then portOf path
  else if perPort off then (s.portReg (portOf path) off).toNat
  else if off = 0x10008 then s.tb.stime % 2 ^ 32
  else if off = Reg.rstState then (setBits (s.reg off) 23 16 (min 255 s.countedResets)).toNat
  else if off = Reg.rstOpsecLo then s.rst.opsec % 2 ^ 32
  else if off = Reg.rstOpsecHi then s.rst.opsec / 2 ^ 32
  else if off = 0x60008 then s.fuses.mac.toNat % 2 ^ 32
  else if off = 0x6000C then s.fuses.mac.toNat / 2 ^ 32
  else if w = 7 ∧ r < 0x300 ∧ r % 0x40 = 0 then (setBits (s.reg off) 7 0 (s.wearPercent (r / 0x40))).toNat
  else if w = 7 ∧ r < 0x300 ∧ r % 0x40 = 0x14 then min 0xFFFFFFFF (Tab.get noErr s.scrubAge (r / 0x40) / 60)
  else if off = Reg.erm 0xC then (setBits (setBits (s.reg off) 30 30 0) 29 0 (min (2 ^ 30 - 1) s.erm.logCount)).toNat
  else if w = 8 ∧ 0x400 ≤ r ∧ r < 0x800 then s.verHandle ((r - 0x400) / 4)
  else if w = 8 ∧ 0x100 ≤ r ∧ r < 0x300 ∧ r % 0x20 = 0x10 then (s.freeRecs ((r - 0x100) / 0x20)).length
  else if w = 9 ∧ 0x400 ≤ r ∧ r < 0x800 then min 0xFFFFFFFF (s.shiftOf ((r - 0x400) / 4) / 1000)
  else if off = Reg.fab 0x14 ∨ off = Reg.fab 0x18 then s.inflight ((r - 0x14) / 4)
  else if w = 0x20 ∧ r % 0x20 = 0xC then s.ringStatus (r / 0x20)
  else if w = 0x21 ∧ r % 0x20 = 0xC then s.ringStatus (2048 + r / 0x20)
  else stored

/-- The value a register read returns. During BOOT only PART_ID, RST.STATE and the boot window are served; an offset that
no register occupies reads 0. -/
def State.readReg (s : State) (path : Path) (off : Nat) : Nat :=
  let served := s.bar0Open || (s.bar0Boot && (off == 0 || off == Reg.rstState || off / 0x10000 == 5))
  if !served || (regSpec off).isNone then 0
  else if 0x1000000 ≤ off then s.readHall ((off - 0x1000000) / 0x10000) (off % 0x10000)
  else s.readPlain path off

end Sys2Proof.Machine
end

