-- ==== Sys2Proof/Machine/Writes.lean ====
section
/-! DEFINITION. Register writes (R7, R565 to R571): the clears of counters, the configuration of rings, pools and logs, the
firmware registers (R563, R564), and a write of any register by any path. -/

namespace Sys2Proof.Machine

/-! ### Clears (R569) -/

/-- A clr field: a 1 sets the listed registers to 0. -/
def State.clrWrite (s : State) (off : Nat) (v : W) (regs : List Nat) : State :=
  s.regWrite off v fun s => if bits v 0 0 = 1 then s.clear regs else s

/-- n registers from an offset on. -/
def regRun (off n : Nat) : List Nat := (List.range n).map fun i => off + 4 * i

def runHsClr (h : Nat) (v : W) (s : State) : State := s.clrWrite (Reg.hall h 0x208) v (regRun (Reg.hall h 0x20C) 7)

def execHsStallCtlClr (_path : Path) (h : Nat) (value : W) (s : State) : Host.Outcome State Fault Refusal :=
  fin (runHsClr h value s)

/-- The part of SMP.EDGES_READ below one unit is cleared with it (R179, R569). -/
def runSmpClr (h : Nat) (v : W) (s : State) : State :=
  s.regWrite (Reg.hall h 0x304) v fun s =>
    if bits v 0 0 = 1 then
      { s.clear (regRun (Reg.hall h 0x308) 6) with halls := s.halls.modify h fun x => { x with edgeRem := 0 } }
    else s

def execSmpCtlClr (_path : Path) (h : Nat) (value : W) (s : State) : Host.Outcome State Fault Refusal :=
  fin (runSmpClr h value s)

def runChkClr (h : Nat) (v : W) (s : State) : State := s.clrWrite (Reg.hall h 0x404) v (regRun (Reg.hall h 0x408) 5)

def execChkCtlClr (_path : Path) (h : Nat) (value : W) (s : State) : Host.Outcome State Fault Refusal :=
  fin (runChkClr h value s)

def runSprClr (h : Nat) (v : W) (s : State) : State := s.clrWrite (Reg.hall h 0x508) v (regRun (Reg.hall h 0x50C) 9)

def execSprCtlClr (_path : Path) (h : Nat) (value : W) (s : State) : Host.Outcome State Fault Refusal :=
  fin (runSprClr h value s)

def runVeClr (h : Nat) (v : W) (s : State) : State := s.clrWrite (Reg.hall h 0x610) v (regRun (Reg.hall h 0x614) 5)

def execVeCtlClr (_path : Path) (h : Nat) (value : W) (s : State) : Host.Outcome State Fault Refusal :=
  fin (runVeClr h value s)

def runRedClr (v : W) (s : State) : State := s.clrWrite (Reg.red 0x40) v (regRun (Reg.red 0x44) 9)

def execRedCtlClr (_path : Path) (value : W) (s : State) : Host.Outcome State Fault Refusal := fin (runRedClr value s)

def runFabClr (v : W) (s : State) : State :=
  s.clrWrite (Reg.fab 0x3C) v (regRun (Reg.fab 0x40) 6 ++ (List.range 48).flatMap fun p => regRun (Reg.port p + 0xC) 4)

def execFabCtlClr (_path : Path) (value : W) (s : State) : Host.Outcome State Fault Refusal := fin (runFabClr value s)

def runCkptClr (v : W) (s : State) : State := s.clrWrite Reg.ckptCtl v [Reg.ckptDone, Reg.ckptEnded, Reg.ckptHolds]

def execCkptCtlClr (_path : Path) (value : W) (s : State) : Host.Outcome State Fault Refusal := fin (runCkptClr value s)

def runMemClr (v : W) (s : State) : State :=
  s.clrWrite Reg.memCtl v ((List.range 12).flatMap fun k => regRun (Reg.memBlock k + 4) 4)

def execMemCtlClr (_path : Path) (value : W) (s : State) : Host.Outcome State Fault Refusal := fin (runMemClr value s)

def runErmClr (v : W) (s : State) : State := s.regWrite (Reg.erm 0x1C) v (ermCtl v)

def execErmCtlClr (_path : Path) (value : W) (s : State) : Host.Outcome State Fault Refusal := fin (runErmClr value s)

def runErmVerClr (v : W) (s : State) : State := s.regWrite (Reg.erm 0x310) v (ermVerCtl v)

def execErmVerCtlClr (_path : Path) (value : W) (s : State) : Host.Outcome State Fault Refusal := fin (runErmVerClr value s)

/-! ### Rings, the update log, pools -/

def runRingCfg (n : Nat) (v : W) (s : State) : State :=
  if 4096 ≤ n then s else s.regWrite (Reg.ring n + 8) v (ringCfgWrite n v)

def execRingCfgWrite (_path : Path) (ring : Nat) (value : W) (s : State) : Host.Outcome State Fault Refusal :=
  fin (runRingCfg ring value s)

def runCqCfg (n : Nat) (v : W) (s : State) : State :=
  if 4096 ≤ n then s else s.regWrite (Reg.cq n + 8) v (cqCfgWrite n v)

def execCqCfgWrite (_path : Path) (ring : Nat) (value : W) (s : State) : Host.Outcome State Fault Refusal :=
  fin (runCqCfg ring value s)

def runCqStatus (n : Nat) (v : W) (s : State) : State :=
  if 4096 ≤ n then s else s.regWrite (Reg.cq n + 0xC) v (cqStatusWrite n v)

def execCqStatusWrite (_path : Path) (ring : Nat) (value : W) (s : State) : Host.Outcome State Fault Refusal :=
  fin (runCqStatus ring value s)

def runErmLogCfg (v : W) (s : State) : State := s.regWrite (Reg.erm 8) v (logCfg v)

def execErmLogCfgWrite (_path : Path) (value : W) (s : State) : Host.Outcome State Fault Refusal := fin (runErmLogCfg value s)

def runPoolCfg (n : Nat) (v : W) (s : State) : State :=
  if 16 ≤ n then s else s.regWrite (Reg.ermPool n + 8) v (poolCfg n v)

def execPoolCfgWrite (_path : Path) (pool : Nat) (value : W) (s : State) : Host.Outcome State Fault Refusal :=
  fin (runPoolCfg pool value s)

/-! ### Firmware (R563, R564) -/

/-- FW_RESULT. -/
def State.fwResult (s : State) (code svn busy : Nat) : State :=
  ((s.setFld F.fwCode code).setFld F.fwSvn svn).setFld F.fwBusy busy

/-- The image that software has staged: its bytes in host memory, with what the check of R560 finds in them. -/
def State.stagedImage (s : State) (img : FwImage) : FlashImage :=
  ⟨img, sha384 (s.peek 5 (s.reg64 Reg.fwAddrLo Reg.fwAddrHi) (s.reg Reg.fwLen).toNat)⟩

/-- go: the image is read and verified; a good one is programmed into the slot that is not running, on both dies, which is
invalid until the programming is done. -/
def State.fwGo (s : State) (img : FwImage) : State :=
  let len := (s.reg Reg.fwLen).toNat
  if s.flag F.fwBusy then s
  else if len = 0 ∨ 33554432 < len then s.fwResult St.outOfRange 0 0
  else
    let g := s.stagedImage img
    if !s.imageOk g then s.fwResult St.signature img.svn 0
    else
      let slot := 1 - s.fld F.bootSlot
      let s := s.setFlash slot none
      State.fwResult { s with board := { s.board with staged := some (g, slot) } } 0 img.svn 1

/-- raise_svn: the fused minimum rises to the running image's version. -/
def State.raiseSvn (s : State) : State :=
  { s with fuses := { s.fuses with minSvn := max s.fuses.minSvn (s.fld F.bootSvn) } }

def runFwCtl (v : W) (img : FwImage) (s : State) : State :=
  s.regWrite Reg.fwCtl v fun s =>
    if s.attested then s else
    let s := if bits v 30 30 = 1 then s.raiseSvn else s
    if bits v 31 31 = 1 then s.fwGo img else s

def execFwCtlGo (_path : Path) (value : W) (img : FwImage) (s : State) : Host.Outcome State Fault Refusal :=
  fin (runFwCtl value img s)

/-- A write of raise_svn alone. -/
def runRaiseSvn (v : W) (s : State) : State :=
  s.regWrite Reg.fwCtl v fun s => if !s.attested && bits v 30 30 == 1 then s.raiseSvn else s

def execFwCtlRaiseSvn (_path : Path) (value : W) (s : State) : Host.Outcome State Fault Refusal := fin (runRaiseSvn value s)

/-- Programming ends. Where no image had qualified after a power-on, the choice of R560 is made again. -/
def programDone (flashFailed : Bool) (s : State) : State :=
  match s.board.staged with
  | none => s
  | some (g, slot) =>
    let s := { s with board := { s.board with staged := none } }
    if flashFailed then s.fwResult St.uncorrectable g.image.svn 0
    else
      let s := (s.setFlash slot (some g)).fwResult 0 g.image.svn 0
      if s.board.romServes && s.fld F.devState == Dev.boot then
        let r := (s.setFld F.noImage 0).selectImage
        if r.2 then r.1.leaveBoot else r.1
      else s

def execFirmwareProgramDone (flashFailed : Bool) (s : State) : Host.Outcome State Fault Refusal :=
  fin (programDone flashFailed s)

/-! ### A write of any register -/

/-- A Hall window's register. -/
def State.writeHall (s : State) (path : Path) (h r : Nat) (v : W) : State :=
  match r with
  | 0x00C => runHallCtlClrEcc h v s
  | 0x010 => runPpCtlWrite h v s
  | 0x020 => runRateCtlClrMin h v s
  | 0x208 => runHsClr h v s
  | 0x304 => runSmpClr h v s
  | 0x404 => runChkClr h v s
  | 0x508 => runSprClr h v s
  | 0x610 => runVeClr h v s
  | _ => s.regWrite (Reg.hall h r) v fun s => s.plainWrite path (Reg.hall h r) v

/-- FW_CTL written by a path that brings no verdict on the staged image: the verdict is a free value (assumption 2). -/
def State.writeFwCtl (s : State) (v : W) : State :=
  let f := s.freeWord
  runFwCtl v ⟨s.fuses.keyHash, f.2.toNat % 2 == 1, f.2.toNat / 2 % 256⟩ f.1

/-- A register of the safety, reset, checkpoint or boot window with an effect of its own; none for any other. -/
def State.writeCore (s : State) (path : Path) (off : Nat) (v : W) : Option State :=
  if off = Reg.tbCfg then some (runTbCfgWrite v s)
  else if off = Reg.hmLogCfg then some (runLogCfg v s)
  else if off = Reg.testUnlock then some (runTestUnlock path v s)
  else if 0x20100 ≤ off ∧ off < 0x20180 then some (s.perturbAt off v)
  else if off = Reg.rstCtl then some (runWarmRequest v s)
  else if off = Reg.ckptCtl then some (runCkptClr v s)
  else if off = Reg.fwCtl then some (s.writeFwCtl v)
  else if off = Reg.memCtl then some (runMemClr v s)
  else none

/-- A register of the row manager, reduction or fabric window with an effect of its own. -/
def State.writeUnit (s : State) (off : Nat) (v : W) : Option State :=
  let w := off / 0x10000
  let r := off % 0x10000
  if off = Reg.erm 8 then some (runErmLogCfg v s)
  else if off = Reg.erm 0x1C then some (runErmClr v s)
  else if off = Reg.erm 0x310 then some (runErmVerClr v s)
  else if w = 8 ∧ 0x100 ≤ r ∧ r < 0x300 ∧ r % 0x20 = 8 then some (runPoolCfg ((r - 0x100) / 0x20) v s)
  else if off = Reg.red 0x40 then some (runRedClr v s)
  else if off = Reg.fab 0 then some (runFabIdWrite v s)
  else if off = Reg.fab 0x3C then some (runFabClr v s)
  else if w = 0xA ∧ 0x1000 ≤ r ∧ r < 0x1600 ∧ r % 0x20 = 0 then some (runPortCfgWrite ((r - 0x1000) / 0x20) v s)
  else none

/-- A ring register with an effect of its own. -/
def State.writeRing (s : State) (off : Nat) (v : W) : Option State :=
  if 0x200000 ≤ off ∧ off < 0x220000 ∧ off % 0x20 = 8 then some (runRingCfg ((off - 0x200000) / 0x20) v s)
  else if 0x220000 ≤ off ∧ off < 0x230000 ∧ off % 0x10 = 8 then some (runCqCfg ((off - 0x220000) / 0x10) v s)
  else if 0x220000 ≤ off ∧ off < 0x230000 ∧ off % 0x10 = 0xC then some (runCqStatus ((off - 0x220000) / 0x10) v s)
  else none

/-- A 32-bit write of a register by any path (R568): the effect of its own row, or by access type (R7). -/
def State.writeReg (s : State) (path : Path) (off : Nat) (v : W) : State :=
  if off % 4 ≠ 0 then s
  else if 0x1000000 ≤ off then
    if off < 0x1100000 then s.writeHall path ((off - 0x1000000) / 0x10000) (off % 0x10000) v else s
  else
    match s.writeCore path off v <|> s.writeUnit off v <|> s.writeRing off v with
    | some t => t
    | none => s.regWrite off v fun s => s.plainWrite path off v

def execRegisterWrite (path : Path) (off : Nat) (value : W) (s : State) : Host.Outcome State Fault Refusal :=
  fin (s.writeReg path off value)

/-- An access of a wrong size or alignment (R566, R578). -/
def badAccess (off : Nat) (isWrite : Bool) (s : State) : State :=
  if s.bar0Open || s.bar0Boot then
    let s := (s.setFld F.accBad 1).setFld F.accOffset off
    if isWrite then s else s.emit (.readData 0)
  else s

def execBar0BadAccess (off : Nat) (isWrite : Bool) (s : State) : Host.Outcome State Fault Refusal :=
  fin (badAccess off isWrite s)

end Sys2Proof.Machine
end

