-- ==== Sys2Proof/Machine/Board.lean ====
section
/-! DEFINITION. The module's outside (R537 to R559): supplies and their sequence, trips, the host ports, the management
port, I3C and JTAG. -/

namespace Sys2Proof.Machine

/-! ### Supplies (R541 to R547) -/

def auxInRange (s : State) : State :=
  if s.fld F.devState = Dev.off then
    ({ s with board := { s.board with auxOk := true } }).setDev Dev.standby
  else s

def execAux3v3InRange (s : State) : Host.Outcome State Fault Refusal := fin (auxInRange s)

def auxPg (s : State) : State :=
  if s.board.auxOk then { s with board := { s.board with auxPg := true } } else s

def execAuxPgAssert (s : State) : Host.Outcome State Fault Refusal := fin (auxPg s)

/-- The conditions of R541; the latched input stage stays off (R547). Volts are in units of 10 mV. -/
def State.mayAccept (s : State) (volts : Nat) : Bool :=
  s.fld F.devState == Dev.standby && s.board.auxPg && decide (4000 ≤ volts) && decide (volts ≤ 6000) && s.board.resetN &&
    !s.board.trip && !s.board.accepted && !s.board.latchedOff && s.board.sensors.all fun t => match t with
      | some v => decide (v < 1600)
      | none => true

def mainAccept (volts : Nat) (s : State) : State :=
  if s.mayAccept volts then { s with board := { s.board with accepted := true } } else s

def execMain48vAccept (volts10mV : Nat) (s : State) : Host.Outcome State Fault Refusal := fin (mainAccept volts10mV s)

/-- The state right after a power-on: BOOT, with the Halls at PP1; a host port's link trains where its PERST is deasserted (R543,
R561). -/
def State.powerOn (s : State) : State :=
  let t := s.blank false
  let t := { t with rst := { t.rst with wdA := false, wdB := false }
                    board := { t.board with configOk := false, romServes := false, linkUp := t.board.perst } }
  (t.setFld F.devState Dev.boot).emit (.ibi 1)

/-- The enable of a converter (R542): AUX_PG, main acceptance, no thermal trip, and for a Hall's no disable by the control
dies. -/
def State.stageEnable (s : State) (hall : Bool) : Bool :=
  s.board.auxPg && s.board.accepted && !s.board.trip && !(hall && s.rst.hallsOff)

/-- Every rail is in range, so every converter runs: MOD_PG is released; after an acceptance the device enters BOOT. -/
def modPg (s : State) : State :=
  if s.stageEnable true = false then s else
  let s := { s with board := { s.board with modPg := true, railsOk := true } }
  if s.fld F.devState = Dev.standby then s.powerOn else s

def execModPgRelease (s : State) : Host.Outcome State Fault Refusal := fin (modPg s)

def railOut (s : State) : State := { s with board := { s.board with modPg := false, railsOk := false } }

def execRailOutOfRange (s : State) : Host.Outcome State Fault Refusal := fin (railOut s)

/-- The main supply is gone: no converter runs, what R505 keeps stays, the links and the JTAG chain are at rest, and the device is
in STANDBY. -/
def State.mainOff (s : State) : State :=
  if s.powered then
    let t := s.blank false
    let t := { t with board := { t.board with accepted := false, modPg := false, railsOk := false, configOk := false,
                                              romServes := false, linkUp := [false, false], config := [], jtag := [1, 1],
                                              boundary := [] }
                      halls := t.halls.map fun (h : HallX) => ({ h with supply := 0 } : HallX)
                      rst := { t.rst with wdA := false, wdB := false } }
    (t.setFld F.devState Dev.standby).emit (.ibi 1)
  else { s with board := { s.board with accepted := false, modPg := false } }

/-- The auxiliary domain writes the count in the interval of R544. -/
def State.saveSeconds (s : State) : State := { s with rst := { s.rst with opsecSaved := s.rst.opsec } }

def mainLoss (s : State) : State :=
  if s.fld F.devState = Dev.off then s else if s.board.accepted then s.saveSeconds.mainOff else s

def execMain48vLoss (s : State) : Host.Outcome State Fault Refusal := fin (mainLoss s)

/-- AUX_3V3 is lost: with main accepted R544 applies; else the seconds since the last write are lost (R544, R545). -/
def auxLoss (s : State) : State :=
  if s.fld F.devState = Dev.off then s else
  let s := if s.board.accepted then s.saveSeconds.mainOff else s
  let s := { s with rst := { s.rst with opsec := s.rst.opsecSaved }
                    board := { s.board with auxOk := false, auxPg := false, i3cAddr := none, i3cOff := 0, telem := [],
                                            energy := 0, sensors := List.replicate 44 none, hot := false } }
  s.setFld F.devState Dev.off

def execAux3v3Loss (s : State) : Host.Outcome State Fault Refusal := fin (auxLoss s)

/-- The hardware trip: every enable is removed, the trip latches, the Cellar's contents are lost (R546, R558). -/
def tripFires (sensor : Nat) (s : State) : State :=
  if s.fld F.devState = Dev.off ∨ 42 ≤ sensor ∨ s.board.trip = true then s else
  let s := ({ s with board := { s.board with trip := true, tripSensor := sensor } }).emit (.ibi 2)
  s.mainOff

def execThermalTrip (sensor : Nat) (s : State) : Host.Outcome State Fault Refusal := fin (tripFires sensor s)

def tripClears (s : State) : State := { s with board := { s.board with trip := false, tripSensor := 255 } }

def execThermalTripClear (s : State) : Host.Outcome State Fault Refusal := fin (tripClears s)

/-- The main input stage latches off: FAULT_N, and main is lost (R544, R547). -/
def overcurrent (s : State) : State :=
  if s.board.accepted then
    (({ s with board := { s.board with latchedOff := true } }).assertFault).saveSeconds.mainOff
  else s

def execOvercurrentLatch (s : State) : Host.Outcome State Fault Refusal := fin (overcurrent s)

/-- MAIN_48V is below 20 V. -/
def faultRelease (s : State) : State := { s with board := { s.board with faultN := false, latchedOff := false } }

def execFaultNRelease (s : State) : Host.Outcome State Fault Refusal := fin (faultRelease s)

/-! ### Host ports (R549 to R554) -/

/-- Reset values of a port's configuration space (R549, R551), laid out as the PCI Express base specification does (PRESUMED,
assumption 55): header, PCI Express capability at 0x40, MSI-X at 0x80, AER at 0x100, Resizable BAR at 0x148. -/
def configReset (off : Nat) : Nat :=
  match off with
  | 0x00 => 0x2160 * 2 ^ 16
  | 0x04 => 0x00100000
  | 0x08 => 0x120000 * 2 ^ 8
  | 0x10 => 0x4
  | 0x18 => 0x4
  | 0x20 => 0xC
  | 0x34 => 0x40
  | 0x40 => 0x00028010
  | 0x44 => 0x10008002
  | 0x48 => 0x00002000
  | 0x4C => 0x00000106
  | 0x64 => 0x00030000
  | 0x80 => 0x07FF0011
  | 0x84 => 0x00100000
  | 0x88 => 0x00108000
  | 0x100 => 0x14820001
  | 0x148 => 0x00010015
  | 0x14C => 0x001FC000
  | 0x150 => 0x00000A24
  | _ => 0

def configDefault (k : Nat) : W := BitVec.ofNat 32 (configReset (k % 4096))

/-- A word of a port's configuration space; the vendor identity is Huaroth's. -/
def State.config (s : State) (port off : Nat) : W :=
  let v := Tab.get configDefault s.board.config (4096 * port + off)
  if off = 0 then v ||| BitVec.ofNat 32 (s.fuses.vendorId % 2 ^ 16) else v

/-- The size of a port's BAR4 window in GiB, as a power of 2 (R551). -/
def State.windowLog2 (s : State) (port : Nat) : Nat := min 6 (bits (s.config port 0x150) 13 8 - 10)

/-- Bits of a word of configuration space that a write sets: command, BARs by their sizes, device control, MSI-X control, the
size of BAR4. -/
def State.configRw (s : State) (port off : Nat) : Nat :=
  match off with
  | 0x04 => 0x0546
  | 0x10 => 0xFC000000
  | 0x14 => 0xFFFFFFFF
  | 0x18 => 0xFF000000
  | 0x1C => 0xFFFFFFFF
  | 0x20 => if s.windowLog2 port = 0 then 0xC0000000 else if s.windowLog2 port = 1 then 0x80000000 else 0
  | 0x24 => 0xFFFFFFFF / 2 ^ (s.windowLog2 port - 2) * 2 ^ (s.windowLog2 port - 2)
  | 0x48 => 0x00007FFF
  | 0x80 => 0xC0000000
  | 0x150 => 0x00003F00
  | _ => 0

/-- A port's MSI-X table and PBA, and its configuration space with the BARs, at their reset values. -/
def State.resetPort (s : State) (p : Nat) : State :=
  { s with portRegs := s.portRegs.filter fun e => !(e.1 / 2 ^ 26 == p && decide (0x100000 ≤ e.1 % 2 ^ 26))
           board := { s.board with config := s.board.config.filter fun e => e.1 / 4096 != p } }

def State.setLink (s : State) (p : Nat) (up : Bool) : State :=
  { s with board := { s.board with linkUp := s.board.linkUp.set p up } }

def State.setPerst (s : State) (p : Nat) (high : Bool) : State :=
  { s with board := { s.board with perst := s.board.perst.set p high } }

/-- A port's link trains: the control dies run from BOOT on, and its PERST is deasserted (R561). -/
def State.trainLink (s : State) (p : Nat) : State := s.setLink p (s.powered && s.board.perst.getD p false)

def execPerstAssert (port : Nat) (s : State) : Host.Outcome State Fault Refusal :=
  fin (((s.resetPort port).setPerst port false).setLink port false)

def perstEnd (port : Nat) (s : State) : State := (s.setPerst port true).trainLink port

def execPerstDeassert (port : Nat) (s : State) : Host.Outcome State Fault Refusal := fin (perstEnd port s)

/-- A function-level reset: the port is reset with its link, which trains anew (R550). -/
def functionReset (port : Nat) (s : State) : State := ((s.resetPort port).setLink port false).trainLink port

def execFunctionLevelReset (port : Nat) (s : State) : Host.Outcome State Fault Refusal := fin (functionReset port s)

/-- A write of a word of configuration space; bit 15 of the device control begins a function-level reset. -/
def State.configWrite (s : State) (port off : Nat) (v : W) : State :=
  if off = 0x48 ∧ bits v 15 15 = 1 then functionReset port s else
  let new := merge (s.configRw port off) (s.config port off) v
  let new := if off = 0x150 then clampField 13 8 (fun n => min 16 (max 10 n)) new else new
  { s with board := { s.board with config := Tab.put configDefault s.board.config (4096 * port + off) new } }

/-- A configuration request is retried until the device first leaves BOOT, or its boot ROM serves. -/
def configRequest (req : ConfigReq) (s : State) : State :=
  if !s.powered || !(s.board.linkUp.getD req.port false) then s
  else if !(s.board.configOk || s.board.romServes) then s.emit (.configRetry req.port)
  else match req.value with
    | some v => (s.configWrite req.port req.off v).emit (.configDone req.port 0)
    | none => s.emit (.configDone req.port (s.config req.port req.off))

def execConfigRequestInBoot (req : ConfigReq) (s : State) : Host.Outcome State Fault Refusal := fin (configRequest req s)

/-- Where a port's BAR4 window begins in the Cellar, in GiB: the bits of base below the window's size are taken as 0 (R552). -/
def State.windowBase (s : State) (port : Nat) : Nat :=
  bits (s.portReg port Reg.bar4Base) 10 0 / 2 ^ s.windowLog2 port * 2 ^ s.windowLog2 port

/-- An access through a port's BAR4 window; its bytes count on the port (R236). Nothing lies beyond the window's size. -/
def bar4 (port off : Nat) (isWrite : Bool) (bs : List Byte) (len : Nat) (s : State) : State :=
  if !s.powered || !(s.board.linkUp.getD port false) then s
  else if !s.bar0Open then s.emit (.unsupported port)
  else
    let addr := s.windowBase port * 2 ^ 30 + off
    let n := if isWrite then bs.length else len
    if cellarEnd < addr + n ∨ 2 ^ (30 + s.windowLog2 port) < off + n then s.emit (.unsupported port)
    else if isWrite then (s.addMoved (portResource port false) n).put 3 addr bs
    else
      let r := (s.addMoved (portResource port true) n).touch 3 addr n
      r.1.emit (.bar4Data port (r.1.peek 3 addr n) r.2.isSome)

def execBar4Access (port off : Nat) (isWrite : Bool) (bytes : List Byte) (len : Nat) (s : State) :
    Host.Outcome State Fault Refusal := fin (bar4 port off isWrite bytes len s)

/-! ### The management port (R118, R555, R556) -/

def frameDrop (s : State) : State := if s.mgmtLive then s.dropFrame else s

def execMgmtFrameDrop (s : State) : Host.Outcome State Fault Refusal := fin (frameDrop s)

/-- The broadcast address. -/
def broadcastMac : BitVec 48 := 0xFFFFFFFFFFFF

/-- The port accepts an untagged frame to its own address (R555). -/
def State.ownFrame (s : State) (h : FrameHead) : Bool := !h.tagged && h.dst == s.fuses.mac

/-- An ARP request for MGMT.IPV4, to the port's address or to all, is answered; any other is discarded. -/
def arp (ip : W) (head : FrameHead) (s : State) : State :=
  if !s.mgmtLive then s
  else if (s.ownFrame head || (!head.tagged && head.dst == broadcastMac)) && ip != 0 && s.reg Reg.mgmtIp == ip then
    s.emit (.arpReply ip head.src)
  else s.dropFrame

def execArpRequest (ip : W) (head : FrameHead) (s : State) : Host.Outcome State Fault Refusal := fin (arp ip head s)

/-- A packet of a frame goes to the management ring its header names, while that has room. -/
def State.takeFramePacket (s : State) (src : BitVec 48) (ws : List W) : State × Bool :=
  let n := wbits ws 1 11 0
  if s.flag (F.ringEnable n) && s.fld (F.ringSource n) == 2 && decide (s.pendingCount n < 2 ^ s.fld (F.ringLog2 n)) then
    let x := s.ringx n
    let p := x.prod + 1
    (({ s with arb := { s.arb with arrivals := s.arb.arrivals + 1 } }).setRingx n
      { x with prod := p, mgmt := x.mgmt ++ [(src, ws)], bells := x.bells ++ [(s.arb.arrivals, p)] }, true)
  else (s, false)

/-- A frame of 1 to 16 packets to the port's address; one of which no packet is taken is discarded. -/
def noleug (head : FrameHead) (packets : List (List W)) (s : State) : State :=
  if !s.mgmtLive then s
  else if !s.ownFrame head || !s.takesBells || packets.isEmpty || decide (16 < packets.length) then s.dropFrame
  else
    let r := packets.foldl (fun (a : State × Bool) ws =>
      let q := a.1.takeFramePacket head.src ws
      (q.1, a.2 || q.2)) (s, false)
    if r.2 then r.1 else r.1.dropFrame

def execNoleugFrame (head : FrameHead) (packets : List (List W)) (s : State) : Host.Outcome State Fault Refusal :=
  fin (noleug head packets s)

/-! ### Telemetry and I3C (R557, R558, R576) -/

def telemDefault (_ : Nat) : Byte := 0

def State.telemPut (s : State) (off : Nat) (bs : List Byte) : State :=
  { s with board := { s.board with telem := Tab.puts telemDefault s.board.telem off bs } }

/-- The state word at offset 0x000. -/
def State.stateWord (s : State) : Nat :=
  s.fld F.devState + s.board.auxPg.toNat * 16 + s.board.accepted.toNat * 32 + s.board.trip.toNat * 64 +
    s.board.faultN.toNat * 128 + s.board.tripSensor * 2 ^ 16

/-- A byte of the telemetry space; sensors without a reading read 0x8000. -/
def State.telemByte (s : State) (off : Nat) : Byte :=
  if off < 4 then (leBytes 4 s.stateWord).getD off 0
  else if (0x020 ≤ off ∧ off < 0x078) ∧ (s.board.sensors.getD ((off - 0x020) / 2) none).isNone then
    if off % 2 = 1 then 0x80 else 0
  else if (off = 0x014 ∨ off = 0x015) ∧ ((s.board.sensors.take 16).all (·.isNone)) then if off = 0x015 then 0x80 else 0
  else Tab.get telemDefault s.board.telem off

/-- A signed reading as 16 bits. -/
def code16 (t : Int) : Nat := (t % 65536).toNat

/-- HALL.TEMP takes a reading (R576). -/
def State.hallTemp (s : State) (h : Nat) (t : Int) : State :=
  let s := s.setFld (F.tempCur h) (code16 t)
  if Fp.signed 16 (s.fld (F.tempMax h)) < t then s.setFld (F.tempMax h) (code16 t) else s

/-- Every 1 ms: the values refresh; the hottest Hall junction may raise an interrupt. -/
def telemetry (volts amps watts joules : Nat) (sensors : List Int) (s : State) : State :=
  if s.fld F.devState = Dev.off then s else
  let sensors := (sensors ++ List.replicate 44 (-32768)).take 44
  let energy := s.board.energy + joules
  let hottest := (sensors.take 16).foldl max (-32768)
  let s := s.telemPut 0x004 (leBytes 2 volts ++ leBytes 2 amps ++ leBytes 4 watts ++ leBytes 8 energy ++
    leBytes 2 (code16 hottest))
  let s := s.telemPut 0x020 (sensors.flatMap fun t => leBytes 2 (code16 t))
  let s := { s with board := { s.board with energy := energy
                                            sensors := sensors.map fun t => if t = -32768 then none else some t } }
  let s := if s.powered then (sensors.take 16).zipIdx.foldl (fun s p => s.hallTemp p.2 p.1) s else s
  if s.board.hot then
    if hottest < 1520 then { s with board := { s.board with hot := false } } else s
  else if 1600 ≤ hottest then ({ s with board := { s.board with hot := true } }).emit (.ibi 4)
  else s

def execTelemetryRefresh (volts amps watts joules : Nat) (sensors : List Int) (s : State) :
    Host.Outcome State Fault Refusal := fin (telemetry volts amps watts joules sensors s)

/-- The target's static address (R557). -/
def staticAddress : BitVec 7 := 0x2A

/-- The target takes a dynamic address that ENTDAA gives, or SETDASA to its static address. -/
def dynamicAddress (a : I3cAssign) (s : State) : State :=
  let given := match a with
    | .setdasa static dynamic => if static = staticAddress then some dynamic else none
    | .entdaa dynamic => some dynamic
  match given with
  | some d => if s.board.auxOk then { s with board := { s.board with i3cAddr := some d } } else s
  | none => s

def execI3cDynamicAddress (a : I3cAssign) (s : State) : Host.Outcome State Fault Refusal := fin (dynamicAddress a s)

/-- A misaligned access over I3C writes nothing and reads 0 into the indirect data (R566). -/
def State.indirectBad (s : State) (off : Nat) (isWrite : Bool) : State :=
  let s := (s.setFld F.accBad 1).setFld F.accOffset off
  if isWrite then s else s.telemPut 0x104 (leBytes 4 0)

/-- One BAR0 access at the indirect offset; error, and no access, in the states that do not serve BAR0. -/
def indirectGo (control : W) (s : State) : State :=
  if s.board.auxOk = false ∨ bits control 0 0 = 0 then s
  else if !s.bar0Open then s.telemPut 0x108 (leBytes 4 (2 ^ 30))
  else
    let get := fun (o : Nat) => ofLe (Tab.gets telemDefault s.board.telem o 4)
    let off := get 0x100
    let s := s.telemPut 0x108 (leBytes 4 0)
    if off % 4 ≠ 0 then s.indirectBad off (bits control 1 1 == 1)
    else if bits control 1 1 = 1 then s.writeReg .i3c off (BitVec.ofNat 32 (get 0x104))
    else
      let v := s.readReg .i3c off
      let s := s.telemPut 0x104 (leBytes 4 v)
      if off = 0x10008 then s.setReg 0x1000C (BitVec.ofNat 32 (s.tb.stime / 2 ^ 32)) else s

def execI3cIndirectGo (control : W) (s : State) : Host.Outcome State Fault Refusal := fin (indirectGo control s)

/-- A private write: the offset, then data. The indirect offset and data take bytes; control acts. -/
def privateWrite (off : Nat) (bs : List Byte) (s : State) : State :=
  if s.board.auxOk = false then s else
  let s := { s with board := { s.board with i3cOff := off } }
  let s := bs.zipIdx.foldl (fun (s : State) p =>
    let a := off + p.2
    if 0x100 ≤ a ∧ a < 0x108 then s.telemPut a [p.1] else s) s
  if off ≤ 0x108 ∧ 0x108 < off + bs.length then
    indirectGo (BitVec.ofNat 32 (ofLe ((bs.drop (0x108 - off)).take 4))) s
  else s

def execI3cPrivateWrite (off : Nat) (bytes : List Byte) (s : State) : Host.Outcome State Fault Refusal :=
  fin (privateWrite off bytes s)

/-- A private read returns bytes from the offset given last. -/
def privateRead (len : Nat) (s : State) : State :=
  if s.board.auxOk then s.emit (.i3cData ((List.range len).map fun i => s.telemByte (s.board.i3cOff + i))) else s

def execI3cPrivateRead (len : Nat) (s : State) : Host.Outcome State Fault Refusal := fin (privateRead len s)

/-! ### JTAG (R559) -/

/-- IDCODE of either die. -/
def State.idCode (s : State) : Nat :=
  s.fuses.stepping % 16 * 2 ^ 28 + 0x2160 * 2 ^ 12 + s.fuses.jtagId % 2 ^ 11 * 2 + 1

/-- The low bits of a number, least significant first. -/
def lowBits (n v : Nat) : List Bool := (List.range n).map fun i => v / 2 ^ i % 2 == 1

/-- Boundary contents of a die. -/
def State.setBoundary (s : State) (die : Nat) (scan : List Bool) : State :=
  { s with board := { s.board with boundary := (die, scan) :: s.board.boundary.filter fun b => b.1 != die } }

/-- What an instruction acts as now: EXTEST, CLAMP and HIGHZ (3 to 5) act in BOOT, QUIESCED and RETIRED outside Attested mode, and
else as BYPASS (0). Codes 1 and 2 are IDCODE and SAMPLE/PRELOAD. -/
def State.jtagGated (s : State) (code : Nat) : Nat :=
  let d := s.fld F.devState
  if 3 ≤ code ∧ code ≤ 5 then
    if (d = Dev.boot ∨ d = Dev.quiesced ∨ d = Dev.retired) ∧ s.attested = false then code else 0
  else code

/-- The instruction in force on a die now: that of its TAP, where it may act. -/
def State.jtagInForce (s : State) (die : Nat) : Nat := s.jtagGated (s.board.jtag.getD die 1)

/-- The low-speed signals of R537 that the state holds, as levels: MOD_RESET_N, PERST_A_N, PERST_B_N, and what the device
drives on MOD_PG, FAULT_N and THERMTRIP_N (assumption 57). -/
def State.coreLevels (s : State) : List Bool :=
  [s.board.resetN, s.board.perst.getD 0 true, s.board.perst.getD 1 true, s.board.modPg, !s.board.faultN, !s.board.trip]

/-- The levels at the pins: while EXTEST or CLAMP is in force on a die, its boundary contents drive the outputs; HIGHZ leaves
the open-drain outputs released. -/
def State.pinLevels (s : State) (die : Nat) : List Bool :=
  let core := s.coreLevels
  let scan := ((s.board.boundary.find? fun b => b.1 == die).map (·.2)).getD []
  match s.jtagInForce die with
  | 3 => core.take 3 ++ (List.range 3).map fun i => scan.getD (3 + i) (core.getD (3 + i) true)
  | 4 => core.take 3 ++ (List.range 3).map fun i => scan.getD (3 + i) (core.getD (3 + i) true)
  | 5 => core.take 3 ++ [true, true, true]
  | _ => core

/-- An instruction of IEEE 1149.1 loaded on a die, with what it connects between TDI and TDO: SAMPLE and EXTEST capture the pins,
and take new boundary contents. -/
def State.jtagStandard (s : State) (die code : Nat) (scan : List Bool) : State :=
  let s := { s with board := { s.board with jtag := s.board.jtag.set die code } }
  match s.jtagGated code with
  | 1 => s.emit (.jtagData die (lowBits 32 s.idCode))
  | 2 => (s.setBoundary die scan).emit (.jtagData die (s.pinLevels die))
  | 3 => (s.setBoundary die scan).emit (.jtagData die (s.pinLevels die))
  | _ => s.emit (.jtagData die [false])

/-- JTAG works once MOD_PG is released. A private instruction acts as BYPASS while the test registers are locked; what it
does while they are unlocked the spec does not say. -/
def execJtagInstruction (die code : Nat) (scan : List Bool) (s : State) : Host.Outcome State Fault Refusal :=
  if s.board.modPg = false ∨ 2 ≤ die then .next s
  else if 6 ≤ code then
    if s.flag F.unlocked then .refused .privateJtag else fin (s.jtagStandard die 0 scan)
  else fin (s.jtagStandard die code scan)

end Sys2Proof.Machine
end

