-- ==== Sys2Proof/Machine/Dispatch.lean ====
section
/-! DEFINITION. The one case split over the commands: each arm is one call of the command's meaning. -/

namespace Sys2Proof.Machine

def exec (i : Instr) (s : State) : Host.Outcome State Fault Refusal :=
  match i with
  | .commandRingDoorbell ring access => Sys2Proof.Machine.execCommandRingDoorbell ring access s
  | .completionRingDoorbell ring access => Sys2Proof.Machine.execCompletionRingDoorbell ring access s
  | .packetDecode b hostErr => Sys2Proof.Machine.execPacketDecode b hostErr s
  | .ledgerProgressUpdate ring => Sys2Proof.Machine.execLedgerProgressUpdate ring s
  | .nop c => Sys2Proof.Machine.execNop c s
  | .waitRing c => Sys2Proof.Machine.execWaitRing c s
  | .waitRingSatisfied c => Sys2Proof.Machine.execWaitRingSatisfied c s
  | .waitRingTimeout c => Sys2Proof.Machine.execWaitRingTimeout c s
  | .abortRing c => Sys2Proof.Machine.execAbortRing c s
  | .timeLoad c => Sys2Proof.Machine.execTimeLoad c s
  | .copy c => Sys2Proof.Machine.execCopy c s
  | .fill c => Sys2Proof.Machine.execFill c s
  | .sample c => Sys2Proof.Machine.execSample c s
  | .graphVerify c => Sys2Proof.Machine.execGraphVerify c s
  | .samplerJobStart c op => Sys2Proof.Machine.execSamplerJobStart c op s
  | .samplerJobEnd c op => Sys2Proof.Machine.execSamplerJobEnd c op s
  | .tableOpen c => Sys2Proof.Machine.execTableOpen c s
  | .tableClose c => Sys2Proof.Machine.execTableClose c s
  | .tableCloseComplete c => Sys2Proof.Machine.execTableCloseComplete c s
  | .gatherRun c => Sys2Proof.Machine.execGatherRun c s
  | .tierPass c => Sys2Proof.Machine.execTierPass c s
  | .logMerge c => Sys2Proof.Machine.execLogMerge c s
  | .logMergeAutoStart => Sys2Proof.Machine.execLogMergeAutoStart s
  | .rowWriteLogResume => Sys2Proof.Machine.execRowWriteLogResume s
  | .migrate c => Sys2Proof.Machine.execMigrate c s
  | .migrateSwitch c => Sys2Proof.Machine.execMigrateSwitch c s
  | .migrationWindowClose window => Sys2Proof.Machine.execMigrationWindowClose window s
  | .remoteRowRequest p => Sys2Proof.Machine.execRemoteRowRequest p s
  | .remoteRequestStampRelease => Sys2Proof.Machine.execRemoteRequestStampRelease s
  | .remoteRowResponse p => Sys2Proof.Machine.execRemoteRowResponse p s
  | .nearMemoryAdd c addr isInt vals check => Sys2Proof.Machine.execNearMemoryAdd c addr isInt vals check s
  | .ermLoadWindow => Sys2Proof.Machine.execErmLoadWindow s
  | .tableWrite c => Sys2Proof.Machine.execTableWrite c s
  | .tableStage c => Sys2Proof.Machine.execTableStage c s
  | .tableRebuild c => Sys2Proof.Machine.execTableRebuild c s
  | .tableSwitch c => Sys2Proof.Machine.execTableSwitch c s
  | .tableSwitchLockPoint c => Sys2Proof.Machine.execTableSwitchLockPoint c s
  | .tableVersionRetire c => Sys2Proof.Machine.execTableVersionRetire c s
  | .rebuildMeterWindow => Sys2Proof.Machine.execRebuildMeterWindow s
  | .programRun c => Sys2Proof.Machine.execProgramRun c s
  | .matmul c => Sys2Proof.Machine.execMatmul c s
  | .encode c => Sys2Proof.Machine.execEncode c s
  | .sparseVerify c => Sys2Proof.Machine.execSparseVerify c s
  | .chainRun c => Sys2Proof.Machine.execChainRun c s
  | .genLoad c => Sys2Proof.Machine.execGenLoad c s
  | .genSave c => Sys2Proof.Machine.execGenSave c s
  | .operationIssue c op space idle => Sys2Proof.Machine.execOperationIssue c op space idle s
  | .operationComplete c op fault => Sys2Proof.Machine.execOperationComplete c op fault s
  | .weightTileFetch c hall layer tensor tile => Sys2Proof.Machine.execWeightTileFetch c hall layer tensor tile s
  | .predictorRowBlock c layer mb => Sys2Proof.Machine.execPredictorRowBlock c layer mb s
  | .slotLaunch c => Sys2Proof.Machine.execSlotLaunch c s
  | .commit c => Sys2Proof.Machine.execCommit c s
  | .poison c => Sys2Proof.Machine.execPoison c s
  | .contributionPacket p => Sys2Proof.Machine.execContributionPacket p s
  | .commitLockPoint c => Sys2Proof.Machine.execCommitLockPoint c s
  | .twinTrialPassEnd c idx => Sys2Proof.Machine.execTwinTrialPassEnd c idx s
  | .twinDigestPacket p => Sys2Proof.Machine.execTwinDigestPacket p s
  | .launchTimerFire => Sys2Proof.Machine.execLaunchTimerFire s
  | .applySegment h differ => Sys2Proof.Machine.execApplySegment h differ s
  | .efUpdate => Sys2Proof.Machine.execEfUpdate s
  | .parameterSegment p => Sys2Proof.Machine.execParameterSegment p s
  | .commitCompletion c => Sys2Proof.Machine.execCommitCompletion c s
  | .timePpsInEdge => Sys2Proof.Machine.execTimePpsInEdge s
  | .timePpsOutPulse => Sys2Proof.Machine.execTimePpsOutPulse s
  | .timeTransferTick port => Sys2Proof.Machine.execTimeTransferTick port s
  | .timeTransferWord port words => Sys2Proof.Machine.execTimeTransferWord port words s
  | .ptpMessage m => Sys2Proof.Machine.execPtpMessage m s
  | .tbReferenceLoss => Sys2Proof.Machine.execTbReferenceLoss s
  | .holdoverLimitExpiry => Sys2Proof.Machine.execHoldoverLimitExpiry s
  | .tbCopyCompare drift present off => Sys2Proof.Machine.execTbCopyCompare drift present off s
  | .tbCfgWrite path value => Sys2Proof.Machine.execTbCfgWrite path value s
  | .tbStimeLoRead path => Sys2Proof.Machine.execTbStimeLoRead path s
  | .ppCtlWrite path h value => Sys2Proof.Machine.execPpCtlWrite path h value s
  | .supplySlewDone h => Sys2Proof.Machine.execSupplySlewDone h s
  | .thermalHoldEntry h => Sys2Proof.Machine.execThermalHoldEntry h s
  | .thermalHoldExit h => Sys2Proof.Machine.execThermalHoldExit h s
  | .rateMonitorWindow h rates => Sys2Proof.Machine.execRateMonitorWindow h rates s
  | .rateCtlClrMin path h value => Sys2Proof.Machine.execRateCtlClrMin path h value s
  | .scrubLine tier line write last => Sys2Proof.Machine.execScrubLine tier line write last s
  | .cellarZeroingLine k => Sys2Proof.Machine.execCellarZeroingLine k s
  | .ringCfgWrite path ring value => Sys2Proof.Machine.execRingCfgWrite path ring value s
  | .cqCfgWrite path ring value => Sys2Proof.Machine.execCqCfgWrite path ring value s
  | .cqStatusWrite path ring value => Sys2Proof.Machine.execCqStatusWrite path ring value s
  | .hsStallCtlClr path h value => Sys2Proof.Machine.execHsStallCtlClr path h value s
  | .smpCtlClr path h value => Sys2Proof.Machine.execSmpCtlClr path h value s
  | .ermLogCfgWrite path value => Sys2Proof.Machine.execErmLogCfgWrite path value s
  | .ermCtlClr path value => Sys2Proof.Machine.execErmCtlClr path value s
  | .poolCfgWrite path pool value => Sys2Proof.Machine.execPoolCfgWrite path pool value s
  | .poolDisableComplete pool => Sys2Proof.Machine.execPoolDisableComplete pool s
  | .ermVerCtlClr path value => Sys2Proof.Machine.execErmVerCtlClr path value s
  | .chkCtlClr path h value => Sys2Proof.Machine.execChkCtlClr path h value s
  | .sprCtlClr path h value => Sys2Proof.Machine.execSprCtlClr path h value s
  | .veCtlClr path h value => Sys2Proof.Machine.execVeCtlClr path h value s
  | .redCtlClr path value => Sys2Proof.Machine.execRedCtlClr path value s
  | .fabCtlClr path value => Sys2Proof.Machine.execFabCtlClr path value s
  | .ckptCtlClr path value => Sys2Proof.Machine.execCkptCtlClr path value s
  | .hallCtlClrTemp path h value => Sys2Proof.Machine.execHallCtlClrTemp path h value s
  | .hallCtlClrEcc path h value => Sys2Proof.Machine.execHallCtlClrEcc path h value s
  | .memCtlClr path value => Sys2Proof.Machine.execMemCtlClr path value s
  | .fabIdWrite path value => Sys2Proof.Machine.execFabIdWrite path value s
  | .portCfgWrite path port value => Sys2Proof.Machine.execPortCfgWrite path port value s
  | .hmLogCfgWrite path value => Sys2Proof.Machine.execHmLogCfgWrite path value s
  | .rstCtlWarm path value => Sys2Proof.Machine.execRstCtlWarm path value s
  | .testUnlockWrite path value => Sys2Proof.Machine.execTestUnlockWrite path value s
  | .testUnlockTimeout => Sys2Proof.Machine.execTestUnlockTimeout s
  | .testHallDelayWrite path h value => Sys2Proof.Machine.execTestHallDelayWrite path h value s
  | .testBpWrite path value => Sys2Proof.Machine.execTestBpWrite path value s
  | .testLaneErrWrite path value => Sys2Proof.Machine.execTestLaneErrWrite path value s
  | .testEccInjWrite path value => Sys2Proof.Machine.execTestEccInjWrite path value s
  | .testChkInjWrite path value => Sys2Proof.Machine.execTestChkInjWrite path value s
  | .testTbOffsetWrite path value => Sys2Proof.Machine.execTestTbOffsetWrite path value s
  | .fwCtlGo path value img => Sys2Proof.Machine.execFwCtlGo path value img s
  | .firmwareProgramDone flashFailed => Sys2Proof.Machine.execFirmwareProgramDone flashFailed s
  | .fwCtlRaiseSvn path value => Sys2Proof.Machine.execFwCtlRaiseSvn path value s
  | .registerWrite path off value => Sys2Proof.Machine.execRegisterWrite path off value s
  | .bar0BadAccess off isWrite => Sys2Proof.Machine.execBar0BadAccess off isWrite s
  | .bar4Access port off isWrite bytes len => Sys2Proof.Machine.execBar4Access port off isWrite bytes len s
  | .configRequestInBoot req => Sys2Proof.Machine.execConfigRequestInBoot req s
  | .perstAssert port => Sys2Proof.Machine.execPerstAssert port s
  | .functionLevelReset port => Sys2Proof.Machine.execFunctionLevelReset port s
  | .routeLoad c => Sys2Proof.Machine.execRouteLoad c s
  | .routeBankLoaded bank => Sys2Proof.Machine.execRouteBankLoaded bank s
  | .routeSwitch c => Sys2Proof.Machine.execRouteSwitch c s
  | .routeSwitchLockPoint c => Sys2Proof.Machine.execRouteSwitchLockPoint c s
  | .routeBankIdle bank => Sys2Proof.Machine.execRouteBankIdle bank s
  | .quench c => Sys2Proof.Machine.execQuench c s
  | .xferSend c => Sys2Proof.Machine.execXferSend c s
  | .xferRecv c => Sys2Proof.Machine.execXferRecv c s
  | .xferRequestPacket p => Sys2Proof.Machine.execXferRequestPacket p s
  | .xferReplyPacket p => Sys2Proof.Machine.execXferReplyPacket p s
  | .xferBusyRetry c => Sys2Proof.Machine.execXferBusyRetry c s
  | .xferWritePacket p => Sys2Proof.Machine.execXferWritePacket p s
  | .cmapRead c => Sys2Proof.Machine.execCmapRead c s
  | .cmapRequestPacket p => Sys2Proof.Machine.execCmapRequestPacket p s
  | .cmapWindow waits => Sys2Proof.Machine.execCmapWindow waits s
  | .portFence c => Sys2Proof.Machine.execPortFence c s
  | .packetRoute p source sight => Sys2Proof.Machine.execPacketRoute p source sight s
  | .ackPacket p => Sys2Proof.Machine.execAckPacket p s
  | .ackTimer dst => Sys2Proof.Machine.execAckTimer dst s
  | .stepNotice p inPort => Sys2Proof.Machine.execStepNotice p inPort s
  | .tableVetoNotice p inPort => Sys2Proof.Machine.execTableVetoNotice p inPort s
  | .routeVetoNotice p inPort => Sys2Proof.Machine.execRouteVetoNotice p inPort s
  | .jobAbortNotice p inPort => Sys2Proof.Machine.execJobAbortNotice p inPort s
  | .quenchNotice p inPort => Sys2Proof.Machine.execQuenchNotice p inPort s
  | .pruneNotice p => Sys2Proof.Machine.execPruneNotice p s
  | .unreachableNotice p => Sys2Proof.Machine.execUnreachableNotice p s
  | .deliveryErrorNotice p => Sys2Proof.Machine.execDeliveryErrorNotice p s
  | .fecUncorrectableCodeword port flit => Sys2Proof.Machine.execFecUncorrectableCodeword port flit s
  | .flitReplayRequest port flit => Sys2Proof.Machine.execFlitReplayRequest port flit s
  | .linkErrorWindow port codewords bad corrected => Sys2Proof.Machine.execLinkErrorWindow port codewords bad corrected s
  | .opticalSignalChange port present => Sys2Proof.Machine.execOpticalSignalChange port present s
  | .portTrainingDone port lanes peer peerPort => Sys2Proof.Machine.execPortTrainingDone port lanes peer peerPort s
  | .portTrainingTimeout port => Sys2Proof.Machine.execPortTrainingTimeout port s
  | .peerFenceSignal port fenced => Sys2Proof.Machine.execPeerFenceSignal port fenced s
  | .modeSet c => Sys2Proof.Machine.execModeSet c s
  | .twinSet c => Sys2Proof.Machine.execTwinSet c s
  | .hmSnapshot c => Sys2Proof.Machine.execHmSnapshot c s
  | .perturb c => Sys2Proof.Machine.execPerturb c s
  | .healthMonitorEvaluation => Sys2Proof.Machine.execHealthMonitorEvaluation s
  | .buddySet c => Sys2Proof.Machine.execBuddySet c s
  | .ckptPlan c => Sys2Proof.Machine.execCkptPlan c s
  | .ckptStart c => Sys2Proof.Machine.execCkptStart c s
  | .ckptSegmentSend => Sys2Proof.Machine.execCkptSegmentSend s
  | .ckptSegmentReceive p => Sys2Proof.Machine.execCkptSegmentReceive p s
  | .ckptGenerationCommit p => Sys2Proof.Machine.execCkptGenerationCommit p s
  | .restore c => Sys2Proof.Machine.execRestore c s
  | .pkgReset c => Sys2Proof.Machine.execPkgReset c s
  | .readmit c => Sys2Proof.Machine.execReadmit c s
  | .quiesce c => Sys2Proof.Machine.execQuiesce c s
  | .resume c => Sys2Proof.Machine.execResume c s
  | .abortJob c => Sys2Proof.Machine.execAbortJob c s
  | .quiesceTimeout => Sys2Proof.Machine.execQuiesceTimeout s
  | .modResetNAssert pin => Sys2Proof.Machine.execModResetNAssert pin s
  | .warmResetActionsDone => Sys2Proof.Machine.execWarmResetActionsDone s
  | .watchdogExpiry => Sys2Proof.Machine.execWatchdogExpiry s
  | .bootComplete lost => Sys2Proof.Machine.execBootComplete lost s
  | .operatingSecondTick => Sys2Proof.Machine.execOperatingSecondTick s
  | .aux3v3InRange => Sys2Proof.Machine.execAux3v3InRange s
  | .auxPgAssert => Sys2Proof.Machine.execAuxPgAssert s
  | .main48vAccept volts10mV => Sys2Proof.Machine.execMain48vAccept volts10mV s
  | .modPgRelease => Sys2Proof.Machine.execModPgRelease s
  | .main48vLoss => Sys2Proof.Machine.execMain48vLoss s
  | .aux3v3Loss => Sys2Proof.Machine.execAux3v3Loss s
  | .thermalTrip sensor => Sys2Proof.Machine.execThermalTrip sensor s
  | .thermalTripClear => Sys2Proof.Machine.execThermalTripClear s
  | .overcurrentLatch => Sys2Proof.Machine.execOvercurrentLatch s
  | .telemetryRefresh volts amps watts joules sensors => Sys2Proof.Machine.execTelemetryRefresh volts amps watts joules sensors s
  | .i3cDynamicAddress a => Sys2Proof.Machine.execI3cDynamicAddress a s
  | .i3cPrivateWrite off bytes => Sys2Proof.Machine.execI3cPrivateWrite off bytes s
  | .i3cPrivateRead len => Sys2Proof.Machine.execI3cPrivateRead len s
  | .i3cIndirectGo control => Sys2Proof.Machine.execI3cIndirectGo control s
  | .jtagInstruction die code scan => Sys2Proof.Machine.execJtagInstruction die code scan s
  | .noleugFrame head packets => Sys2Proof.Machine.execNoleugFrame head packets s
  | .arpRequest ip head => Sys2Proof.Machine.execArpRequest ip head s
  | .mgmtFrameDrop => Sys2Proof.Machine.execMgmtFrameDrop s
  | .slotTriggerTimeout c => Sys2Proof.Machine.execSlotTriggerTimeout c s
  | .buddyQueryRequest p => Sys2Proof.Machine.execBuddyQueryRequest p s
  | .buddyQueryResponse p => Sys2Proof.Machine.execBuddyQueryResponse p s
  | .restoreSegmentRequest p => Sys2Proof.Machine.execRestoreSegmentRequest p s
  | .restoreSegmentResponse p => Sys2Proof.Machine.execRestoreSegmentResponse p s
  | .cmapResponsePacket p => Sys2Proof.Machine.execCmapResponsePacket p s
  | .remoteRowWrite p => Sys2Proof.Machine.execRemoteRowWrite p s
  | .gatherRowFetchDone c op entry => Sys2Proof.Machine.execGatherRowFetchDone c op entry s
  | .tileMoveDone c hall layer tensor tile => Sys2Proof.Machine.execTileMoveDone c hall layer tensor tile s
  | .railOutOfRange => Sys2Proof.Machine.execRailOutOfRange s
  | .faultNRelease => Sys2Proof.Machine.execFaultNRelease s
  | .perstDeassert port => Sys2Proof.Machine.execPerstDeassert port s

end Sys2Proof.Machine
end

