-- ==== Sys2Proof/Safety.lean ====
section
/-! DEFINITION. What the statements take for granted of a state between steps, and what they say of a command that ends. -/

namespace Sys2Proof.Machine

/-- Every record of the event log would be written inside the Cellar, or the log is off (R490, R497). -/
def State.LogIn (s : State) : Prop :=
  s.flag F.logEnable = false ∨
    ∀ i, i < 2 ^ (s.fld F.logSize - 5) → s.hasRange 3 (s.reg64 Reg.hmLogBaseLo Reg.hmLogBaseHi + i * 32) 32 = true

/-- No fault is noted, and the event log lies in the Cellar. -/
def State.Calm (s : State) : Prop := s.trap = none ∧ s.LogIn

/-- No fault is noted, no completed command is in hand, no unit of memory is in error and no injection of one is armed. -/
def State.Sound (s : State) : Prop := s.trap = none ∧ s.spentRun = none ∧ s.errs = [] ∧ s.flag F.eccArm = false

/-- Nothing but the register file differs, and there only the listed registers. -/
def OnlyRegs (s t : State) (offs : List Nat) : Prop := { t with regs := s.regs } = s ∧ ∀ o, o ∉ offs → t.reg o = s.reg o

/-- Nothing but what the device has given off and the listed registers differs. -/
def OnlyOut (s t : State) (offs : List Nat) : Prop :=
  { t with regs := s.regs, out := s.out } = s ∧ ∀ o, o ∉ offs → t.reg o = s.reg o

/-- The loss of a port's link aborts no job: the port is not the upstream one, or the package goes on in HOLDOVER, or no action
of system scope is armed (R77, R80, R83, R88). -/
def State.linkFree (s : State) (p : Nat) : Prop :=
  s.fld F.tbUpstream ≠ p ∨ s.fld F.tbHoldover ≠ 0 ∨ s.systemJobs = []

/-- What every step keeps: no fault is left noted, and memory has its canonical form. -/
def State.Inv (s : State) : Prop := s.trap = none ∧ memWf s.mem = true

/-- The counters that a clr row of registers alone clears, with the value written and the offset of its register (R569). -/
def clearsOf : Instr → Option (W × Nat × List Nat)
  | .hsStallCtlClr _ h v => if h < 16 then some (v, Reg.hall h 0x208, regRun (Reg.hall h 0x20C) 7) else none
  | .chkCtlClr _ h v => if h < 16 then some (v, Reg.hall h 0x404, regRun (Reg.hall h 0x408) 5) else none
  | .sprCtlClr _ h v => if h < 16 then some (v, Reg.hall h 0x508, regRun (Reg.hall h 0x50C) 9) else none
  | .veCtlClr _ h v => if h < 16 then some (v, Reg.hall h 0x610, regRun (Reg.hall h 0x614) 5) else none
  | .redCtlClr _ v => some (v, Reg.red 0x40, regRun (Reg.red 0x44) 9)
  | .fabCtlClr _ v =>
    some (v, Reg.fab 0x3C, regRun (Reg.fab 0x40) 6 ++ (List.range 48).flatMap fun p => regRun (Reg.port p + 0xC) 4)
  | .ckptCtlClr _ v => some (v, Reg.ckptCtl, [Reg.ckptDone, Reg.ckptEnded, Reg.ckptHolds])
  | .memCtlClr _ v => some (v, Reg.memCtl, (List.range 12).flatMap fun k => regRun (Reg.memBlock k + 4) 4)
  | .ermCtlClr _ v => some (v, Reg.erm 0x1C, regRun (Reg.erm 0x80) 8)
  | .ermVerCtlClr _ v => some (v, Reg.erm 0x310, [Reg.erm 0x308, Reg.erm 0x30C])
  | _ => none

/-- The test registers' write rows: offset, value, the word that is stored where the write takes effect, and the bits of it
that the register has (R494, R498). -/
def testOf : Instr → Option (Nat × W × W × Nat)
  | .testHallDelayWrite _ h v => if h < 16 then some (Reg.testHallDelay h, v, v, 0xFF) else none
  | .testBpWrite _ v => some (Reg.testBp, v, v, 0xF3F)
  | .testLaneErrWrite _ v => some (Reg.testLaneErr, v, v, 0x001FF1FF)
  | .testEccInjWrite _ v =>
    let bad := 4 < bits v 30 28 ∨ bits v 27 24 = 0 ∨ 6 < bits v 27 24
    some (Reg.testEccInj, v, if bad then setBits v 31 31 0 else v, 0xFF000000)
  | .testChkInjWrite _ v => some (Reg.testChkInj, v, if 4 < bits v 29 27 then setBits v 31 31 0 else v, 0xFFFE3FFF)
  | .testTbOffsetWrite _ v => some (Reg.testTbOffset, v, v, 0xFFFFFFFF)
  | _ => none

/-- A register with no effect of its own beside its stored bits, outside the test block. -/
def plainOff (off : Nat) : Bool :=
  off % 4 == 0 && (if 0x1000000 ≤ off
    then decide (off < 0x1100000) && !([0xC, 0x10, 0x20, 0x208, 0x304, 0x404, 0x508, 0x610].contains (off % 0x10000))
    else (State.reset.writeCore .portA off 0).isNone && (State.reset.writeUnit off 0).isNone && (State.reset.writeRing off 0).isNone)

/-- The event log has room for a record (R491), and the address of its slot (R490). -/
def State.eventRoom (s : State) : Bool := decide ((s.reg Reg.hmLogProd - s.reg Reg.hmLogCons).toNat < 2 ^ (s.fld F.logSize - 5))

def State.eventSlot (s : State) : Nat :=
  s.reg64 Reg.hmLogBaseLo Reg.hmLogBaseHi + (s.reg Reg.hmLogProd).toNat % 2 ^ (s.fld F.logSize - 5) * 32

/-! ### Where a command's outcome goes -/

/-- The completion ring of a command ring takes a reply now. -/
def State.replyOpen (s : State) (ring : Nat) : Bool := s.cqOpen (s.fld (F.ringCq ring))

/-- The tier and the address of the next reply of a command ring (R93, R122). -/
def State.replyTier (s : State) (ring : Nat) : Nat := if s.fld (F.cqTier (s.fld (F.ringCq ring))) = 1 then 3 else 5
def State.replyAt (s : State) (ring : Nat) : Nat := s.cqSlot (s.fld (F.ringCq ring))

/-- The phase bit of the next reply (R106). -/
def State.replyPhase (s : State) (ring : Nat) : Nat :=
  let q := s.fld (F.ringCq ring)
  1 - (s.cqx q).prod.toNat / 2 ^ s.fld (F.cqLog2 q) % 2

/-- The end of a command has no further effect: it is no COMMIT that has taken a slot of the Boundary area (R517) or that a request
of the Health Monitor waits for (R488). -/
def State.EndsBare (s : State) (c : CmdId) : Prop :=
  ∀ m ∈ s.findCmd c, m.opcode = 0x60 → m.aux.getD 1 0 = 0 ∧ s.safe.ckptReq = false

/-- The state can end a command: its Ledger entry and the entry of its reply lie in memory, apart from one another; its end has no
further effect. -/
def State.CanEnd (s : State) (c : CmdId) : Prop :=
  s.Sound ∧ s.EndsBare c ∧ s.hasRange 3 (s.ledgerAddr c.ring c.seq) 32 = true ∧
    (s.replyOpen c.ring = true →
      s.hasRange (s.replyTier c.ring) (s.replyAt c.ring) 32 = true ∧
        (s.replyTier c.ring = 3 →
          s.replyAt c.ring + 32 ≤ s.ledgerAddr c.ring c.seq ∨ s.ledgerAddr c.ring c.seq + 32 ≤ s.replyAt c.ring))

/-- A reply is written: the command is not quiet or its status not OK, and it did not come in a frame (R98, R118). -/
def Cmd.answered (m : Cmd) (st : Status) : Bool := !(m.quiet && st.code == St.ok) && m.frame.isNone

/-- The command as it ends: a success has reached its total (R113). -/
def Cmd.final (m : Cmd) (st : Status) : Cmd := if st.code = St.ok ∨ st.code / 2 ^ 12 = 1 then { m with done := m.total } else m

/-- The command as it begins to run (R112). -/
def Cmd.begun (m : Cmd) (s : State) : Cmd :=
  if m.start ≠ 0 then m else
  { m with start := if m.phase = .checking then max 1 s.tb.stime else s.tb.stime, phase := .running }

/-- A byte of memory lies in the Ledger entry of a command. -/
def State.inLedger (s : State) (c : CmdId) (k : Nat) : Prop :=
  memKey 3 (s.ledgerAddr c.ring c.seq) ≤ k ∧ k < memKey 3 (s.ledgerAddr c.ring c.seq) + 32

/-- A byte of memory lies in the next reply of a ring. -/
def State.inReply (s : State) (ring : Nat) (k : Nat) : Prop :=
  s.replyOpen ring = true ∧ memKey (s.replyTier ring) (s.replyAt ring) ≤ k ∧
    k < memKey (s.replyTier ring) (s.replyAt ring) + 32

/-- From s to t the command m ended with a status: it is accepted no more; its Ledger entry shows marker, status and end
(R111, R112); its reply is written where one is due (R98, R106); and every other byte of memory reads as before. -/
def Ended (s t : State) (m : Cmd) (st : Status) : Prop :=
  t.findCmd m.id = none ∧
  t.bytes 3 (s.ledgerAddr m.id.ring m.id.seq) 32 = wordBytes (ledgerWords (m.final st) st.code s.tb.stime) ∧
  (m.answered st = true → s.replyOpen m.id.ring = true →
    t.bytes (s.replyTier m.id.ring) (s.replyAt m.id.ring) 32 =
      wordBytes (replyWords s m.id.ring m.id.seq m.opcode m.arith.bits (m.final st).done st (s.replyPhase m.id.ring))) ∧
  ∀ k, ¬ s.inLedger m.id k → (m.answered st = true → ¬ s.inReply m.id.ring k) →
    Tab.get memDefault t.mem k = Tab.get memDefault s.mem k

/-- The largest value of a field, at which its count stays (R569). -/
def Fld.top (f : Fld) : Nat := 2 ^ (f.hi + 1 - f.lo) - 1

/-- The command that a row runs now, in a state that can end it. -/
def State.Runs (s : State) (c : CmdId) (op : Nat) (m : Cmd) : Prop := s.runnable c op = some m ∧ s.CanEnd c

/-- The registers an ending may touch: the overflow bit and the lost count of the ring of replies, the lock of a routing
bank, and the device state. -/
def State.endOffs (s : State) (ring : Nat) : List Nat :=
  let q := s.fld (F.ringCq ring)
  [(F.cqOverflow q).off, (F.cqLost q).off, F.rtLock.off, F.devState.off]

/-- From s to t nothing differs but what the ending of a command touches and the listed registers: the command is gone, but for
operations of it that run on; no other command changes, nor the queue, time, the Halls, the generators, the reduction or the
board, nor of the fabric more than a routing bank's lock and the packets kept for a receive. -/
def OnlyEnd (s t : State) (c : CmdId) (offs : List Nat := []) : Prop :=
  { t with cmds := s.cmds, mem := s.mem, moved := s.moved, wear := s.wear, rings := s.rings, cqs := s.cqs, out := s.out,
           portRegs := s.portRegs, regs := s.regs, erm := s.erm, ck := s.ck, spent := s.spent
           fab := { t.fab with locks := s.fab.locks, pieces := s.fab.pieces } } = s ∧
    t.cmds = s.cmds.filter (fun o => decide (o.id ≠ c)) ∧ (∀ n, n ≠ c.ring → t.ringx n = s.ringx n) ∧
    ∀ o, o ∉ s.endOffs c.ring ++ offs → t.reg o = s.reg o

/-- The command ends by a check of its chapter: it has issued no work, so its Ledger entry shows no start (R112). -/
def Refused (s t : State) (m : Cmd) (st : Status) : Prop := Ended s t { m with start := 0 } st

/-- A tensor lies apart from the Ledger entry of a command and from its reply. -/
def State.apart (s : State) (c : CmdId) (t : Tensor) : Prop :=
  t.spread = false ∧ t.sparse = false ∧
    (t.tier ≠ 3 ∨ (s.extent t).2 < s.ledgerAddr c.ring c.seq ∨ s.ledgerAddr c.ring c.seq + 32 ≤ (s.extent t).1) ∧
    (t.tier ≠ s.replyTier c.ring ∨ (s.extent t).2 < s.replyAt c.ring ∨ s.replyAt c.ring + 32 ≤ (s.extent t).1)

/-- No two elements of a tensor share an address. -/
def State.plain (s : State) (t : Tensor) : Prop :=
  ∀ i j, i < t.count → j < t.count → i ≠ j → s.elemAddr t (t.coord i) ≠ s.elemAddr t (t.coord j)

/-- Every byte outside a tensor's extent, a command's Ledger entry and its reply reads as before. -/
def State.restKept (s t : State) (c : CmdId) (x : Tensor) : Prop :=
  ∀ k, ¬ s.inLedger c k → ¬ s.inReply c.ring k → (k < memKey x.tier (s.extent x).1 ∨ memKey x.tier (s.extent x).2 < k) →
    Tab.get memDefault t.mem k = Tab.get memDefault s.mem k

/-- The command has ended, as its Ledger entry shows (R111, R112). -/
def LedgerEnd (s t : State) (m : Cmd) (st : Status) : Prop :=
  t.findCmd m.id = none ∧
    t.bytes 3 (s.ledgerAddr m.id.ring m.id.seq) 32 = wordBytes (ledgerWords (m.final st) st.code s.tb.stime)

/-- A range of the Cellar lies in it, apart from a command's Ledger entry and its reply. -/
def State.clearOf (s : State) (c : CmdId) (addr n : Nat) : Prop :=
  addr + n ≤ cellarEnd ∧ (addr + n ≤ s.ledgerAddr c.ring c.seq ∨ s.ledgerAddr c.ring c.seq + 32 ≤ addr) ∧
    (s.replyTier c.ring = 3 → addr + n ≤ s.replyAt c.ring ∨ s.replyAt c.ring + 32 ≤ addr)

/-- Nothing waits for credit on a link, no credit is withheld, and no POISON waits for its notice. -/
def State.LinksIdle (s : State) : Prop :=
  s.fab.waits = [] ∧ s.fab.owed = [] ∧ s.fab.floods = [] ∧ ∀ m ∈ s.cmds, m.opcode ≠ 0x61

/-- From s to t a flooded notice went to some ports: out at once, or into the queue of those that wait there for the next hop's
credit (R433, R454). -/
def Flooded (s t : State) (p : Pkt) (ports : List Nat) : Prop :=
  ∀ q ∈ ports,
    (s.creditFor p q = true → (∀ f ∈ s.fab.floods, f.1 ≠ q) → Out.packet q p ∈ t.out) ∧
      (s.creditFor p q = false ∨ (∃ f ∈ s.fab.floods, f.1 = q) → (q, p) ∈ t.fab.floods)

/-! ### The update log -/

/-- The oldest record of the log: its address, header words, row and length (R205). -/
def State.oldestAt (s : State) : Nat := s.logBase + s.erm.logTail % s.logSize
def State.oldestHead (s : State) : List W := bytesWords 8 (s.bytes 3 s.oldestAt 32)
def State.oldestRow (s : State) : Nat := wordAt s.oldestHead 1 + 2 ^ 32 * wbits s.oldestHead 0 7 0
def State.oldestLen (s : State) : Nat := 16 * wbits s.oldestHead 0 18 8

/-- The home it names. -/
def State.oldestHome (s : State) : Nat × Nat :=
  (if wbits s.oldestHead 0 23 21 = 1 then 4 else 5, 16 * (wordAt s.oldestHead 2 + 2 ^ 32 * wbits s.oldestHead 3 7 0))

/-- The oldest record lies unbroken in the log, the entry of its row in the table d names it and lies apart from it. -/
def State.mergesInto (s : State) (d : List W) : Prop :=
  s.erm.logCount ≠ 0 ∧ 0 < s.oldestLen ∧ s.oldestAt + 32 + s.oldestLen ≤ s.logBase + s.logSize ∧
    s.logBase + s.logSize ≤ cellarEnd ∧ s.logVersion (wbits s.oldestHead 0 31 24) s.oldestRow = some d ∧
    (s.dir d s.oldestRow).loc = 3 ∧ (s.dir d s.oldestRow).addr16 = s.oldestAt / 16 ∧
    s.hasRange s.oldestHome.1 s.oldestHome.2 s.oldestLen = true ∧ dirAddr d s.oldestRow + 8 ≤ cellarEnd ∧
    (dirAddr d s.oldestRow + 8 ≤ s.oldestAt ∨ s.oldestAt + 32 + s.oldestLen ≤ dirAddr d s.oldestRow)

/-- From s to t the oldest record was merged (R206): its bytes lie at its home, its row's entry names the home and keeps its
other fields, and the record's room in the log is free. -/
def Merged (s t : State) (d : List W) : Prop :=
  t.bytes s.oldestHome.1 s.oldestHome.2 s.oldestLen = s.bytes 3 (s.oldestAt + 32) s.oldestLen ∧
    t.dir d s.oldestRow = { s.dir d s.oldestRow with loc := tierLoc s.oldestHome.1, addr16 := s.oldestHome.2 / 16 } ∧
    t.erm.logTail = s.erm.logTail + 32 + s.oldestLen ∧ t.erm.logCount = s.erm.logCount - 1 ∧ t.erm.logHead = s.erm.logHead ∧
    t.fld (cnt (Reg.erm 0x90)) = min (s.fld (cnt (Reg.erm 0x90)) + 1) 0xFFFFFFFF

end Sys2Proof.Machine
end

