-- ==== Sys2Proof/Certificates/Slice0/Obligations.lean ====
section
/-! DEFINITION. The statements for the provers. -/

open Sys2Proof Sys2Proof.Machine

/-! ### The queue, time and reset -/

/-- A step takes the command at the front of the queue and runs it on the state with the queue's rest. -/
def Obligations.StepRunsFrontCommand : Prop :=
  ∀ (c : Instr) (rest : List Instr) (s : State), step { s with pending := c :: rest } = exec c { s with pending := rest }

/-- On an empty queue a step lets one nanosecond of STIME pass (the model's choice, log entry 36): with no correction or hold
under way and nothing that waits for an instant, STIME advances by 1 and only the time base changes (R71, R79). -/
def Obligations.IdleStepAdvancesTime : Prop :=
  ∀ s : State, s.pending = [] → s.trap = none → s.tb.hold = none → s.tb.slew = 0 → s.tb.skew = 0 → s.tb.pull = 0 → s.cmds = [] →
    s.rst.held = [] → s.tb.stime + 1 < 2 ^ 64 →
    ∃ t, step s = .next t ∧ t.tb.stime = s.tb.stime + 1 ∧ { t with tb := s.tb } = s

/-- Reset leaves the registers at the values their tables state: among them RST.STATE in BOOT and RST.CFG (R533), TB.CFG
(R88), PP_CTL at point 1 (R28), FAB.ID without an identity (R463), the buddy and ward registers (R534), the quiesce and
checkpoint thresholds (R497), and the lock of the test registers (R498). No command waits or is accepted. -/
def Obligations.ResetLeavesStatedValues : Prop :=
  State.reset.fld F.devState = 2 ∧ State.reset.fld F.cause = 0 ∧ State.reset.fld F.resetLimit = 4 ∧
    State.reset.fld F.resetTimeout = 10 ∧ State.reset.fld F.quiesceTimeout = 10 ∧ State.reset.reg Reg.rstWindow = 86400 ∧
    State.reset.fld F.pdom = 0xFFFF ∧ State.reset.fld F.tbHoldover = 10 ∧ State.reset.fld F.tbPpsEn = 1 ∧
    State.reset.fld F.tbRole = 0 ∧ State.reset.fld F.package = 0xFFFF ∧ State.reset.fld F.unlocked = 0 ∧
    State.reset.fld F.attested = 0 ∧
    (∀ h, h < 16 → State.reset.fld (F.ppTarget h) = 1 ∧ State.reset.fld (F.ppCurrent h) = 1 ∧
      State.reset.fld (F.thermalHold h) = 0) ∧
    (∀ p, p < 48 → State.reset.fld (F.portState p) = 0) ∧
    (∀ n, n < 4096 → State.reset.fld (F.ringEnable n) = 0 ∧ State.reset.fld (F.cqEnable n) = 0) ∧
    State.reset.pending = [] ∧ State.reset.cmds = []

/-- The state after reset keeps the invariant of every step, and no byte of memory is listed: each reads 0 (the model's choice
where the spec gives no contents, log entry 3). -/
def Obligations.ResetKeepsInvariant : Prop :=
  State.reset.Inv ∧ ∀ k, Tab.get memDefault State.reset.mem k = 0

/-- Every step that answers a next state keeps the invariant: memory stays in its canonical form, whatever the command, and no
access to an address that does not exist is left noted. -/
def Obligations.EveryStepKeepsInvariant : Prop :=
  ∀ s t : State, s.Inv → step s = .next t → t.Inv

/-! ### Clears of counters -/

/-- A write of 1 to a clr field that reaches its register sets each counter the register names to 0; a write of 0 clears none;
no other register, and nothing but registers, changes (R569 and each count's own table), but for the part of a Hall's
SMP.EDGES_READ below one unit, which its counter's clear sets to 0 too (R178). HALL.CTL: clr_temp sets TEMP.max to TEMP.cur,
clr_ecc sets ECC_CORR and ECC_UNCORR to 0 (R575); RATE_CTL.clr_min sets every min_rate of the Hall to 0xFFFF and leaves each
cur_rate (R36). -/
def Obligations.ClearsActOnTheirCounters : Prop :=
  ((∀ (i : Instr) (s : State) (v : W) (off : Nat) (counters : List Nat), clearsOf i = some (v, off, counters) →
      s.trap = none → s.reaches off = true →
      ∃ t, exec i s = .next t ∧ (bits v 0 0 = 1 → ∀ o ∈ counters, t.reg o = 0) ∧
        OnlyRegs s t (if bits v 0 0 = 1 then counters else [])) ∧
    (∀ (path : Path) (h : Nat) (v : W) (s : State), h < 16 → s.trap = none → s.reaches (Reg.hall h 0x304) = true →
      ∃ t, exec (.smpCtlClr path h v) s = .next t ∧
        (bits v 0 0 = 1 → (∀ o ∈ regRun (Reg.hall h 0x308) 6, t.reg o = 0) ∧ (t.halls.getD h {}).edgeRem = 0) ∧
        (bits v 0 0 = 0 → t = s) ∧ (∀ k, k ≠ h → t.halls.getD k {} = s.halls.getD k {}) ∧
        { t.halls.getD h {} with edgeRem := (s.halls.getD h {}).edgeRem } = s.halls.getD h {} ∧
        OnlyRegs s { t with halls := s.halls } (regRun (Reg.hall h 0x308) 6))) ∧
  ((∀ (i : Instr) (path : Path) (h : Nat) (v : W) (s : State),
      i = .hallCtlClrTemp path h v ∨ i = .hallCtlClrEcc path h v → h < 16 → s.trap = none → s.bar0Open = true →
      ∃ t, exec i s = .next t ∧
        t.fld (F.tempMax h) = (if bits v 1 1 = 1 then s.fld (F.tempCur h) else s.fld (F.tempMax h)) ∧
        t.fld (F.tempCur h) = s.fld (F.tempCur h) ∧
        t.fld (F.eccCorr h) = (if bits v 0 0 = 1 then 0 else s.fld (F.eccCorr h)) ∧
        t.fld (F.eccUncorr h) = (if bits v 0 0 = 1 then 0 else s.fld (F.eccUncorr h)) ∧
        OnlyRegs s t [Reg.hall h 4, Reg.hall h 8, Reg.hall h 0x14]) ∧
    (∀ (path : Path) (h : Nat) (v : W) (s : State), h < 16 → s.trap = none → s.bar0Open = true →
      ∃ t, exec (.rateCtlClrMin path h v) s = .next t ∧
        (∀ g, g < 20 → t.fld (F.minRate h g) = (if bits v 0 0 = 1 then 0xFFFF else s.fld (F.minRate h g)) ∧
          t.fld (F.curRate h g) = s.fld (F.curRate h g)) ∧
        (bits v 0 0 = 1 → t.hallMinRate h = 0xFFFF) ∧
        OnlyRegs s t ((List.range 20).map fun g => Reg.hall h (0x100 + 4 * g))))

/-! ### Performance points and rate monitors -/

/-- PP_CTL.target takes the written point, and the supply begins to move unless it stands at its goal; while it slews, the new
target replaces the old one (R29, R31). -/
def Obligations.PpCtlWriteTakesTarget : Prop :=
  ∀ (path : Path) (h : Nat) (v : W) (s : State), h < 16 → s.trap = none → s.bar0Open = true →
    ∃ t, exec (.ppCtlWrite path h v) s = .next t ∧ t.fld (F.ppTarget h) = bits v 1 0 ∧
      t.pointGoal h = (if s.flag (F.thermalHold h) then 0 else bits v 1 0) ∧ t.halls = s.halls ∧
      t.flag (F.slewing h) = (s.flag (F.slewing h) ||
        decide ((s.halls.getD h {}).supply ≠ pointVolts (if s.flag (F.thermalHold h) then 0 else bits v 1 0))) ∧
      t.fld (F.ppCurrent h) = s.fld (F.ppCurrent h) ∧ t.fld (F.thermalHold h) = s.fld (F.thermalHold h) ∧
      OnlyRegs s t [Reg.hall h 0x10]

/-- The thermal hold of R32: its entry sets thermal_hold and sends the supply to PP0 whatever target holds; its exit clears
thermal_hold and sends the supply back to target; neither changes target. A supply that moves settles at its goal: current
takes the point, slewing is 0, and target stays (R28 to R32). A rate window shows each enabled gallery's rate and keeps the
lowest (R34). -/
def Obligations.ThermalHoldAndSupplyMoveTheHall : Prop :=
  ((∀ (h : Nat) (s : State), h < 16 → s.trap = none →
      ∃ t, exec (.thermalHoldEntry h) s = .next t ∧ t.flag (F.thermalHold h) = true ∧ t.pointGoal h = 0 ∧
        t.flag (F.slewing h) = (s.flag (F.slewing h) || decide ((s.halls.getD h {}).supply ≠ pointVolts 0)) ∧
        t.fld (F.ppTarget h) = s.fld (F.ppTarget h) ∧ OnlyRegs s t [Reg.hall h 0x10]) ∧
    (∀ (h : Nat) (s : State), h < 16 → s.trap = none → s.flag (F.thermalHold h) = true →
      ∃ t, exec (.thermalHoldExit h) s = .next t ∧ t.flag (F.thermalHold h) = false ∧ t.pointGoal h = s.fld (F.ppTarget h) ∧
        t.flag (F.slewing h) = (s.flag (F.slewing h) || decide ((s.halls.getD h {}).supply ≠ pointVolts (s.fld (F.ppTarget h)))) ∧
        t.fld (F.ppTarget h) = s.fld (F.ppTarget h) ∧ OnlyRegs s t [Reg.hall h 0x10])) ∧
  ((∀ (h : Nat) (s : State), h < 16 → h < s.halls.length → s.trap = none → s.flag (F.slewing h) = true →
      ∃ t, exec (.supplySlewDone h) s = .next t ∧ t.fld (F.ppCurrent h) = s.pointGoal h ∧ t.flag (F.slewing h) = false ∧
        t.fld (F.ppTarget h) = s.fld (F.ppTarget h) ∧ (t.halls.getD h {}).supply = pointVolts (s.pointGoal h) ∧
        (∀ k, k ≠ h → t.halls.getD k {} = s.halls.getD k {}) ∧ OnlyRegs s { t with halls := s.halls } [Reg.hall h 0x10]) ∧
    (∀ (h : Nat) (rates : List Nat) (s : State), h < 16 → s.trap = none → (∀ r ∈ rates, r < 2 ^ 16) →
      ∃ t, exec (.rateMonitorWindow h rates) s = .next t ∧
        (∀ g, g < s.galleries → t.fld (F.curRate h g) = rates.getD g 0 ∧
          t.fld (F.minRate h g) = min (rates.getD g 0) (s.fld (F.minRate h g))) ∧
        OnlyRegs s t ((List.range s.galleries).map fun g => Reg.hall h (0x100 + 4 * g))))

/-! ### Doorbells and ring registers -/

/-- A command-ring doorbell in a state that takes doorbells, by R95: ignored with bad_doorbell on a ring that is not enabled;
without effect on a management-port ring (R118); ignored as stale past 2³¹; answered with BAD_DOORBELL where the ring would
hold too many; else the producer index. A write at 0x004 of the page is the completion ring's doorbell; one elsewhere in the
page has no effect, and a read of it returns 0 (R94). -/
def Obligations.CommandDoorbellSetsProducer : Prop :=
  (∀ (n off : Nat) (v : W) (s : State), s.trap = none →
    exec (.commandRingDoorbell n ⟨4, some v⟩) s = exec (.completionRingDoorbell n ⟨4, some v⟩) s ∧
    (off ≠ 0 → off ≠ 4 → exec (.commandRingDoorbell n ⟨off, some v⟩) s = .next s) ∧
    exec (.commandRingDoorbell n ⟨off, none⟩) s = .next (s.emit (.readData 0))) ∧
  ∀ (n : Nat) (v : W) (s : State), n < 4096 → s.trap = none → s.takesBells = true →
    (s.flag (F.ringEnable n) = true → s.fld (F.ringSource n) = 2 →
      exec (.commandRingDoorbell n ⟨0, some v⟩) s = .next s) ∧
    (s.flag (F.ringEnable n) = false →
      ∃ t, exec (.commandRingDoorbell n ⟨0, some v⟩) s = .next t ∧ t.fld (F.ringBadDoorbell n) = 1 ∧ t.ringx n = s.ringx n ∧
        OnlyRegs s t [Reg.ring n + 0xC]) ∧
    (s.flag (F.ringEnable n) = true → s.fld (F.ringSource n) ≠ 2 → 2 ^ 31 < (v - (s.ringx n).prod).toNat →
      exec (.commandRingDoorbell n ⟨0, some v⟩) s = .next s) ∧
    (s.flag (F.ringEnable n) = true → s.fld (F.ringSource n) ≠ 2 → (v - (s.ringx n).prod).toNat ≤ 2 ^ 31 →
      2 ^ s.fld (F.ringLog2 n) < (v - s.reg (Reg.ring n + 0x10)).toNat → s.Sound →
      (s.replyOpen n = true → s.hasRange (s.replyTier n) (s.replyAt n) 32 = true) →
      ∃ t, exec (.commandRingDoorbell n ⟨0, some v⟩) s = .next t ∧ t.fld (F.ringBadDoorbell n) = 1 ∧ (t.ringx n).prod = (s.ringx n).prod ∧
        (s.replyOpen n = true → t.bytes (s.replyTier n) (s.replyAt n) 32 =
          wordBytes (replyWords s n (s.fld (F.ringExpected n)) 0xFF 0 0 ⟨St.badDoorbell, v.toNat, s.fld (F.ringCons n)⟩
            (s.replyPhase n))) ∧
        ∀ k, ¬ s.inReply n k → Tab.get memDefault t.mem k = Tab.get memDefault s.mem k) ∧
    (s.flag (F.ringEnable n) = true → s.fld (F.ringSource n) ≠ 2 → (v - (s.ringx n).prod).toNat ≤ 2 ^ 31 →
      (v - s.reg (Reg.ring n + 0x10)).toNat ≤ 2 ^ s.fld (F.ringLog2 n) →
      ∃ t, exec (.commandRingDoorbell n ⟨0, some v⟩) s = .next t ∧ (t.ringx n).prod = v ∧ (∀ k, k ≠ n → t.ringx k = s.ringx k) ∧
        { t with rings := s.rings, arb := s.arb } = s)

/-- A completion-ring doorbell in a state that takes doorbells, by R587: a ring that is not enabled and a value past the
producer index set bad_doorbell; a stale value is ignored; every other value becomes the consumer index; no reply. A write at
0x000 of the page is the command ring's doorbell; one elsewhere in the page has no effect, and a read of it returns 0 (R94).
-/
def Obligations.CompletionDoorbellSetsConsumer : Prop :=
  (∀ (n off : Nat) (v : W) (s : State), s.trap = none →
    exec (.completionRingDoorbell n ⟨0, some v⟩) s = exec (.commandRingDoorbell n ⟨0, some v⟩) s ∧
    (off ≠ 0 → off ≠ 4 → exec (.completionRingDoorbell n ⟨off, some v⟩) s = .next s) ∧
    exec (.completionRingDoorbell n ⟨off, none⟩) s = .next (s.emit (.readData 0))) ∧
  ∀ (n : Nat) (v : W) (s : State), n < 4096 → s.trap = none → s.takesBells = true →
    (s.flag (F.cqEnable n) = false →
      ∃ t, exec (.completionRingDoorbell n ⟨4, some v⟩) s = .next t ∧ t.fld (F.cqBadDoorbell n) = 1 ∧ t.cqx n = s.cqx n ∧
        OnlyRegs s t [Reg.cq n + 0xC]) ∧
    (s.flag (F.cqEnable n) = true → 2 ^ 31 < (v - (s.cqx n).cons).toNat →
      exec (.completionRingDoorbell n ⟨4, some v⟩) s = .next s) ∧
    (s.flag (F.cqEnable n) = true → (v - (s.cqx n).cons).toNat ≤ 2 ^ 31 → 2 ^ 31 < ((s.cqx n).prod - v).toNat →
      ∃ t, exec (.completionRingDoorbell n ⟨4, some v⟩) s = .next t ∧ t.fld (F.cqBadDoorbell n) = 1 ∧ t.cqx n = s.cqx n ∧
        OnlyRegs s t [Reg.cq n + 0xC]) ∧
    (s.flag (F.cqEnable n) = true → (v - (s.cqx n).cons).toNat ≤ 2 ^ 31 → ((s.cqx n).prod - v).toNat ≤ 2 ^ 31 →
      ∃ t, exec (.completionRingDoorbell n ⟨4, some v⟩) s = .next t ∧ (t.cqx n).cons = v ∧ (t.cqx n).prod = (s.cqx n).prod ∧
        (∀ k, k ≠ n → t.cqx k = s.cqx k) ∧ { t with cqs := s.cqs } = s)

/-- RING_CFG by R120: while enable is 1 a write changes only enable, and a different value of another field sets cfg_err;
while it is 0 a write that leaves it 0 is stored; a write that sets it is refused for the sizes, source and Cellar ends its
rule (R120) names, with cfg_err alone, and otherwise stored with both indices, the expected number and the malformed count at
0 (R93, R101, R121). CQ_CFG by R122, in the same way; its refusals set cfg_err and change no field. CQ_STATUS by R123: a 1
clears its bit, and a 1 to overflow clears lost too. -/
def Obligations.RingRegistersByTheirRules : Prop :=
  (∀ (path : Path) (n : Nat) (v : W) (s : State), n < 4096 → s.trap = none → s.bar0Open = true →
      let old := s.reg (Reg.ring n + 8)
      let new := merge 0xFFFF0FFF old v
      let bad := bits new 25 21 < 6 ∨ 16 < bits new 25 21 ∨ bits new 20 16 < 6 ∨ 16 < bits new 20 16 ∨ bits new 27 26 = 3 ∨
        (bits new 27 26 = 1 ∧ 0x018000000000 < s.reg64 (Reg.ring n) (Reg.ring n + 4) + 64 * 2 ^ bits new 25 21) ∨
        0x018000000000 < s.fld (F.ledgerBase n) * 4096 + 32 * 2 ^ bits new 20 16
      ∃ t, exec (.ringCfgWrite path n v) s = .next t ∧
        (∀ o, o ∉ [Reg.ring n + 8, Reg.ring n + 0xC, Reg.ring n + 0x10] → t.reg o = s.reg o) ∧
        { t with regs := s.regs, rings := s.rings } = s ∧
        (s.flag (F.ringEnable n) = true → t.reg (Reg.ring n + 8) = setBits old 31 31 (bits v 31 31) ∧
          t.fld (F.ringCfgErr n) = (if merge 0x7FFFFFFF old new = old then s.fld (F.ringCfgErr n) else 1) ∧
          t.rings = s.rings) ∧
        (s.flag (F.ringEnable n) = false → bits v 31 31 = 0 → t.reg (Reg.ring n + 8) = new ∧
          t.reg (Reg.ring n + 0xC) = s.reg (Reg.ring n + 0xC) ∧ t.rings = s.rings) ∧
        (s.flag (F.ringEnable n) = false → bits v 31 31 = 1 → bad → t.reg (Reg.ring n + 8) = old ∧
          t.fld (F.ringCfgErr n) = 1 ∧ t.rings = s.rings) ∧
        (s.flag (F.ringEnable n) = false → bits v 31 31 = 1 → ¬ bad → t.reg (Reg.ring n + 8) = new ∧
          t.fld (F.ringCons n) = 0 ∧ t.fld (F.ringExpected n) = 0 ∧ t.fld (F.ringMalformed n) = 0 ∧ t.ringx n = {} ∧
          (∀ k, k ≠ n → t.ringx k = s.ringx k) ∧ t.fld (F.ringCfgErr n) = s.fld (F.ringCfgErr n))) ∧
  ((∀ (path : Path) (n : Nat) (v : W) (s : State), n < 4096 → s.trap = none → s.bar0Open = true →
      let old := s.reg (Reg.cq n + 8)
      let new := merge 0xFF800FFF old v
      let bad := bits new 30 26 < 6 ∨ 16 < bits new 30 26 ∨ 2 ≤ bits new 25 24 ∨
        (bits new 25 24 = 1 ∧ 0x018000000000 < s.reg64 (Reg.cq n) (Reg.cq n + 4) + 32 * 2 ^ bits new 30 26)
      ∃ t, exec (.cqCfgWrite path n v) s = .next t ∧
        (∀ o, o ∉ [Reg.cq n + 8, Reg.cq n + 0xC] → t.reg o = s.reg o) ∧ { t with regs := s.regs, cqs := s.cqs } = s ∧
        (s.flag (F.cqEnable n) = true → t.reg (Reg.cq n + 8) = setBits old 31 31 (bits v 31 31) ∧
          t.fld (F.cqCfgErr n) = (if merge 0x7FFFFFFF old new = old then s.fld (F.cqCfgErr n) else 1) ∧ t.cqs = s.cqs) ∧
        (s.flag (F.cqEnable n) = false → bits v 31 31 = 0 → t.reg (Reg.cq n + 8) = new ∧
          t.reg (Reg.cq n + 0xC) = s.reg (Reg.cq n + 0xC) ∧ t.cqs = s.cqs) ∧
        (s.flag (F.cqEnable n) = false → bits v 31 31 = 1 → bad → t.reg (Reg.cq n + 8) = old ∧ t.fld (F.cqCfgErr n) = 1 ∧
          t.cqs = s.cqs) ∧
        (s.flag (F.cqEnable n) = false → bits v 31 31 = 1 → ¬ bad → t.reg (Reg.cq n + 8) = new ∧ t.cqx n = {} ∧
          (∀ k, k ≠ n → t.cqx k = s.cqx k))) ∧
    (∀ (path : Path) (n : Nat) (v : W) (s : State), n < 4096 → s.trap = none → s.bar0Open = true →
      ∃ t, exec (.cqStatusWrite path n v) s = .next t ∧
        t.fld (F.cqOverflow n) = (if bits v 31 31 = 1 then 0 else s.fld (F.cqOverflow n)) ∧
        t.fld (F.cqLost n) = (if bits v 31 31 = 1 then 0 else s.fld (F.cqLost n)) ∧
        t.fld (F.cqCfgErr n) = (if bits v 30 30 = 1 then 0 else s.fld (F.cqCfgErr n)) ∧
        t.fld (F.cqBadDoorbell n) = (if bits v 29 29 = 1 then 0 else s.fld (F.cqBadDoorbell n)) ∧
        OnlyRegs s t [Reg.cq n + 0xC]))

/-- ERM.LOG_CFG: size_log2 keeps its value and cfg_refused is set while records are pending; merge_at is stored either way
(R218). ERM.POOL_CFG: while enable is 1 only enable changes, and a 0 waits while a record of the pool is named; while it is 0
the fields are stored (R225). A disable that waits takes effect once no record is named. FAB.ID takes a package id from 0 to
0xFFF or 0xFFFF; any other value has no effect (R463). With every port down and disabled nothing else changes. TB.CFG by R88:
in Attested mode its RWL fields keep their values (R479), and the refused role does not set cfg_refused, whatever it is and
whether or not a launch timer is armed (the model's reading, log entry 107); outside it a role from 4 to 7, and any role
written while a launch timer is armed (the held one too: the model's reading, log entry 59), keeps its value and sets
cfg_refused; pps_out_en is stored either way. A role of 2 taken while ACQUIRING stays ACQUIRING, without an upstream port;
what a role change does to a LOCKED time base is not stated here. -/
def Obligations.ConfigurationRegistersAndTbCfg : Prop :=
  (((∀ (path : Path) (v : W) (s : State), s.trap = none → s.bar0Open = true →
        ∃ t, exec (.ermLogCfgWrite path v) s = .next t ∧ t.fld F.logMergeAt = bits v 15 12 ∧
          (s.erm.logCount = 0 → t.fld F.logSizeLog2 = bits v 29 24 ∧ t.reg (Reg.erm 0xC) = s.reg (Reg.erm 0xC)) ∧
          (s.erm.logCount ≠ 0 → t.fld F.logSizeLog2 = s.fld F.logSizeLog2 ∧ t.fld F.logCfgRefused = 1) ∧
          OnlyRegs s t [Reg.erm 8, Reg.erm 0xC]) ∧
      (∀ (path : Path) (n : Nat) (v : W) (s : State), n < 16 → s.trap = none → s.bar0Open = true →
        ∃ t, exec (.poolCfgWrite path n v) s = .next t ∧
          (s.flag (F.poolEnable n) = false → t.reg (Reg.ermPool n + 8) = merge 0xE7FF0000 (s.reg (Reg.ermPool n + 8)) v ∧
            OnlyRegs s t [Reg.ermPool n + 8]) ∧
          (s.flag (F.poolEnable n) = true → bits v 31 31 = 0 → s.poolNamed n = true →
            n ∈ t.erm.closing ∧ t.regs = s.regs ∧ { t with erm := s.erm } = s) ∧
          (s.flag (F.poolEnable n) = true → bits v 31 31 = 0 → s.poolNamed n = false →
            t.reg (Reg.ermPool n + 8) = setBits (s.reg (Reg.ermPool n + 8)) 31 31 0 ∧ OnlyRegs s t [Reg.ermPool n + 8]) ∧
          (s.flag (F.poolEnable n) = true → bits v 31 31 = 1 → n ∉ t.erm.closing ∧ t.regs = s.regs)) ∧
      (∀ (n : Nat) (s : State), n < 16 → s.trap = none → n ∈ s.erm.closing → s.poolNamed n = false →
        ∃ t, exec (.poolDisableComplete n) s = .next t ∧ t.flag (F.poolEnable n) = false ∧ n ∉ t.erm.closing ∧
          (∀ o, o ≠ Reg.ermPool n + 8 → t.reg o = s.reg o) ∧ t.mem = s.mem ∧ t.cmds = s.cmds)) ∧
    (∀ (path : Path) (v : W) (s : State), s.trap = none → s.bar0Open = true →
        (0x1000 ≤ bits v 15 0 → bits v 15 0 ≠ 0xFFFF → exec (.fabIdWrite path v) s = .next s) ∧
        (bits v 15 0 < 0x1000 ∨ bits v 15 0 = 0xFFFF → (∀ p, p < 48 → s.flag (F.portEnable p) = false) →
          ∃ t, exec (.fabIdWrite path v) s = .next t ∧ t.pkg = bits v 15 0 ∧ OnlyRegs s t [Reg.fab 0]))) ∧
  ((∀ (path : Path) (v : W) (s : State), s.trap = none → s.bar0Open = true → s.attested = true → s.flag F.logEnable = false →
      ∃ t, exec (.tbCfgWrite path v) s = .next t ∧ t.fld F.tbPpsEn = bits v 4 4 ∧ t.fld F.tbRole = s.fld F.tbRole ∧
        t.fld F.tbHoldover = s.fld F.tbHoldover ∧ t.fld F.rwlRefused = 1 ∧ t.fld F.rwlLast = Reg.tbCfg ∧
        OnlyRegs s t [Reg.tbCfg, Reg.safeStatus, Reg.safeRwlLast]) ∧
    (∀ (path : Path) (v : W) (s : State), s.trap = none → s.bar0Open = true → s.attested = false →
      s.timers ≠ 0 ∨ 4 ≤ bits v 2 0 →
      ∃ t, exec (.tbCfgWrite path v) s = .next t ∧ t.fld F.tbPpsEn = bits v 4 4 ∧ t.fld F.tbHoldover = bits v 31 16 ∧
        t.fld F.tbRole = s.fld F.tbRole ∧ t.fld F.tbRefused = 1 ∧ OnlyRegs s t [Reg.tbCfg, Reg.tbStatus]) ∧
    (∀ (path : Path) (v : W) (s : State), s.trap = none → s.bar0Open = true → s.attested = false → s.timers = 0 →
      bits v 2 0 ≠ s.fld F.tbRole → bits v 2 0 = 2 → s.fld F.tbState = TbSt.acquiring →
      ∃ t, exec (.tbCfgWrite path v) s = .next t ∧ t.fld F.tbRole = 2 ∧ t.fld F.tbState = TbSt.acquiring ∧
        t.fld F.tbUpstream = 0xFF ∧ t.tb.stime = s.tb.stime ∧ t.tb.epoch = s.tb.epoch ∧ t.cmds = s.cmds ∧ t.mem = s.mem))

/-! ### Identity, ports and the registers with effects of their own -/

/-- A read of TB.STIME_LO returns STIME bits [31:0] and latches bits [63:32] into TB.STIME_HI, whose read returns the latched
value; a write to either has no effect (R90). -/
def Obligations.StimeReadLatchesHighHalf : Prop :=
  (∀ (path : Path) (s : State), s.trap = none → s.bar0Open = true →
    ∃ t, exec (.tbStimeLoRead path) s = .next t ∧ t.out = .readData (BitVec.ofNat 32 s.tb.stime) :: s.out ∧
      t.readReg path 0x1000C = s.tb.stime / 2 ^ 32 % 2 ^ 32 ∧ OnlyOut s t [0x1000C]) ∧
  (∀ (path : Path) (v : W) (s : State) (off : Nat), off = 0x10008 ∨ off = 0x1000C → s.trap = none → s.bar0Open = true →
    ∃ t, exec (.registerWrite path off v) s = .next t ∧ (∀ o, t.reg o = s.reg o) ∧ { t with regs := s.regs } = s)

/-- PORT_CFG stores its fields; clearing enable takes the port DOWN; with enable set and no fence a DOWN port trains where its
conditions hold, a MISWIRED port leaves MISWIRED, and a fence takes an UP port to FENCED (R426, R468). A port that stops
carrying time words is the upstream port no more (R77). The events of a link, by the table of R426: signal lost takes a port
DOWN, signal present trains a DOWN port whose other conditions hold; training, also that of RETRAIN, ends in UP, in DEGRADED
with fewer than 8 lanes, or in MISWIRED with its record; its timeout ends in DOWN, and moves no port that is not in TRAINING;
a peer's fence takes UP and DEGRADED to FENCED, and its end takes FENCED to TRAINING, with no lane in use, where nothing else
fences the port. The error counts of a link (R424, R426, R469), FENCED ones too: an uncorrectable codeword is counted and asks
for replay from its flit; a replay is counted and made from the flit named to the latest sent, of the flits that the sender
keeps; the eighth of one flit retrains a link that is UP or DEGRADED, and leaves a FENCED one. A window counts corrected
codewords in units of 1,024, those that TEST.LANE_ERR corrupts among them (R494; how many: the model's choice, log entry 67),
and retrains an UP or DEGRADED link past 1 uncorrectable codeword in 10⁹. -/
def Obligations.PortsAndLinksByTheirEvents : Prop :=
  (∀ (path : Path) (p : Nat) (v : W) (s : State), p < 48 → s.trap = none → s.bar0Open = true → s.linkFree p →
      ∃ t, exec (.portCfgWrite path p v) s = .next t ∧ t.fld (F.portEnable p) = bits v 31 31 ∧
        t.fld (F.portFence p) = bits v 30 30 ∧ t.fld (F.portDim p) = bits v 29 28 ∧ t.fld (F.portPeer p) = bits v 27 16 ∧
        t.fld (F.portPeerPort p) = bits v 15 10 ∧
        OnlyOut s { t with tb := s.tb } [Reg.port p, Reg.port p + 8, Reg.tbStatus] ∧ t.tb.stime = s.tb.stime ∧
        (s.fld F.tbUpstream ≠ p → t.reg Reg.tbStatus = s.reg Reg.tbStatus) ∧
        (s.fld F.tbUpstream = p → s.fld F.tbRole = 0 → s.timeLink p = true → t.timeLink p = false → t.fld F.tbUpstream ≠ p) ∧
        (bits v 31 31 = 0 → t.fld (F.portState p) = Port.down) ∧
        (bits v 31 31 = 1 → s.fld (F.portState p) = Port.down → s.fld F.package ≠ 0xFFFF → (s.portX p).signal = true →
          t.fld (F.portState p) = Port.training) ∧
        (bits v 31 31 = 1 → s.fld (F.portState p) = Port.miswired → s.fld F.package = 0xFFFF →
          t.fld (F.portState p) = Port.down) ∧
        (bits v 31 31 = 1 → bits v 30 30 = 1 → s.flag (F.portFence p) = false → s.fld (F.portState p) = Port.up →
          t.fld (F.portState p) = Port.fenced ∧ .fenceSignal p true ∈ t.out)) ∧
  (((∀ (p : Nat) (s : State), p < 48 → p < s.fab.ports.length → s.trap = none → s.linkFree p →
        ∃ t, exec (.opticalSignalChange p false) s = .next t ∧ t.fld (F.portState p) = Port.down ∧ t.fld (F.portLanes p) = 0 ∧
          (t.portX p).signal = false) ∧
      (∀ (p : Nat) (s : State), p < 48 → p < s.fab.ports.length → s.trap = none → s.fld (F.portState p) = Port.down →
        s.flag (F.portEnable p) = true → s.fld F.package ≠ 0xFFFF →
        ∃ t, exec (.opticalSignalChange p true) s = .next t ∧ t.fld (F.portState p) = Port.training ∧ (t.portX p).signal = true) ∧
      (∀ (p peer peerPort : Nat) (lanes : BitVec 8) (s : State), p < 48 → s.trap = none →
        s.fld (F.portState p) = Port.training ∨ s.fld (F.portState p) = Port.retrain →
        peer = s.fld (F.portPeer p) → peerPort = s.fld (F.portPeerPort p) → lanes ≠ 0 → s.fencesPort p = false →
        ∃ t, exec (.portTrainingDone p lanes peer peerPort) s = .next t ∧
          t.fld (F.portState p) = (if lanes = 0xFF then Port.up else Port.degraded) ∧ t.fld (F.portSeen p) = peer ∧
          t.out = .fenceSignal p false :: s.out ∧ OnlyOut s t [Reg.port p + 8]) ∧
      (∀ (p peer peerPort : Nat) (lanes : BitVec 8) (s : State), p < 48 → s.Calm →
        s.fld (F.portState p) = Port.training ∨ s.fld (F.portState p) = Port.retrain → peer ≠ s.fld (F.portPeer p) → peer < 4096 → peerPort < 64 → lanes ≠ 0 →
        ∃ u : State, exec (.portTrainingDone p lanes peer peerPort) s = .next (u.event 4 p 0x0916 0) ∧
          u.fld (F.portState p) = Port.miswired ∧ u.fld (F.portSeen p) = peer ∧ u.fld (F.portSeenPort p) = peerPort ∧
          OnlyRegs s u [Reg.port p + 8]) ∧
      (∀ (p : Nat) (s : State), p < 48 → s.trap = none → s.linkFree p → s.fld (F.portState p) = Port.training →
        ∃ t, exec (.portTrainingTimeout p) s = .next t ∧ t.fld (F.portState p) = Port.down ∧
          OnlyRegs s { t with tb := s.tb } [Reg.port p + 8, Reg.tbStatus] ∧ t.tb.stime = s.tb.stime) ∧
      (∀ (p : Nat) (s : State), p < 48 → s.trap = none → s.fld (F.portState p) ≠ Port.training →
        exec (.portTrainingTimeout p) s = .next s) ∧
      (∀ (p : Nat) (s : State), p < 48 → p < s.fab.ports.length → s.trap = none → s.portLive p = true →
        ∃ t, exec (.peerFenceSignal p true) s = .next t ∧ t.fld (F.portState p) = Port.fenced ∧ (t.portX p).peerFenced = true) ∧
      (∀ (p : Nat) (s : State), p < 48 → p < s.fab.ports.length → s.trap = none → s.linkFree p →
        s.fld (F.portState p) = Port.fenced → s.flag (F.portFence p) = false → s.fab.selfFence = false →
        ∃ t, exec (.peerFenceSignal p false) s = .next t ∧ t.fld (F.portState p) = Port.training ∧ t.fld (F.portLanes p) = 0 ∧
          (t.portX p).peerFenced = false)) ∧
    ((∀ (p flit : Nat) (s : State), p < 48 → s.trap = none → s.linkLive p = true →
        ∃ t, exec (.fecUncorrectableCodeword p flit) s = .next t ∧
          t.fld (F.portFecUncorr p) = min (s.fld (F.portFecUncorr p) + 1) 0xFFFFFFFF ∧ t.out = .flitRequest p flit :: s.out ∧
          OnlyOut s t [Reg.port p + 0x10]) ∧
      (∀ (p flit n : Nat) (s : State), p < 48 → p < s.fab.ports.length → s.trap = none → s.linkLive p = true →
        (s.portX p).replays = [(flit, n)] → n < 7 ∨ s.fld (F.portState p) = Port.fenced →
        ∃ t, exec (.flitReplayRequest p flit) s = .next t ∧
          t.fld (F.portReplay p) = min (s.fld (F.portReplay p) + 1) 0xFFFFFFFF ∧
          t.out = .flitReplay p ((s.portX p).kept.dropWhile fun f => f.num != flit) :: s.out ∧
          (t.portX p).kept = (s.portX p).kept ∧
          (t.portX p).replays = [(flit, n + 1)] ∧ t.fld (F.portState p) = s.fld (F.portState p)) ∧
      (∀ (p flit : Nat) (s : State), p < 48 → p < s.fab.ports.length → s.trap = none → s.portLive p = true →
        (s.portX p).replays = [(flit, 7)] → (s.portX p).retrains = [] → s.linkFree p →
        ∃ t, exec (.flitReplayRequest p flit) s = .next t ∧ t.fld (F.portState p) = Port.retrain ∧ t.fld (F.portLanes p) = 0 ∧
          t.fld (F.portRetrain p) = min (s.fld (F.portRetrain p) + 1) 0xFFFFFFFF ∧ t.safe.win1 = s.safe.win1 + 1) ∧
      (∀ (p codewords bad corrected : Nat) (s : State), p < 48 → p < s.fab.ports.length → s.trap = none →
        let k := s.laneErrors p codewords
        let fatal := decide (15 < bits (s.reg Reg.testLaneErr) 20 16)
        let n := (s.portX p).fecCorr + corrected + if fatal then 0 else k
        let lost := bad + if fatal then k else 0
        ∃ t, exec (.linkErrorWindow p codewords bad corrected) s = .next t ∧
          t.fld (F.portFecCorr p) = min (s.fld (F.portFecCorr p) + n / 1024) 0xFFFFFFFF ∧ (t.portX p).fecCorr = n % 1024 ∧
          (s.portLive p = false ∨ lost * 1000000000 ≤ codewords → t.fld (F.portState p) = s.fld (F.portState p)) ∧
          (s.portLive p = true → codewords < lost * 1000000000 → (s.portX p).retrains = [] → s.linkFree p →
            t.fld (F.portState p) = Port.retrain ∧ t.fld (F.portLanes p) = 0 ∧
              t.fld (F.portRetrain p) = min (s.fld (F.portRetrain p) + 1) 0xFFFFFFFF ∧ t.safe.win1 = s.safe.win1 + 1))))

/-! ### The event log -/

/-- A record goes to the slot of HM.LOG_PROD and counts (R490, R491): its words are those of an event record (R84) with the
given ones and zeros after them; every other byte and every other register stays. A full log counts the record lost; with the
log off nothing changes. (A record that falls into a line in error: log entry 71.) HM.LOG_CFG (R497): while enable is 1 a
write changes only enable; otherwise size_log2 is stored within 12 to 30, and an enable restarts LOG_PROD from 0. RST.CTL.warm
requests a warm reset, which on a package with no command begins at once: RESETTING, with cause 2 (R501, R504, R533). -/
def Obligations.EventRecordsAndTheLog : Prop :=
  (∀ (s : State) (cls index code detail : Nat) (extra : List W),
      (s.flag F.logEnable = false → s.event cls index code detail extra = s) ∧
      (s.Calm → s.Sound → s.flag F.logEnable = true → s.eventRoom = true →
        let t := s.event cls index code detail extra
        t.trap = none ∧ t.reg Reg.hmLogProd = s.reg Reg.hmLogProd + 1 ∧
          t.bytes 3 s.eventSlot 32 = wordBytes ((recordWords s cls index code detail ++ extra ++ List.replicate 4 0).take 8) ∧
          (∀ o, o ≠ Reg.hmLogProd → t.reg o = s.reg o) ∧
          (∀ k, k < memKey 3 s.eventSlot ∨ memKey 3 s.eventSlot + 32 ≤ k → Tab.get memDefault t.mem k = Tab.get memDefault s.mem k) ∧
          { t with regs := s.regs, mem := s.mem, moved := s.moved } = s) ∧
      (s.flag F.logEnable = true → s.eventRoom = false →
        let t := s.event cls index code detail extra
        t.reg Reg.hmLogLost = BitVec.ofNat 32 (min ((s.reg Reg.hmLogLost).toNat + 1) 0xFFFFFFFF) ∧
          OnlyRegs s t [Reg.hmLogLost])) ∧
  ((∀ (path : Path) (v : W) (s : State), s.trap = none → s.bar0Open = true →
      ∃ t, exec (.hmLogCfgWrite path v) s = .next t ∧ t.fld F.logEnable = bits v 31 31 ∧
        (s.flag F.logEnable = true → t.fld F.logSize = s.fld F.logSize ∧ t.reg Reg.hmLogProd = s.reg Reg.hmLogProd) ∧
        (s.flag F.logEnable = false → t.fld F.logSize = max 12 (min 30 (bits v 4 0)) ∧
          t.reg Reg.hmLogProd = if bits v 31 31 = 1 then 0 else s.reg Reg.hmLogProd) ∧
        OnlyRegs s t [Reg.hmLogCfg, Reg.hmLogProd]) ∧
    (∀ (path : Path) (v : W) (s : State), s.trap = none → s.bar0Open = true → bits v 0 0 = 1 → s.cmds = [] →
      ∃ t, exec (.rstCtlWarm path v) s = .next t ∧ t.fld F.devState = Dev.resetting ∧ t.fld F.cause = 2 ∧
        t.fab.selfFence = true ∧ (∀ k, k < 12 → t.flag (F.selfRefresh k) = true) ∧ t.rst.history = s.rst.opsec :: s.rst.history ∧
        t.rst.wdB = true ∧ t.mem = s.mem))

/-! ### The test registers -/

/-- TEST.UNLOCK (R492, R493): the third right write of a sequence, through one path and within 1 ms of the first, unlocks the
test registers; the first and second only advance it; in Attested mode the write sets test_refused; a 0 relocks and clears
every perturbation register; a sequence past 1 ms returns to its start. That a record comes when the registers lock or unlock,
and that a relock ends what is left of the time offset, are the model's choices (log entry 59). A write of a perturbation
register: locked, it has no effect but test_refused, and it interrupts an unlock sequence (R492, R493); unlocked, its fields
are stored, with arm 0 where its rule (R498) refuses an arming, and its record is written (R494). That the record's words are
the BAR0 offset and the value, and that a write of TEST.TB_OFFSET replaces what is left of the time offset, are the model's
choices (log entry 59). -/
def Obligations.TestRegistersObeyTheirLock : Prop :=
  ((∀ (path : Path) (s : State), s.trap = none → s.bar0Open = true → s.attested = false → s.fld F.unlockStage = 0 →
      ∃ t, exec (.testUnlockWrite path 0x7E570001) s = .next t ∧ t.fld F.unlockStage = 1 ∧ t.flag F.unlocked = s.flag F.unlocked ∧
        t.inSequence path = true) ∧
    (∀ (path : Path) (s : State), s.trap = none → s.bar0Open = true → s.attested = false → s.fld F.unlockStage = 1 →
      s.inSequence path = true →
      ∃ t, exec (.testUnlockWrite path 0x81A8FFFE) s = .next t ∧ t.fld F.unlockStage = 2 ∧
        t.flag F.unlocked = s.flag F.unlocked ∧ t.safe = s.safe) ∧
    (∀ (path : Path) (s : State), s.Calm → s.bar0Open = true → s.attested = false → s.fld F.unlockStage = 2 →
      s.inSequence path = true → s.flag F.unlocked = false →
      ∃ u : State, exec (.testUnlockWrite path (BitVec.ofNat 32 (0x7E570000 + s.pkg))) s = .next (u.event 0 0 0x0A06 1) ∧
        u.flag F.unlocked = true ∧ u.fld F.unlockStage = 0 ∧ OnlyRegs s u [Reg.testStatus]) ∧
    (∀ (path : Path) (v : W) (s : State), s.trap = none → s.bar0Open = true → s.attested = true →
      ∃ t, exec (.testUnlockWrite path v) s = .next t ∧ t.flag F.testRefused = true ∧ OnlyRegs s t [Reg.safeStatus]) ∧
    (∀ (path : Path) (s : State), s.Calm → s.bar0Open = true → s.attested = false →
      ∃ t, exec (.testUnlockWrite path 0) s = .next t ∧ t.flag F.unlocked = false ∧ t.fld F.unlockStage = 0 ∧
        (∀ o ∈ perturbRegs, t.reg o = 0) ∧ t.tb.skew = 0) ∧
    (∀ s : State, s.trap = none → s.fld F.unlockStage ≠ 0 → s.safe.unlockAt + 1000000 < s.tb.stime →
      ∃ t, exec .testUnlockTimeout s = .next t ∧ t.fld F.unlockStage = 0 ∧ t.flag F.unlocked = s.flag F.unlocked ∧
        OnlyRegs s t [Reg.testStatus])) ∧
  (∀ (i : Instr) (s : State) (off mask : Nat) (v stored : W), testOf i = some (off, v, stored, mask) → s.bar0Open = true →
      (s.trap = none → s.flag F.unlocked = false →
        ∃ t, exec i s = .next t ∧ t.flag F.testRefused = true ∧ t.fld F.unlockStage = 0 ∧
          OnlyRegs s t [Reg.safeStatus, Reg.testStatus]) ∧
      (s.Calm → s.flag F.unlocked = true →
        ∃ u : State, exec i s = .next (u.event 0 0 0x0A07 0 [BitVec.ofNat 32 off, v]) ∧ u.reg off = merge mask (s.reg off) stored ∧
          u.fld F.unlockStage = 0 ∧ u.tb.skew = (if off = Reg.testTbOffset then v.toInt else s.tb.skew) ∧
          OnlyRegs s { u with tb := s.tb } [Reg.testStatus, off]))

/-! ### Register writes by access type -/

/-- A write to a register with an RWL field in Attested mode (R479): the RWL fields keep their values, the other RW fields
take the written bits, rwl_refused is set with the offset, and the record of code 0x0A02 goes to the log; the firmware
control, whose two bits are RWL, does nothing more. -/
def Obligations.RwlFieldsKeepTheirValuesInAttestedMode : Prop :=
  (∀ (path : Path) (off : Nat) (v : W) (s : State) (r : RegSpec), regSpec off = some r → r.rwl ≠ 0 → s.Calm → s.bar0Open = true →
    s.attested = true →
    ∃ t, exec (.registerWrite path off v) s = .next t ∧
      t.reg off &&& BitVec.ofNat 32 r.rwl = s.reg off &&& BitVec.ofNat 32 r.rwl ∧
      (t.reg off &&& BitVec.ofNat 32 r.rw) = v &&& BitVec.ofNat 32 r.rw ∧ t.flag F.rwlRefused = true ∧
      t.fld F.rwlLast = off ∧
      (s.Sound → s.flag F.logEnable = true → s.eventRoom = true → t.bytes 3 s.eventSlot 32 =
        wordBytes (recordWords s 0 0 0x0A02 0 ++ [BitVec.ofNat 32 off, v, 0, 0]))) ∧
  (∀ (i : Instr) (path : Path) (v : W) (img : FwImage) (s : State), i = .fwCtlGo path v img ∨ i = .fwCtlRaiseSvn path v ∨
      i = .registerWrite path Reg.fwCtl v → s.Calm → s.bar0Open = true → s.attested = true →
    ∃ t, exec i s = .next t ∧ t.fuses = s.fuses ∧ t.board = s.board ∧ t.flag F.rwlRefused = true ∧
      t.fld F.rwlLast = Reg.fwCtl)

/-- A register with no effect of its own (R7): RW bits take the written word (as its rule takes it, log entry 60), RWL bits
too outside Attested mode, W1C bits fall where a 1 is written, every other bit stays, and so does every other register. A
write where no register lies has no effect, and a read there returns 0 (R567); before the device leaves BOOT a write reaches
the boot registers alone (R554). An access of a wrong size or alignment writes nothing, reads 0, and sets bad_access with its
offset (R566, R578). -/
def Obligations.RegisterAccessesByTheirType : Prop :=
  ((∀ (path : Path) (off : Nat) (v : W) (s : State) (r : RegSpec), plainOff off = true → regSpec off = some r →
      perPort off = false → s.trap = none → s.reaches off = true → s.attested = false ∨ r.rwl = 0 →
      ∃ t, exec (.registerWrite path off v) s = .next t ∧
        t.reg off = merge (r.rw ||| r.rwl) (s.reg off) (takenAs off v) &&& ~~~(takenAs off v &&& BitVec.ofNat 32 r.w1c) ∧
        OnlyRegs s t [off]) ∧
    (∀ (path : Path) (off : Nat) (v : W) (s : State), plainOff off = true → regSpec off = none → s.trap = none →
      exec (.registerWrite path off v) s = .next s ∧ s.readReg path off = 0) ∧
    (∀ (path : Path) (off : Nat) (v : W) (s : State), plainOff off = true → off / 0x10000 ≠ 5 → s.trap = none →
      s.bar0Open = false → exec (.registerWrite path off v) s = .next s)) ∧
  (∀ (off : Nat) (isWrite : Bool) (s : State), s.trap = none → s.bar0Open = true → off < 2 ^ 26 →
      ∃ t, exec (.bar0BadAccess off isWrite) s = .next t ∧ t.flag F.accBad = true ∧ t.fld F.accOffset = off ∧
        t.out = (if isWrite then s.out else .readData 0 :: s.out) ∧ OnlyOut s t [Reg.ctlAccStatus])

/-- The load of a firmware image (R560, R563, R564): a length outside 1 to 32 MiB and an image that does not verify, by its
key, its signature or its security version, end with their codes; a good image, with the digest of the bytes in host memory,
is programmed into the slot that does not run, on both dies, and that slot is invalid until this is done; a write while busy
has no effect; raise_svn raises the fused minimum to the running image's version. -/
def Obligations.FirmwareLoadByItsSteps : Prop :=
  (∀ (path : Path) (v : W) (img : FwImage) (s : State), s.trap = none → s.bar0Open = true → s.attested = false →
    bits v 31 31 = 1 → bits v 30 30 = 0 →
    ∃ t, exec (.fwCtlGo path v img) s = .next t ∧
      (s.flag F.fwBusy = true → t = s) ∧
      (s.flag F.fwBusy = false → (s.reg Reg.fwLen).toNat = 0 ∨ 33554432 < (s.reg Reg.fwLen).toNat →
        t.fld F.fwCode = 0x3001 ∧ t.fld F.fwBusy = 0 ∧ OnlyRegs s t [Reg.fwResult]) ∧
      (s.flag F.fwBusy = false → 1 ≤ (s.reg Reg.fwLen).toNat → (s.reg Reg.fwLen).toNat ≤ 33554432 →
        img.key ≠ s.fuses.keyHash ∨ img.sigOk = false ∨ img.svn < s.fuses.minSvn →
        t.fld F.fwCode = 0xA003 ∧ t.fld F.fwBusy = 0 ∧ OnlyRegs s t [Reg.fwResult]) ∧
      (s.flag F.fwBusy = false → 1 ≤ (s.reg Reg.fwLen).toNat → (s.reg Reg.fwLen).toNat ≤ 33554432 →
        img.key = s.fuses.keyHash → img.sigOk = true → s.fuses.minSvn ≤ img.svn →
        t.fld F.fwBusy = 1 ∧
          t.board.staged = some
            (⟨img, sha384 (s.peek 5 (s.reg64 Reg.fwAddrLo Reg.fwAddrHi) (s.reg Reg.fwLen).toNat)⟩, 1 - s.fld F.bootSlot) ∧
          t.board.flash = (s.board.flash.map fun l => l.set (1 - s.fld F.bootSlot) none) ∧ t.fuses = s.fuses)) ∧
  (∀ (flashFailed : Bool) (img : FlashImage) (slot : Nat) (s : State), s.trap = none → s.board.staged = some (img, slot) →
    s.board.romServes = false →
    ∃ t, exec (.firmwareProgramDone flashFailed) s = .next t ∧ t.fld F.fwBusy = 0 ∧ t.board.staged = none ∧
      t.fld F.fwCode = (if flashFailed then 0x6001 else 0) ∧
      t.board.flash = (if flashFailed then s.board.flash else s.board.flash.map fun l => l.set slot (some img)) ∧
      (∀ o, o ≠ Reg.fwResult → t.reg o = s.reg o)) ∧
  (∀ (path : Path) (v : W) (s : State), s.trap = none → s.bar0Open = true → s.attested = false → bits v 30 30 = 1 →
    ∃ t, exec (.fwCtlRaiseSvn path v) s = .next t ∧ t.fuses.minSvn = max s.fuses.minSvn (s.fld F.bootSvn) ∧
      { t with fuses := s.fuses } = s)

/-! ### Host ports, supplies and the board -/

/-- A BAR4 access at window offset o reaches Cellar address base × 2³⁰ + o, with the bits of base below the window's size
taken as 0 (R551 to R553): a write stores its bytes and no others, a read returns them; at or beyond the Cellar's end it
completes with Unsupported Request and stores nothing. How configuration space holds the window's size, 1 GiB after reset, and
that nothing lies beyond it, is the model's choice (log entry 55). The host ports (R549, R550, R554): a configuration request
is retried until the device first leaves BOOT or its boot ROM serves, and a read is then answered with the word; PERST and a
function-level reset put the port's MSI-X table and its configuration space, with the BARs, at their reset values and touch no
command, ring, register or memory; PERST takes the link down, and its end brings it back. That BAR4_BASE stays is the model's
choice (log entry 53), and so is the layout of configuration space beside the values of R549 (log entry 55). -/
def Obligations.Bar4AndHostPortEvents : Prop :=
  (∀ (port off len : Nat) (bytes : List Byte) (s : State), s.Sound → s.bar0Open = true → s.board.linkUp.getD port false = true →
      let k := min 6 (bits (s.config port 0x150) 13 8 - 10)
      let addr := bits (s.portReg port Reg.bar4Base) 10 0 / 2 ^ k * 2 ^ k * 2 ^ 30 + off
      (addr + bytes.length ≤ cellarEnd → off + bytes.length ≤ 2 ^ (30 + k) →
        ∃ t, exec (.bar4Access port off true bytes len) s = .next t ∧ t.bytes 3 addr bytes.length = bytes ∧
          (∀ k, k < memKey 3 addr ∨ memKey 3 addr + bytes.length ≤ k → Tab.get memDefault t.mem k = Tab.get memDefault s.mem k) ∧
          t.regs = s.regs ∧ t.cmds = s.cmds ∧ t.out = s.out) ∧
      (addr + len ≤ cellarEnd → off + len ≤ 2 ^ (30 + k) →
        ∃ t, exec (.bar4Access port off false [] len) s = .next t ∧
          t.out = .bar4Data port (s.bytes 3 addr len) false :: s.out ∧ t.mem = s.mem ∧ t.regs = s.regs) ∧
      (cellarEnd < addr + bytes.length ∨ 2 ^ (30 + k) < off + bytes.length →
        exec (.bar4Access port off true bytes len) s = .next (s.emit (.unsupported port)))) ∧
  ((∀ (port off : Nat) (s : State), s.trap = none → s.powered = true → s.board.linkUp.getD port false = true →
      exec (.configRequestInBoot ⟨port, off, none⟩) s = .next (s.emit
        (if s.board.configOk || s.board.romServes then .configDone port (s.config port off) else .configRetry port))) ∧
    (∀ (port off : Nat) (v : W) (s : State), s.trap = none → s.powered = true → s.board.linkUp.getD port false = true →
      s.board.configOk = false → s.board.romServes = false →
      exec (.configRequestInBoot ⟨port, off, some v⟩) s = .next (s.emit (.configRetry port))) ∧
    (∀ (i : Instr) (port : Nat) (s : State), i = .perstAssert port ∨ i = .functionLevelReset port → port < 2 → s.trap = none →
      Tab.wf portReset s.portRegs = true →
      ∃ t, exec i s = .next t ∧ (∀ o, 0x100000 ≤ o → o < 2 ^ 26 → t.portReg port o = regReset o) ∧
        (∀ o, o < 0x100000 → t.portReg port o = s.portReg port o) ∧
        (∀ o, 0 < o → o < 4096 → t.config port o = BitVec.ofNat 32 (configReset o)) ∧ bits (t.config port 0) 31 16 = 0x2160 ∧
        (∀ o, o < 4096 → t.config (1 - port) o = s.config (1 - port) o) ∧
        (i = .perstAssert port → t.board.linkUp.getD port false = false) ∧
        (∀ o, o < 2 ^ 26 → t.portReg (1 - port) o = s.portReg (1 - port) o) ∧
        { t with portRegs := s.portRegs, board := s.board } = s) ∧
    (∀ (port : Nat) (s : State), port < s.board.linkUp.length → port < s.board.perst.length → s.trap = none → s.powered = true →
      ∃ t, exec (.perstDeassert port) s = .next t ∧ t.board.linkUp.getD port false = true ∧ { t with board := s.board } = s))

/-- The power sequence (R501, R541 to R543): AUX_3V3 takes OFF to STANDBY; AUX_PG follows it; MAIN_48V is accepted only in its
range, with AUX_PG, MOD_RESET_N high, no trip latched and no sensor at 100 °C; MOD_PG, which comes only while the converters
are enabled, then takes STANDBY to BOOT, with every register at its reset value, the on-die and Cellar bytes reading 0 (the
model's choice, log entry 3), the Deep Cellar kept, and each host port's link up where its PERST is deasserted (R561). The
loss of a supply and the trips (R501, R505, R544 to R547): MAIN_48V lost, its overcurrent latch and a thermal trip end in
STANDBY with the Cellar lost and the Deep Cellar, the reset history and the operating seconds kept; AUX_3V3 lost ends in OFF;
a rail out of range drives MOD_PG low; the latches clear when MAIN_48V has stayed low. That lost bytes read 0 (log entry 3),
and what a loss of AUX_3V3 saves and keeps (log entry 54), are the model's choices. -/
def Obligations.PowerSequenceAndSupplyLoss : Prop :=
  ((∀ s : State, s.trap = none → s.fld F.devState = Dev.off →
      ∃ t, exec .aux3v3InRange s = .next t ∧ t.fld F.devState = Dev.standby ∧ t.board.auxOk = true ∧ t.mem = s.mem) ∧
    (∀ s : State, s.trap = none → s.board.auxOk = true →
      ∃ t, exec .auxPgAssert s = .next t ∧ t.board.auxPg = true ∧ { t with board := s.board } = s) ∧
    (∀ (volts : Nat) (s : State), s.trap = none →
      ∃ t, exec (.main48vAccept volts) s = .next t ∧
        t.board.accepted = (s.board.accepted || (s.fld F.devState == Dev.standby && s.board.auxPg && decide (4000 ≤ volts) &&
          decide (volts ≤ 6000) && s.board.resetN && !s.board.trip && !s.board.latchedOff &&
          s.board.sensors.all fun x => match x with | some v => decide (v < 1600) | none => true)) ∧
        { t with board := s.board } = s) ∧
    (∀ s : State, s.trap = none → s.board.auxPg = false ∨ s.board.accepted = false ∨ s.board.trip = true ∨ s.rst.hallsOff = true →
      exec .modPgRelease s = .next s) ∧
    (∀ s : State, s.Inv → s.board.auxPg = true → s.board.accepted = true → s.board.trip = false → s.rst.hallsOff = false →
      s.fld F.devState = Dev.standby →
      ∃ t, exec .modPgRelease s = .next t ∧ t.fld F.devState = Dev.boot ∧ t.board.modPg = true ∧ t.cmds = [] ∧
        (∀ o, o / 0x10000 ≠ 7 → o ≠ Reg.rstState → o ≠ Reg.bootStatus → t.reg o = regReset o) ∧
        t.flag F.bootZeroing = false ∧ t.board.linkUp = s.board.perst ∧
        (∀ k, k < 4 * 2 ^ 64 → Tab.get memDefault t.mem k = 0) ∧
        (∀ k, 4 * 2 ^ 64 ≤ k → Tab.get memDefault t.mem k = Tab.get memDefault s.mem k) ∧ t.rst.opsec = s.rst.opsec)) ∧
  ((∀ s : State, s.Inv → s.bar0Open = true → s.board.accepted = true →
      ∃ t, exec .main48vLoss s = .next t ∧ t.fld F.devState = Dev.standby ∧ t.board.accepted = false ∧ t.cmds = [] ∧
        t.rst.opsec = s.rst.opsec ∧ t.rst.opsecSaved = s.rst.opsec ∧ t.rst.history = s.rst.history ∧
        (∀ k, k < 4 * 2 ^ 64 → Tab.get memDefault t.mem k = 0) ∧
        (∀ k, 4 * 2 ^ 64 ≤ k → Tab.get memDefault t.mem k = Tab.get memDefault s.mem k)) ∧
    (∀ s : State, s.Inv → s.bar0Open = true → s.board.accepted = true → s.board.faultN = false →
      ∃ t, exec .overcurrentLatch s = .next t ∧ t.fld F.devState = Dev.standby ∧ t.board.latchedOff = true ∧
        t.board.faultN = true ∧ .ibi 3 ∈ t.out ∧ t.cmds = []) ∧
    (∀ (sensor : Nat) (s : State), s.Inv → s.bar0Open = true → sensor < 42 → s.board.trip = false →
      ∃ t, exec (.thermalTrip sensor) s = .next t ∧ t.fld F.devState = Dev.standby ∧ t.board.trip = true ∧
        t.board.tripSensor = sensor ∧ .ibi 2 ∈ t.out ∧ ∀ k, k < 4 * 2 ^ 64 → Tab.get memDefault t.mem k = 0) ∧
    (∀ s : State, s.trap = none → s.fld F.devState = Dev.standby → s.board.accepted = false →
      ∃ t, exec .aux3v3Loss s = .next t ∧ t.fld F.devState = Dev.off ∧ t.rst.opsec = s.rst.opsecSaved ∧ t.board.auxOk = false ∧
        t.board.auxPg = false ∧ t.board.i3cAddr = none) ∧
    (∀ s : State, s.trap = none → ∃ t, exec .railOutOfRange s = .next t ∧ t.board.modPg = false ∧ { t with board := s.board } = s) ∧
    (∀ s : State, s.trap = none → ∃ t, exec .thermalTripClear s = .next t ∧ t.board.trip = false ∧ t.board.tripSensor = 255 ∧
      { t with board := s.board } = s) ∧
    (∀ s : State, s.trap = none → ∃ t, exec .faultNRelease s = .next t ∧ t.board.faultN = false ∧ t.board.latchedOff = false ∧
      { t with board := s.board } = s))

/-- Every 1 ms the telemetry values refresh (R557, R576): the supply words, the energy, each Hall's TEMP.cur and the highest
in TEMP.max; the interrupt of the hottest junction comes once at 100 °C (R558). The I3C target (R557): a dynamic address is
taken, from SETDASA only at the static address 0x2A; a private write gives the offset and stores indirect bytes; a private
read returns the bytes from the offset given last; go makes one BAR0 access, or sets error where BAR0 is not served; a
misaligned read puts 0 into the indirect data and sets bad_access (R566). The JTAG chain (R559): IDCODE connects the die's
code in every state once MOD_PG is released; SAMPLE shows the levels of the pins; EXTEST acts only in BOOT, QUIESCED or
RETIRED and never in Attested mode, and elsewhere as BYPASS, also where it was loaded before; a private instruction acts as
BYPASS while the test registers are locked, and while they are unlocked the model stops by name, since the spec gives it no
effect. Which pins the boundary register takes in is the model's choice (log entry 57). -/
def Obligations.TelemetryI3cAndJtag : Prop :=
  ((∀ (volts amps watts joules : Nat) (sensors : List Int) (s : State), s.trap = none → s.powered = true → sensors.length = 44 →
        (∀ x ∈ sensors, -32768 < x ∧ x < 32768) →
        ∃ t, exec (.telemetryRefresh volts amps watts joules sensors) s = .next t ∧
          Tab.gets telemDefault t.board.telem 4 2 = leBytes 2 volts ∧ Tab.gets telemDefault t.board.telem 6 2 = leBytes 2 amps ∧
          Tab.gets telemDefault t.board.telem 8 4 = leBytes 4 watts ∧ t.board.energy = s.board.energy + joules ∧
          Tab.gets telemDefault t.board.telem 12 8 = leBytes 8 (s.board.energy + joules) ∧
          t.board.sensors = sensors.map some ∧
          (∀ h, h < 16 → Fp.signed 16 (t.fld (F.tempCur h)) = sensors.getD h 0 ∧
            Fp.signed 16 (t.fld (F.tempMax h)) = max (Fp.signed 16 (s.fld (F.tempMax h))) (sensors.getD h 0)) ∧
          (s.board.hot = false → ((sensors.take 16).foldl max (-32768) < 1600 → t.out = s.out) ∧
            (1600 ≤ (sensors.take 16).foldl max (-32768) → t.out = .ibi 4 :: s.out ∧ t.board.hot = true))) ∧
    ((∀ (i : I3cAssign) (a : BitVec 7) (s : State), i = .entdaa a ∨ i = .setdasa 0x2A a → s.trap = none → s.board.auxOk = true →
        ∃ t, exec (.i3cDynamicAddress i) s = .next t ∧ t.board.i3cAddr = some a ∧ { t with board := s.board } = s) ∧
      (∀ (x a : BitVec 7) (s : State), x ≠ 0x2A → s.trap = none → exec (.i3cDynamicAddress (.setdasa x a)) s = .next s) ∧
      (∀ (bytes : List Byte) (s : State), s.trap = none → s.board.auxOk = true → bytes.length = 4 →
        ∃ t, exec (.i3cPrivateWrite 0x100 bytes) s = .next t ∧ t.board.i3cOff = 0x100 ∧
          Tab.gets telemDefault t.board.telem 0x100 4 = bytes ∧ { t with board := s.board } = s) ∧
      (∀ (len : Nat) (s : State), s.trap = none → s.board.auxOk = true →
        exec (.i3cPrivateRead len) s = .next (s.emit (.i3cData ((List.range len).map fun i => s.telemByte (s.board.i3cOff + i))))) ∧
      (∀ (off : Nat) (s : State), s.trap = none → s.board.auxOk = true → s.bar0Open = true →
        ofLe (Tab.gets telemDefault s.board.telem 0x100 4) = off → off % 4 = 0 → off ≠ 0x10008 →
        ∃ t, exec (.i3cIndirectGo 1) s = .next t ∧ Tab.gets telemDefault t.board.telem 0x104 4 = leBytes 4 (s.readReg .i3c off) ∧
          Tab.gets telemDefault t.board.telem 0x108 4 = leBytes 4 0 ∧ { t with board := s.board } = s) ∧
      (∀ (off : Nat) (s : State), s.trap = none → s.board.auxOk = true → s.bar0Open = true →
        ofLe (Tab.gets telemDefault s.board.telem 0x100 4) = off → off % 4 ≠ 0 →
        ∃ t, exec (.i3cIndirectGo 1) s = .next t ∧ Tab.gets telemDefault t.board.telem 0x104 4 = leBytes 4 0 ∧
          t.flag F.accBad = true ∧ OnlyRegs s { t with board := s.board } [Reg.ctlAccStatus]) ∧
      (∀ s : State, s.trap = none → s.board.auxOk = true → s.bar0Open = false →
        ∃ t, exec (.i3cIndirectGo 1) s = .next t ∧ Tab.gets telemDefault t.board.telem 0x108 4 = leBytes 4 (2 ^ 30) ∧
          { t with board := s.board } = s))) ∧
  ((∀ (die : Nat) (scan : List Bool) (s : State), s.trap = none → s.board.modPg = true → die < 2 →
      ∃ t, exec (.jtagInstruction die 1 scan) s = .next t ∧ t.out = .jtagData die (lowBits 32 s.idCode) :: s.out ∧
        t.board.jtag = s.board.jtag.set die 1 ∧ { t with board := s.board, out := s.out } = s) ∧
    (∀ (die : Nat) (scan : List Bool) (s : State), s.trap = none → s.board.modPg = true → die < 2 →
      let acts := (s.fld F.devState = Dev.boot ∨ s.fld F.devState = Dev.quiesced ∨ s.fld F.devState = Dev.retired) ∧ s.attested = false
      ∃ t, exec (.jtagInstruction die 3 scan) s = .next t ∧
        (acts → t.out = .jtagData die (t.pinLevels die) :: s.out ∧ (die, scan) ∈ t.board.boundary) ∧
        (¬ acts → t.out = .jtagData die [false] :: s.out ∧ t.board.boundary = s.board.boundary ∧
          t.pinLevels die = s.coreLevels)) ∧
    (∀ (die : Nat) (scan : List Bool) (s : State), s.trap = none → s.board.modPg = true → die < 2 →
      ∃ t, exec (.jtagInstruction die 2 scan) s = .next t ∧ t.out = .jtagData die s.coreLevels :: s.out ∧
        (die, scan) ∈ t.board.boundary ∧ { t with board := s.board, out := s.out } = s) ∧
    (∀ (die code : Nat) (scan : List Bool) (s : State), s.trap = none → s.board.modPg = true → die < 2 → 6 ≤ code →
      (s.flag F.unlocked = false → ∃ t, exec (.jtagInstruction die code scan) s = .next t ∧
        t.out = .jtagData die [false] :: s.out ∧ t.board.boundary = s.board.boundary) ∧
      (s.flag F.unlocked = true → exec (.jtagInstruction die code scan) s = .refused .privateJtag)))

/-- The management port (R118, R555, R556): a packet of an untagged frame to the port's address goes to the management ring
its header names; an ARP request for MGMT.IPV4 is answered; a frame that is discarded, a tagged one or one to another address
among them, is counted in MGMT.RX_DROP. Which frames without a packet that a ring takes are discarded is the model's reading
(log entry 56). -/
def Obligations.ManagementPortTakesItsFrames : Prop :=
  (∀ (src : BitVec 48) (ws : List W) (s : State), s.trap = none → s.mgmtLive = true → s.takesBells = true →
    s.flag (F.ringEnable (wbits ws 1 11 0)) = true → s.fld (F.ringSource (wbits ws 1 11 0)) = 2 →
    s.pendingCount (wbits ws 1 11 0) < 2 ^ s.fld (F.ringLog2 (wbits ws 1 11 0)) →
    ∃ t, exec (.noleugFrame ⟨s.fuses.mac, src, false⟩ [ws]) s = .next t ∧
      (t.ringx (wbits ws 1 11 0)).mgmt = (s.ringx (wbits ws 1 11 0)).mgmt ++ [(src, ws)] ∧
      (t.ringx (wbits ws 1 11 0)).prod = (s.ringx (wbits ws 1 11 0)).prod + 1 ∧ { t with rings := s.rings, arb := s.arb } = s) ∧
  (∀ (head : FrameHead) (packets : List (List W)) (s : State), s.trap = none → s.mgmtLive = true →
    head.tagged = true ∨ head.dst ≠ s.fuses.mac →
    ∃ t, exec (.noleugFrame head packets) s = .next t ∧
      t.fld (cnt Reg.mgmtDrop) = min (s.fld (cnt Reg.mgmtDrop) + 1) 0xFFFFFFFF ∧ OnlyRegs s t [Reg.mgmtDrop]) ∧
  (∀ (ip : W) (head : FrameHead) (s : State), s.trap = none → s.mgmtLive = true →
    (head.tagged = false → head.dst = s.fuses.mac ∨ head.dst = 0xFFFFFFFFFFFF → ip ≠ 0 → s.reg Reg.mgmtIp = ip →
      exec (.arpRequest ip head) s = .next (s.emit (.arpReply ip head.src))) ∧
    (head.tagged = true ∨ head.dst ≠ s.fuses.mac ∧ head.dst ≠ 0xFFFFFFFFFFFF ∨ ip = 0 ∨ s.reg Reg.mgmtIp ≠ ip →
      ∃ t, exec (.arpRequest ip head) s = .next t ∧
      t.fld (cnt Reg.mgmtDrop) = min (s.fld (cnt Reg.mgmtDrop) + 1) 0xFFFFFFFF ∧ OnlyRegs s t [Reg.mgmtDrop])) ∧
  (∀ s : State, s.trap = none → s.mgmtLive = true →
    ∃ t, exec .mgmtFrameDrop s = .next t ∧ t.fld (cnt Reg.mgmtDrop) = min (s.fld (cnt Reg.mgmtDrop) + 1) 0xFFFFFFFF ∧
      OnlyRegs s t [Reg.mgmtDrop])

/-! ### System time -/

/-- A reference corrects STIME. A tick sends one word with the fields of R76. A follower in LOCKED takes the offset of R78
from a word of its upstream port, corrects by rate alone (R79), and leaves LOCKED after 16 words beyond 3 ns (R80). In role 2
a Sync, with its Follow_Up where the master is two-step, has a Delay_Req sent, and the Delay_Resp gives the offset, half of
the two ways' sum (R74); a message in a tagged frame, to another address, over UDP to another address than MGMT.IPV4, or while
PTP is off, is discarded and counted (R555, R556). Offsets are rounded to the nearest ns, ties to even (R66). In ACQUIRING an
offset within 1 ns counts towards LOCKED; a later reference steps STIME forward; an earlier one within 1 s of a held epoch
holds it; one farther behind is FAULT (R71, R80). That a hold begun in roles 0 to 2 is followed by the 64 words of LOCKED is
the model's reading (log entry 75), and so is the reference's advance with the oscillator between two words (log entry 35). -/
def Obligations.TimeBaseFollowsItsReference : Prop :=
  (∀ (p : Nat) (s : State), p < s.tb.ports.length → s.trap = none → s.timeLink p = true → (s.timePort p).txSeq < 2 ^ 16 →
    ∃ t w, exec (.timeTransferTick p) s = .next t ∧ t.out = .timeWord p w :: s.out ∧
      wbits w 0 31 24 = 0x5A ∧ wbits w 0 23 20 = s.ownHops ∧ wbits w 0 19 16 = 0 ∧ wbits w 0 15 0 = (s.timePort p).txSeq ∧
      wordAt w 1 = s.tb.stime % 2 ^ 32 ∧ wordAt w 2 = s.tb.stime / 2 ^ 32 % 2 ^ 32 ∧
      wbits w 3 31 16 = (s.timePort p).rxSeq % 2 ^ 16 ∧ wbits w 3 15 0 = 0 ∧
      wordAt w 4 = (s.tb.stime - (s.timePort p).rxAt) % 2 ^ 32 ∧
      (t.timePort p).txSeq = ((s.timePort p).txSeq + 1) % 2 ^ 16 ∧
      (t.timePort p).sent.find? (fun e => e.1 == (s.timePort p).txSeq) = some ((s.timePort p).txSeq, s.tb.stime) ∧
      { t with tb := { t.tb with ports := s.tb.ports }, out := s.out } = s) ∧
  (∀ (p : Nat) (words : List W) (t1 : Nat) (s : State), p < 48 → p < s.tb.ports.length → s.trap = none →
    s.timeLink p = true → s.fld F.tbRole = 0 → s.fld F.tbUpstream = p → s.fld F.tbState = TbSt.locked →
    words.length = 5 → wbits words 0 31 24 = 0x5A → wbits words 0 23 20 < 15 →
    (s.timePort p).sent.find? (fun e => e.1 == wbits words 3 31 16) = some (wbits words 3 31 16, t1) →
    ∃ t, ∃ off : Int, exec (.timeTransferWord p words) s = .next t ∧
      (let rest := 16 * off - (16 * (((wordAt words 1 + 2 ^ 32 * wordAt words 2 : Nat) : Int) - s.tb.stime) +
        8 * (((s.tb.stime : Int) - t1) - wordAt words 4) + Fp.signed 16 (s.fld (F.portAsym p)))
       rest.natAbs ≤ 8 ∧ (rest.natAbs = 8 → off % 2 = 0)) ∧
      t.tb.stime = s.tb.stime ∧ t.tb.epoch = s.tb.epoch ∧
      (t.timePort p).hops = wbits words 0 23 20 ∧ (t.timePort p).rxSeq = wbits words 0 15 0 ∧
      (t.timePort p).rxAt = s.tb.stime ∧
      t.fld F.tbState = (if 3 < off.natAbs ∧ 15 ≤ s.tb.bad then TbSt.acquiring else TbSt.locked) ∧
      t.fld F.tbHops = (if 3 < off.natAbs ∧ 15 ≤ s.tb.bad then 15 else wbits words 0 23 20 + 1) ∧
      (¬ (3 < off.natAbs ∧ 15 ≤ s.tb.bad) →
        t.tb.bad = (if 3 < off.natAbs then s.tb.bad + 1 else 0) ∧ t.tb.slew = meanOf ((off :: s.tb.offs).take 16)) ∧
      { t with tb := s.tb, regs := s.regs } = s ∧ ∀ o, o ≠ Reg.tbStatus → t.reg o = s.reg o) ∧
  (∀ (m : PtpFrame) (s : State), s.trap = none → s.mgmtLive = true → s.flag F.mgmtPtp = false ∨ m.head.tagged = true ∨
      m.head.dst ≠ s.fuses.mac ∧ m.head.dst ∉ ptpGroups ∨ (∃ a, m.ip = some a ∧ (a = 0 ∨ s.reg Reg.mgmtIp ≠ a)) →
    ∃ t, exec (.ptpMessage m) s = .next t ∧ t.fld (cnt Reg.mgmtDrop) = min (s.fld (cnt Reg.mgmtDrop) + 1) 0xFFFFFFFF ∧
      OnlyRegs s t [Reg.mgmtDrop]) ∧
  (∀ (head : FrameHead) (ip : Option W) (seq at_ : Nat) (s : State), s.trap = none → s.fld F.tbRole = 2 → s.mgmtLive = true →
    s.flag F.mgmtPtp = true → head.tagged = false → head.dst = s.fuses.mac ∨ head.dst ∈ ptpGroups →
    (∀ a, ip = some a → a ≠ 0 ∧ s.reg Reg.mgmtIp = a) →
    let udp := ip.isSome
    let x := s.tb.ptp
    let req := (x.reqSeq + 1) % 2 ^ 16
    exec (.ptpMessage ⟨head, ip, .sync seq none⟩) s = .next { s with tb := { s.tb with
      ptp := { x with syncSeq := seq, t1 := none, t2 := s.tb.stime, t3 := none } } } ∧
    exec (.ptpMessage ⟨head, ip, .sync seq (some at_)⟩) s = .next ({ s with tb := { s.tb with
      ptp := { syncSeq := seq, t1 := some at_, t2 := s.tb.stime, t3 := some s.tb.stime, reqSeq := req } } }.emit (.delayReq udp req)) ∧
    (seq = x.syncSeq → x.t1 = none →
      exec (.ptpMessage ⟨head, ip, .followUp seq at_⟩) s = .next ({ s with tb := { s.tb with
        ptp := { x with t1 := some at_, t3 := some s.tb.stime, reqSeq := req } } }.emit (.delayReq udp req)))) ∧
  (∀ (head : FrameHead) (ip : Option W) (seq t1 t3 t4 : Nat) (s : State), s.trap = none → s.fld F.tbRole = 2 →
    s.mgmtLive = true → s.flag F.mgmtPtp = true → head.tagged = false → head.dst = s.fuses.mac ∨ head.dst ∈ ptpGroups →
    (∀ a, ip = some a → a ≠ 0 ∧ s.reg Reg.mgmtIp = a) → s.fld F.tbState = TbSt.acquiring → s.tb.hold = none → s.systemJobs = [] →
    s.tb.ptp.t1 = some t1 → s.tb.ptp.t3 = some t3 → seq = s.tb.ptp.reqSeq →
    ∃ t, ∃ off : Int, exec (.ptpMessage ⟨head, ip, .delayResp seq t4⟩) s = .next t ∧
      (let rest := 2 * off - ((t1 : Int) - s.ptpBase - s.tb.ptp.t2 + ((t4 : Int) - s.ptpBase - t3))
       rest.natAbs ≤ 1 ∧ (rest.natAbs = 1 → off % 2 = 0)) ∧
      t.tb.ptp = { s.tb.ptp with t1 := none, t3 := none } ∧
      (off.natAbs ≤ 1 →
        t.tb.stime = s.tb.stime ∧ t.tb.hold = none ∧
          t.fld F.tbState = (if 63 ≤ s.tb.good then TbSt.locked else TbSt.acquiring)) ∧
      (1 < off → (t.tb.stime : Int) = s.tb.stime + off ∧ t.tb.bStime = t.tb.stime ∧ t.tb.hold = none ∧
        t.fld F.tbState = TbSt.acquiring ∧ t.tb.good = 0) ∧
      (off < -1 → 0 ≤ s.tb.stime + off → s.tb.epoch = true → off.natAbs ≤ 1000000000 →
        t.tb.stime = s.tb.stime ∧ t.tb.hold = some off.natAbs ∧ t.fld F.tbState = TbSt.acquiring) ∧
      (off < -1 → 0 ≤ s.tb.stime + off → s.tb.epoch = true → 1000000000 < off.natAbs →
        t.tb.stime = s.tb.stime ∧ t.fld F.tbState = TbSt.fault))

/-- Without a reference (R80): LOCKED goes to HOLDOVER, and HOLDOVER to UNSYNC once holdover_limit has passed; role 3 loses
none. The two copies (R87): within 2 ns nothing is done; beyond, copy_mismatch is set, the copy nearer the reference is kept,
Control Die A's of two as near (the model's choice, log entry 76), and the other is to be brought to it within 1 ms, and with
no reference, or both copies beyond 3 ns of it, the time base fails. TIME_PPS_OUT rises once a whole second, within 2 ns, in
LOCKED or HOLDOVER (R75). None of these moves STIME (R71). -/
def Obligations.TimeBaseKeepsTimeWithoutReference : Prop :=
  (∀ s : State, s.trap = none → s.fld F.tbRole = 1 ∨ s.fld F.tbRole = 2 → s.fld F.tbState = TbSt.locked →
    s.fld F.tbHoldover ≠ 0 →
    ∃ t, exec .tbReferenceLoss s = .next t ∧ t.fld F.tbState = TbSt.holdover ∧ t.tb.holdoverAt = s.tb.stime ∧
      t.fld F.tbHops = 0 ∧ t.tb.stime = s.tb.stime ∧ { t with tb := s.tb, regs := s.regs } = s ∧
      ∀ o, o ≠ Reg.tbStatus → t.reg o = s.reg o) ∧
  (∀ s : State, s.trap = none → s.fld F.tbRole = 3 → exec .tbReferenceLoss s = .next s) ∧
  (∀ s : State, s.trap = none → s.fld F.tbRole = 0 → s.fld F.tbState = TbSt.locked → s.fld F.tbHoldover ≠ 0 →
    (∀ p, p < 48 → p ≠ s.fld F.tbUpstream → s.timeLink p = false ∨ 15 ≤ (s.timePort p).hops) →
    s.fld F.tbUpstream < s.tb.ports.length →
    ∃ t, exec .tbReferenceLoss s = .next t ∧ t.fld F.tbState = TbSt.holdover ∧ t.fld F.tbUpstream = 0xFF ∧
      t.tb.stime = s.tb.stime) ∧
  (∀ s : State, s.trap = none → s.fld F.tbState = TbSt.holdover → s.systemJobs = [] →
    ∃ t, exec .holdoverLimitExpiry s = .next t ∧
      t.fld F.tbState = (if s.tb.holdoverAt + s.fld F.tbHoldover * 1000000 ≤ s.tb.stime then TbSt.unsync else TbSt.holdover) ∧
      t.tb = s.tb ∧ OnlyRegs s t [Reg.tbStatus]) ∧
  (∀ (drift x : Int) (present : Bool) (s : State), s.trap = none → s.systemJobs = [] →
    let b := ((s.tb.bStime : Int) + drift).toNat
    let diff := (b : Int) - s.tb.stime
    ∃ t, exec (.tbCopyCompare drift present x) s = .next t ∧ t.tb.stime = s.tb.stime ∧ t.tb.bStime = b ∧
      (diff.natAbs ≤ 2 → t = { s with tb := { s.tb with bStime := b } }) ∧
      (2 < diff.natAbs → t.fld F.tbMismatch = 1 ∧ t.safe.win6 = s.safe.win6 + 1 ∧
        (present = true → x.natAbs ≤ 3 ∨ (x - diff).natAbs ≤ 3 →
          t.fld F.tbState = s.fld F.tbState ∧
            (x.natAbs ≤ (x - diff).natAbs →
              t.tb.pull = 0 ∧ t.tb.bPull = -diff ∧ (s.tb.bPull = 0 → t.tb.pullNs = 1000000)) ∧
            ((x - diff).natAbs < x.natAbs →
              t.tb.bPull = 0 ∧ t.tb.pull = diff ∧ (s.tb.pull = 0 → t.tb.pullNs = 1000000))) ∧
        (present = false ∨ 3 < x.natAbs ∧ 3 < (x - diff).natAbs →
          t.fld F.tbState = TbSt.fault))) ∧
  (∀ s : State, s.trap = none → exec .timePpsOutPulse s = .next
    (if (s.fld F.tbState = TbSt.locked ∨ s.fld F.tbState = TbSt.holdover) ∧ s.flag F.tbPpsEn = true ∧
      s.tb.stime % 1000000000 ≤ 2 ∧ s.tb.pps ≠ some (s.tb.stime / 1000000000) then
      { s with tb := { s.tb with pps := some (s.tb.stime / 1000000000) } }.emit (.ppsPulse s.tb.stime) else s))

/-- TIME_LOAD (R103, R73): role 3 takes the value at once and is LOCKED, with its epoch held; role 1 takes it at the next edge
of TIME_PPS_IN in ACQUIRING; a follower refuses with TIME_ROLE and keeps its time. A scheduled NOP is armed, and takes no
effect before its instant; at it, the launch timer ends it with OK where its fence is satisfied, and with LATE_INSTANT where
it is not (R85, R86, R588). -/
def Obligations.TimeLoadAndScheduledNop : Prop :=
  ((∀ (c : CmdId) (m : Cmd) (s : State), s.Runs c 0x03 m → m.sched = false → s.timers = 0 → s.tb.hold = none →
      s.fld F.tbState = TbSt.free ∨ s.fld F.tbState = TbSt.acquiring ∨ s.fld F.tbState = TbSt.unsync →
      let v := m.word 4 + 2 ^ 32 * m.word 5
      (s.fld F.tbRole = 3 → s.tb.epoch = false ∨ s.tb.stime ≤ v →
        ∃ t, exec (.timeLoad c) s = .next t ∧ t.tb.stime = v ∧ t.fld F.tbState = TbSt.locked ∧ t.tb.epoch = true ∧
          t.fld F.tbHops = 0 ∧ Ended { s with tb := { s.tb with stime := v } } t (m.begun s) okStatus ∧
          OnlyEnd s { t with tb := s.tb } c [Reg.tbStatus]) ∧
      (s.fld F.tbRole = 1 → s.tb.epoch = false ∨ s.tb.stime ≤ v + 1000000000 →
        ∃ t, exec (.timeLoad c) s = .next t ∧ t.tb.loaded = some v ∧ t.tb.stime = s.tb.stime ∧
          t.fld F.tbState = TbSt.acquiring ∧ Ended s t (m.begun s) okStatus ∧
          OnlyEnd s { t with tb := s.tb } c [Reg.tbStatus]) ∧
      (s.fld F.tbRole = 0 ∨ s.fld F.tbRole = 2 →
        ∃ t, exec (.timeLoad c) s = .next t ∧ Refused s t (m.begun s) ⟨St.timeRole, s.fld F.tbRole, s.fld F.tbState⟩ ∧
          t.tb = s.tb ∧ OnlyEnd s t c)) ∧
    (∀ (v : Nat) (s : State), s.trap = none → s.fld F.tbRole = 1 → s.tb.loaded = some v →
      (s.fld F.tbState = TbSt.acquiring → s.tb.epoch = false ∨ s.tb.stime ≤ v →
        ∃ t, exec .timePpsInEdge s = .next t ∧ t.tb.stime = v ∧ t.tb.loaded = none ∧ t.fld F.tbState = TbSt.acquiring ∧
          OnlyRegs s { t with tb := s.tb } [Reg.tbStatus]) ∧
      (s.fld F.tbState ≠ TbSt.acquiring → exec .timePpsInEdge s = .next s))) ∧
  ((∀ (c : CmdId) (m : Cmd) (s : State), s.runnable c 0x00 = some m → m.sched = true → s.trap = none →
      exec (.nop c) s = .next (s.arm c)) ∧
    (∀ (m : Cmd) (s : State), s.cmds = [m] → m.opcode = 0x00 → m.sched = true → m.phase = .armed → m.start = 0 →
      s.CanEnd m.id → s.rst.held = [] → s.rst.pinHeld = none →
      (s.tb.stime < m.t → exec .launchTimerFire s = .next s) ∧
      (m.t ≤ s.tb.stime →
        ∃ t, exec .launchTimerFire s = .next t ∧ Ended s t (m.begun s) okStatus ∧ OnlyEnd s t m.id)) ∧
    (∀ (m o : Cmd) (s : State), s.cmds = [o, m] → m.opcode = 0x00 → m.sched = true → m.phase = .armed → m.fence = true →
      o.opcode = 0x01 → o.phase = .running → o.sched = false → o.ops = [] → o.id ≠ m.id → o.id.ring = m.id.ring → o.order < m.order →
      s.CanEnd m.id → s.rst.held = [] → s.rst.pinHeld = none → m.t ≤ s.tb.stime →
      ∃ t, exec .launchTimerFire s = .next t ∧
        Ended s t m ⟨St.lateInstant, s.tb.stime % 2 ^ 32, s.tb.stime / 2 ^ 32⟩ ∧ OnlyEnd s t m.id))

/-! ### Reset, boot, quiesce and aborts -/

/-- Reset and boot (R499, R501, R504 to R507, R560 to R562): MOD_RESET_N low for 1 µs takes the device to RESETTING with cause
1 and a counted reset, a shorter pulse does nothing, and the pin stays low until it is released; the end of the actions takes
RESETTING to BOOT with every command gone, on-die memory reading 0 (the model's choice, log entry 3), registers at reset and
the other tiers kept; once their periods are over (counted in operating seconds, the model's choice, log entry 90) the
watchdogs take it to RESETTING and then to FAILSAFE, with the Hall converters off and MOD_PG low; BOOT ends in READY or
RETIRED with the image of the highest version that is valid on both dies' boot flashes, and after a power-on with the zeroing
of the Cellar begun, and stays BOOT with none, also where the dies' images differ; each second is counted. -/
def Obligations.ResetAndBootByTheirEvents : Prop :=
  (∀ (ns : Nat) (s : State), ns < 1000 → exec (.modResetNAssert (.pulse ns)) s = fin s) ∧
  (∀ s : State, s.trap = none →
    exec (.modResetNAssert .released) s = .next { s with board := { s.board with resetN := true } }) ∧
  (∀ (pin : ResetPin) (ns : Nat) (s : State), pin = .held ∨ pin = .pulse ns → 1000 ≤ ns → s.trap = none → s.cmds = [] →
    s.ck.stream = none ∨ s.flag F.logEnable = false →
    ∃ t, exec (.modResetNAssert pin) s = .next t ∧
      t.board = { s.board with resetN := if pin = .held then false else s.board.resetN } ∧
      (s.canReset = false → { t with board := s.board } = s) ∧
      (s.canReset = true →
        t.fld F.devState = Dev.resetting ∧ t.fld F.cause = 1 ∧ t.rst.wdB = true ∧ t.rst.wdDue = s.rst.opsec + max 1 (s.fld F.resetTimeout) ∧
          t.rst.history = s.rst.opsec :: s.rst.history ∧ t.usablePorts = [] ∧ (∀ k, k < 12 → t.flag (F.selfRefresh k) = true) ∧ t.mem = s.mem ∧ t.gens = s.gens)) ∧
  (∀ s : State, s.Inv → s.fld F.devState = Dev.resetting →
    ∃ t, exec .warmResetActionsDone s = .next t ∧ t.fld F.devState = Dev.boot ∧ t.cmds = [] ∧ t.fld F.cause = s.fld F.cause ∧
      (∀ k, k < 3 * 2 ^ 64 → Tab.get memDefault t.mem k = 0) ∧
      (∀ k, 3 * 2 ^ 64 ≤ k → Tab.get memDefault t.mem k = Tab.get memDefault s.mem k) ∧
      t.gens = [] ∧ t.seed = 0 ∧ (∀ n, n < 4096 → t.fld (F.ringEnable n) = 0 ∧ t.fld (F.cqEnable n) = 0) ∧
      t.fld F.tbState = TbSt.free ∧ t.tb.epoch = false ∧ t.fuses = s.fuses ∧ t.rst.history = s.rst.history ∧
      t.rst.warmBoot = true) ∧
  (∀ s : State, s.trap = none → s.cmds = [] → s.fld F.devState = Dev.resetting ∨ s.fld F.devState = Dev.boot →
    (s.rst.opsec + 1 < s.rst.wdDue → exec .watchdogExpiry s = .next s) ∧
    (s.rst.wdDue ≤ s.rst.opsec + 1 → ∃ t, exec .watchdogExpiry s = .next t ∧
      (s.rst.wdB = true → t.fld F.devState = Dev.resetting ∧ t.fld F.cause = 4 ∧ t.rst.wdB = false ∧ t.rst.wdA = true ∧
        t.rst.wdDue = s.rst.opsec + max 1 (s.fld F.resetTimeout) ∧ t.rst.history = s.rst.opsec :: s.rst.history) ∧
      (s.rst.wdB = false → s.rst.wdA = true → t.fld F.devState = Dev.failsafe ∧ t.rst.hallsOff = true ∧
        t.board.faultN = true ∧ t.board.modPg = false ∧ (∀ h, h < s.halls.length → (t.halls.getD h {}).supply = 0)) ∧
      (s.rst.wdB = false → s.rst.wdA = false → t = s))) ∧
  (∀ (a b x y : FlashImage) (s : State), s.trap = none → s.fld F.devState = Dev.boot → s.rst.warmBoot = false →
    s.board.flash = [[some a, some b], [some x, some y]] →
    let good := fun (g : FlashImage) => g.image.key = s.fuses.keyHash ∧ g.image.sigOk = true ∧ s.fuses.minSvn ≤ g.image.svn
    let none_ := fun (t : State) => t.mem = s.mem ∧ t.fld F.devState = Dev.boot ∧ t.fld F.noImage = 1 ∧
      t.fld F.bootCode = 0xA003 ∧ t.board.romServes = true ∧ t.board.configOk = s.board.configOk
    ∃ t, exec (.bootComplete []) s = .next t ∧
      (a = x → b = y → good a → good b → max a.image.svn b.image.svn < 2 ^ 8 → t.mem = s.mem ∧
        t.fld F.devState = (if s.mustRetire then Dev.retired else Dev.ready) ∧ t.board.configOk = true ∧
          t.fld F.bootSlot = (if a.image.svn ≤ b.image.svn then 1 else 0) ∧
          t.fld F.bootSvn = max a.image.svn b.image.svn ∧ t.fld F.noImage = 0 ∧
          (∀ k, k < 12 → t.flag (F.zeroing k) = true) ∧ t.flag F.bootZeroing = true ∧
          (s.mustRetire = true → t.usablePorts = [])) ∧
      (¬ good a ∨ ¬ good x ∨ a.digest ≠ x.digest → ¬ good b ∨ ¬ good y ∨ b.digest ≠ y.digest → none_ t) ∧
      ∀ d e, d < 2 → e < 2 → ∃ u, exec (.bootComplete [(d, 0), (e, 1)]) s = .next u ∧ none_ u) ∧
  (∀ s : State, s.trap = none → s.fld F.devState ≠ Dev.off →
    ∃ t, exec .operatingSecondTick s = .next t ∧ t.rst.opsec = s.rst.opsec + 1 ∧
      t.rst.opsecSaved = (if s.rst.opsecSaved + 60 ≤ s.rst.opsec + 1 then s.rst.opsec + 1 else s.rst.opsecSaved) ∧
      (s.powered = true → ∀ k, k < 12 → Tab.get noErr t.scrubAge k = Tab.get noErr s.scrubAge k + 1) ∧
      { t with rst := s.rst, scrubAge := s.scrubAge } = s)

/-- The commands of one device (R502, R503, R508, R511, R512, R532): QUIESCE stops issue, quenches and fences the package and
ends with OK; its timeout resets; RESUME undoes what the entry to QUIESCED did (the model's reading of what that is, log entry
34); PKG_RESET resets and writes no reply; READMIT does so for a retired device whose word names it; ABORT_JOB records a job
and floods its notice, or clears the record. The notice of a job abort that has not been seen in the latest 1 ms (R454, R510):
it goes on, one hop further, on every usable port but the one it came by; the job is recorded with its raiser; and a command
of the job ends with JOB_ABORT, whose detail1 is the raiser of the first abort in the order of R10, the STIME of the event
before the source. How long a notice is remembered is the model's choice (log entry 33), and that its packet carries the STIME
of the event is its reading (log entry 78). -/
def Obligations.DeviceCommandsAndJobAborts : Prop :=
  ((∀ (c : CmdId) (m : Cmd) (s : State), s.Runs c 0x76 m → s.fld F.devState = Dev.running → s.ck.stream = none →
      s.fab.outq = [] → (∀ o ∈ s.cmds, o.job = 0 ∧ o.opcode ≠ 0x60 ∧ o.opcode ≠ 0x93 ∧ o.ops = []) →
      ∃ t, exec (.quiesce c) s = .next t ∧ Ended s t (m.begun s) okStatus ∧ t.fld F.devState = Dev.quiesced ∧
        t.fld F.qcause = 1 ∧ t.rst.stopped = true ∧ t.rst.quiesceAt = s.tb.stime ∧ t.fab.quench0 = true ∧
        t.flag F.quenchPackage = true ∧ t.fab.selfFence = true ∧ t.usablePorts = [] ∧
        t.cmds = s.cmds.filter fun o => decide (o.id ≠ c)) ∧
    (∀ s : State, s.trap = none → s.fld F.devState = Dev.quiesced → s.jobsToAbort = [] → (∀ o ∈ s.cmds, o.opcode ≠ 0x60) →
      ∃ t, exec .quiesceTimeout s = .next t ∧
        (s.rst.quiesceAt + s.quiesceLimit ≤ s.tb.stime → s.packageIdle = false →
          t.fld F.devState = Dev.resetting ∧ t.fld F.cause = 3) ∧
        (s.tb.stime < s.rst.quiesceAt + s.quiesceLimit ∨ s.packageIdle = true → t = s)) ∧
    (∀ (c : CmdId) (m : Cmd) (s : State), s.Runs c 0x77 m → (∀ p, p < 48 → s.linkFree p) →
      ∃ t, exec (.resume c) s = .next t ∧
        (s.fld F.devState = Dev.quiesced ∧ s.fld F.qcause = 1 →
          Ended s t (m.begun s) okStatus ∧ t.rst.stopped = false ∧ t.fab.selfFence = false ∧ t.fld F.qcause = 0 ∧
            t.fab.quench0 = (if s.rst.ownQuench then false else s.fab.quench0) ∧
            t.fld F.devState = (if s.cmds.all fun o => decide (o.id = c) then Dev.ready else Dev.running)) ∧
        (¬ (s.fld F.devState = Dev.quiesced ∧ s.fld F.qcause = 1) →
          Refused s t (m.begun s) (oor 0) ∧ OnlyEnd s t c)) ∧
    (∀ (c : CmdId) (m : Cmd) (s : State), s.Runs c 0x74 m → s.canReset = true →
      s.ck.stream = none ∨ s.flag F.logEnable = false →
      (∀ o ∈ s.cmds, o.job = 0 ∧ o.opcode ≠ 0x60) →
      ∃ t, exec (.pkgReset c) s = .next t ∧ t.findCmd c = none ∧ t.fld F.devState = Dev.resetting ∧ t.fld F.cause = 2 ∧
        t.rst.history = s.rst.opsec :: s.rst.history ∧ ∀ k, ¬ s.inLedger c k → Tab.get memDefault t.mem k = Tab.get memDefault s.mem k) ∧
    (∀ (c : CmdId) (m : Cmd) (s : State), s.Runs c 0x75 m → s.fld F.devState = Dev.retired →
      (∀ o ∈ s.cmds, o.job = 0 ∧ o.opcode ≠ 0x60) →
      ∃ t, exec (.readmit c) s = .next t ∧
        (m.word 4 = 0xAD000000 + s.pkg → t.findCmd c = none ∧ t.fld F.devState = Dev.resetting ∧ t.fld F.cause = 5 ∧
          t.rst.retired = false ∧ t.rst.history = []) ∧
        (m.word 4 ≠ 0xAD000000 + s.pkg → Refused s t (m.begun s) (oor 4) ∧ t.fld F.devState = Dev.retired ∧ t.rst = s.rst)) ∧
    (∀ (c : CmdId) (m : Cmd) (s : State), s.Runs c 0x78 m → s.bndBase = 0 → (∀ o ∈ s.cmds, o.opcode ≠ 0x60) →
      let j := m.bits 4 15 0
      ∃ t, exec (.abortJob c) s = .next t ∧
        (m.bits 4 31 31 = 1 → Ended s t (m.begun s) okStatus ∧
          t.rst.jobs = (if j = 0 then [] else s.rst.jobs.filter fun r => r.job != j) ∧
          OnlyEnd s { t with rst := s.rst } c [F.abortCount.off]) ∧
        (m.bits 4 31 31 = 0 → j ≠ 0 → (∀ o ∈ s.cmds, o.job ≠ j) → Ended s t (m.begun s) okStatus ∧
          (∀ o ∈ s.cmds, o.id ≠ c → t.findCmd o.id = s.findCmd o.id) ∧
          ((∀ r ∈ s.rst.jobs, r.job ≠ j) → s.rst.jobs.length < 16 →
            t.rst.jobs = s.rst.jobs ++ [{ job := j, origin := s.pkg, at_ := s.tb.stime }]) ∧
          ((∀ r ∈ s.rst.jobs, r.job ≠ j) → 16 ≤ s.rst.jobs.length → t.flag F.abortOverflow = true) ∧
          (s.noticeRoom = true → Flooded s t (withCrc (s.noticePkt 5 0 j 8 0)) s.usablePorts)))) ∧
  (∀ (p : Pkt) (inPort : Option Nat) (m : Cmd) (s : State), s.cmds = [m] → m.job = p.job → p.job ≠ 0 → s.CanEnd m.id →
      s.bndBase = 0 → s.rst.held = [] →
      (∀ q ∈ s.fab.seen, s.tb.stime < q.2.2 + 1000000 → q.1 = p.src → q.2.1 ≠ p.seq) →
      let first := match s.abortRec p.job with
        | some r => if r.at_ < p.stime ∨ (r.at_ = p.stime ∧ r.origin ≤ p.src) then r.origin else p.src
        | none => p.src
      ∃ t, exec (.jobAbortNotice p inPort) s = .next t ∧ Ended s t m ⟨St.jobAbort, p.job, first⟩ ∧ t.cmds = [] ∧
        (s.abortRec p.job = none → s.rst.jobs.length < 16 →
          t.rst.jobs = s.rst.jobs ++ [{ job := p.job, origin := p.src, at_ := p.stime }]) ∧
        (p.src, p.seq, s.tb.stime) ∈ t.fab.seen ∧
        Flooded s t { p with hops := p.hops + 1 } (s.usablePorts.filter fun q => decide (some q ≠ inPort)))

/-! ### Memory, rings and administration commands -/

/-- The scrub (R46, R47, R580): a line with no error changes nothing but a finished pass's age; one of up to three symbols is
counted and written back unless a write came between; a fourth and fifth are counted uncorrectable and stay. The zeroing of a
Cellar stack (R562) goes line by line, and zeroing ends with the last. Neither changes a byte. -/
def Obligations.ScrubAndZeroingByLine : Prop :=
  (∀ (tier line : Nat) (write last : Bool) (s : State), s.Calm → tier = 3 ∨ tier = 4 → s.hasAddr tier (64 * line) = true →
    let k := stackOf tier (64 * line)
    let key := memKey tier (64 * line)
    let n := Tab.get noErr s.errs key
    let corr := if tier = 3 then F.celCorr k else F.deepCorr k
    let uncorr := if tier = 3 then F.celUncorr k else F.deepUncorr k
    n ≤ 5 → s.flag F.logEnable = false →
    ∃ t, exec (.scrubLine tier line write last) s = .next t ∧ t.mem = s.mem ∧ t.cmds = s.cmds ∧
      Tab.get noErr t.scrubAge k = (if last then 0 else Tab.get noErr s.scrubAge k) ∧
      t.fld corr = (if 1 ≤ n ∧ n ≤ 3 then min (s.fld corr + 1) corr.top else s.fld corr) ∧
      t.fld uncorr = (if 4 ≤ n then min (s.fld uncorr + 1) uncorr.top else s.fld uncorr) ∧
      Tab.get noErr t.errs key = (if n ≤ 3 ∧ write = false then 0 else n) ∧
      ∀ j, j ≠ key → Tab.get noErr t.errs j = Tab.get noErr s.errs j) ∧
  (∀ (k : Nat) (s : State), k < 12 → s.trap = none → s.flag (F.zeroing k) = true →
    ∃ t, exec (.cellarZeroingLine k) s = .next t ∧ Tab.get noErr t.zeroAt k = Tab.get noErr s.zeroAt k + 1 ∧ t.mem = s.mem ∧
      t.flag (F.zeroing k) = decide (Tab.get noErr s.zeroAt k + 1 < 2 ^ 31) ∧
      (2 ^ 31 ≤ Tab.get noErr s.zeroAt k + 1 → t.flag F.bootZeroing = t.anyZeroing) ∧
      { t with zeroAt := s.zeroAt, regs := s.regs, moved := s.moved } = s)

/-- A decode takes the packet at the consumer index of the ring chosen by R96 (R97 to R101, R112). One that passes every check
is accepted: the index and the expected number move on, the command is held with the packet's fields, its Ledger entry shows
it accepted, and READY becomes RUNNING. Then its chapter's checks follow (R584: `checkNow`, which only a command with checks
of its own undergoes), a COMMIT takes its boundary slot (R517), and a RESTORE clears restore_ok (R530). -/
def Obligations.DecodedPacketIsAccepted : Prop :=
  ∀ (n : Nat) (ws : List W) (next : Nat) (s : State), n < 4096 → s.takesBells = true → s.chooseRing = some n →
    (s.ringx n).mgmt = [] → s.Sound → s.hasRange (s.packetAt n).1 (s.packetAt n).2 64 = true →
    ws = s.peekWords (s.packetAt n).1 (s.packetAt n).2 16 → s.checkPacket n ws = (none, some next) → next < 2 ^ 16 →
    (∀ r ∈ s.capRanges (wbits ws 0 31 24) ws none, s.hasRange r.1 r.2.1 r.2.2 = true) →
    accepts (s.fld F.devState) (wbits ws 0 31 24) = true →
    (wbits ws 1 31 16 ≠ 0 → (∀ r ∈ s.rst.jobs, r.job ≠ wbits ws 1 31 16) ∧ s.flag F.abortOverflow = false) →
    wbits ws 0 22 22 = 0 → s.hasRange 3 (s.ledgerAddr n (wbits ws 0 15 0)) 32 = true →
    ∃ t m, exec (.packetDecode none none) s =
        fin (((if m.opcode = 0x73 then t.setFld F.restoreOk 0 else t).checkNow m).takeSlot m) ∧
      (runOf m.opcode = none → m.opcode ≠ 0x73 → exec (.packetDecode none none) s = .next t) ∧ t.cmds = s.cmds ++ [m] ∧
      m.id = ⟨n, wbits ws 0 15 0⟩ ∧ m.opcode = wbits ws 0 31 24 ∧ m.flags = wbits ws 0 23 20 ∧ m.job = wbits ws 1 31 16 ∧
      m.words = ws.take (wbits ws 0 19 16 + 1) ∧ m.phase = .accepted ∧ m.start = 0 ∧ m.done = 0 ∧ 1 ≤ m.total ∧
      m.accAt = s.tb.stime ∧ m.order = s.arb.accepted ∧
      t.reg (Reg.ring n + 0x10) = s.reg (Reg.ring n + 0x10) + 1 ∧ t.fld (F.ringExpected n) = next ∧
      (t.ringx n).expSet = true ∧
      t.bytes 3 (s.ledgerAddr n (wbits ws 0 15 0)) 32 = wordBytes (ledgerWords m 0xFFFF 0) ∧
      (∀ k, ¬ s.inLedger m.id k → Tab.get memDefault t.mem k = Tab.get memDefault s.mem k) ∧
      t.fld F.devState = (if s.fld F.devState = Dev.ready then Dev.running else s.fld F.devState) ∧
      t.arb.decodes = s.arb.decodes + 1 ∧ t.pending = s.pending ∧ t.tb = s.tb

/-- A packet that fails a check is consumed, counted, answered with the first failing check's status, and not executed (R100,
R101): BAD_RING, SEQ_DUP, SEQ_GAP, BAD_OPCODE, BAD_LENGTH, BAD_FLAGS and BAD_RESERVED in this order, with the expected number
as the table has it. -/
def Obligations.MalformedPacketIsAnswered : Prop :=
  ∀ (n : Nat) (ws : List W) (s : State), n < 4096 → s.takesBells = true → s.chooseRing = some n →
    (s.ringx n).mgmt = [] → s.Sound → s.hasRange (s.packetAt n).1 (s.packetAt n).2 64 = true →
    ws = s.peekWords (s.packetAt n).1 (s.packetAt n).2 16 → s.flag F.logEnable = false → s.replyOpen n = true →
    s.hasRange (s.replyTier n) (s.replyAt n) 32 = true →
    let ring := wbits ws 1 11 0
    let seq := wbits ws 0 15 0
    let op := wbits ws 0 31 24
    let expected := s.fld (F.ringExpected n)
    let d := (expected + 2 ^ 16 - seq) % 2 ^ 16
    let bad : Status → Nat → Prop := fun st e => ∃ t, exec (.packetDecode none none) s = .next t ∧ t.cmds = s.cmds ∧
      t.reg (Reg.ring n + 0x10) = s.reg (Reg.ring n + 0x10) + 1 ∧ t.fld (F.ringExpected n) = e ∧
      t.fld (F.ringMalformed n) = min (s.fld (F.ringMalformed n) + 1) (F.ringMalformed n).top ∧
      t.bytes (s.replyTier n) (s.replyAt n) 32 = wordBytes (replyWords s n seq op 0 0 st (s.replyPhase n)) ∧
      ∀ k, ¬ s.inReply n k → Tab.get memDefault t.mem k = Tab.get memDefault s.mem k
    (ring ≠ n → bad ⟨St.badRing, ring, 0⟩ expected) ∧
    (ring = n → (s.ringx n).expSet = true → 1 ≤ d → d ≤ 32768 → bad ⟨St.seqDup, expected, 0⟩ expected) ∧
    (ring = n → (s.ringx n).expSet = true → 32769 ≤ d → bad ⟨St.seqGap, expected, 0⟩ ((seq + 1) % 2 ^ 16)) ∧
    (ring = n → (s.ringx n).expSet = false ∨ d = 0 →
      (opSpec op = none → bad ⟨St.badOpcode, 0, 0⟩ ((seq + 1) % 2 ^ 16)) ∧
      ∀ o, opSpec op = some o →
        (wbits ws 0 19 16 ≠ o.len → bad ⟨St.badLength, o.len, o.len⟩ ((seq + 1) % 2 ^ 16)) ∧
        (wbits ws 0 19 16 = o.len → wbits ws 0 22 22 = 1 → o.sched = false → bad ⟨St.badFlags, 0, 0⟩ ((seq + 1) % 2 ^ 16)) ∧
        (wbits ws 0 19 16 = o.len → wbits ws 0 22 22 = 0 ∨ o.sched = true → ∀ i v,
          reservedHit ws (headerResv (wbits ws 0 22 22 == 1) ++ o.resv) = some (i, v) →
          bad ⟨St.badReserved, i, v⟩ ((seq + 1) % 2 ^ 16)))

/-- NOP, WAIT_RING and ABORT_RING (R103): NOP ends with OK; WAIT_RING ends with OK once the awaited entry shows another status
than 0xFFFF, with OUT_OF_RANGE on a ring that is not enabled, with TIMEOUT and the latest completed number when its time is
up, and else waits; ABORT_RING ends what has not started with RING_ABORT and leaves the rest. The progress update writes a
running command's marker into its Ledger entry (R112). -/
def Obligations.AdministrationCommandsEndAsStated : Prop :=
  (∀ (c : CmdId) (m : Cmd) (s : State), s.Runs c 0x00 m → m.sched = false →
    ∃ t, exec (.nop c) s = .next t ∧ Ended s t (m.begun s) okStatus ∧ OnlyEnd s t c) ∧
  (∀ (c : CmdId) (m : Cmd) (s : State), s.Runs c 0x01 m →
    let w := m.bits 4 11 0
    let q := m.bits 5 15 0
    let at_ := s.ledgerAddr w q
    at_ + 32 ≤ s.ledgerAddr c.ring c.seq ∨ s.ledgerAddr c.ring c.seq + 32 ≤ at_ → s.hasRange 3 at_ 32 = true →
    ∃ t, exec (.waitRing c) s = .next t ∧
      (s.flag (F.ringEnable w) = false → Refused s t (m.begun s) (oor 4) ∧ OnlyEnd s t c) ∧
      (s.flag (F.ringEnable w) = true → ∀ st, st < 0xFFFF → s.word 3 at_ = q * 2 ^ 16 + st →
        Ended s t (m.begun s) okStatus ∧ OnlyEnd s t c) ∧
      (s.flag (F.ringEnable w) = true → s.word 3 at_ = q * 2 ^ 16 + 0xFFFF →
        { t with moved := (s.begin c).moved } = s.begin c ∧ t.findCmd c = some (m.begun s))) ∧
  (∀ (c : CmdId) (m : Cmd) (s : State), s.waitingRing c = some m → s.CanEnd c →
    let at_ := s.ledgerAddr (m.bits 4 11 0) (m.bits 5 15 0)
    let waits := fun (i : Instr) => ∃ t, exec i s = .next t ∧ { t with moved := s.moved } = s
    s.hasRange 3 at_ 32 = true →
    (∀ st, st < 0xFFFF → s.word 3 at_ = m.bits 5 15 0 * 2 ^ 16 + st →
      (∃ t, exec (.waitRingSatisfied c) s = .next t ∧ Ended s t m okStatus ∧ OnlyEnd s t c) ∧
      waits (.waitRingTimeout c)) ∧
    (s.word 3 at_ = m.bits 5 15 0 * 2 ^ 16 + 0xFFFF →
      waits (.waitRingSatisfied c) ∧
      (s.tb.stime < m.start + 1000 * m.word 6 → exec (.waitRingTimeout c) s = .next s) ∧
      (m.start + 1000 * m.word 6 ≤ s.tb.stime →
        ∃ t, exec (.waitRingTimeout c) s = .next t ∧
          Ended s t m ⟨St.timeout, (s.ringx (m.bits 4 11 0)).lastDone.getD 0xFFFFFFFF, 0⟩ ∧ OnlyEnd s t c))) ∧
  (∀ (c : CmdId) (m : Cmd) (s : State), s.Runs c 0x02 m →
    let started := fun (o : Cmd) => o.phase == .running && (o.ops.isEmpty || o.ops.any fun p => p.stage != .waiting)
    let victim := fun (o : Cmd) => o.id.ring == m.bits 4 11 0 && !started o && decide (o.id ≠ c)
    ((∀ o ∈ s.cmds, victim o = false) →
      ∃ t, exec (.abortRing c) s = .next t ∧ Ended s t (m.begun s) okStatus ∧ OnlyEnd s t c) ∧
    (∀ v, victim v = true → s.cmds = [v, m] → s.CanEnd v.id → s.replyOpen v.id.ring = false → s.replyOpen c.ring = false →
      s.ledgerAddr v.id.ring v.id.seq + 32 ≤ s.ledgerAddr c.ring c.seq ∨
        s.ledgerAddr c.ring c.seq + 32 ≤ s.ledgerAddr v.id.ring v.id.seq →
      ∃ t, exec (.abortRing c) s = .next t ∧ t.cmds = [] ∧
        t.bytes 3 (s.ledgerAddr v.id.ring v.id.seq) 32 = wordBytes (ledgerWords v St.ringAbort s.tb.stime) ∧
        t.bytes 3 (s.ledgerAddr c.ring c.seq) 32 = wordBytes (ledgerWords ((m.begun s).final okStatus) 0 s.tb.stime))) ∧
  (∀ (m : Cmd) (s : State), s.cmds.filter (fun o => o.id.ring == m.id.ring && o.phase == .running) = [m] → s.Sound →
    s.hasRange 3 (s.ledgerAddr m.id.ring m.id.seq) 32 = true →
    ∃ t, exec (.ledgerProgressUpdate m.id.ring) s = .next t ∧
      t.bytes 3 (s.ledgerAddr m.id.ring m.id.seq) 32 = wordBytes (ledgerWords m 0xFFFF 0) ∧
      (∀ k, ¬ s.inLedger m.id k → Tab.get memDefault t.mem k = Tab.get memDefault s.mem k) ∧
      { t with mem := s.mem, moved := s.moved, wear := s.wear } = s)

/-- COPY between tensors of one format (R135, R136): each element of the destination ends with the bits of the source's
element of the same coordinates. FILL: each ends with the bits of word 6. No byte outside the destination, the Ledger entry
and the reply changes. (The extents lie apart from the Ledger entry and the reply, and no two coordinates of a copy's
destination share an address.) -/
def Obligations.CopyAndFillWriteTheirDestination : Prop :=
  (∀ (c : CmdId) (m : Cmd) (src dst : Tensor) (s : State), s.Runs c 0x10 m → s.copyArgs m = .ok (src, dst) →
    src.fmt = dst.fmt → isMx src.fmt = false → s.apart c src → s.apart c dst → s.plain dst →
    ∃ t, exec (.copy c) s = .next t ∧ LedgerEnd s t (m.begun s) okStatus ∧
      (∀ i, i < dst.count → t.elemBits dst (dst.coord i) = s.elemBits src (src.coord i)) ∧ s.restKept t c dst) ∧
  (∀ (c : CmdId) (m : Cmd) (dst : Tensor) (s : State), s.Runs c 0x11 m → s.fillArgs m = .ok dst → s.apart c dst →
    ∃ t, exec (.fill c) s = .next t ∧ LedgerEnd s t (m.begun s) okStatus ∧
      (∀ i, i < dst.count → t.elemBits dst (dst.coord i) = m.word 6) ∧ s.restKept t c dst)

/-! ### Modes, twin mode, tests and the Health Monitor -/

/-- MODE_SET, TWIN_SET, PERTURB and PORT_FENCE (R462, R476, R477, R480, R492 to R494): each takes its effect and ends with OK
where it may, and changes nothing but its Ledger entry and reply where it is refused: RESOURCE_HELD while another command of a
job is accepted, OUT_OF_RANGE for an operand, MODE_LOCKED in Attested mode, TEST_REFUSED while locked. That PERTURB's offset
is checked before the mode and the lock (log entry 16), that MODE_SET does not count itself among the commands of a job, and
that TWIN_SET with enable 0 leaves the partner (log entry 59), are the model's readings. -/
def Obligations.ModeTwinAndTestCommands : Prop :=
  (∀ (c : CmdId) (m : Cmd) (s : State), s.Runs c 0xA0 m → s.flag F.logEnable = false →
    let on := m.bits 4 0 0 == 1
    ((∀ o ∈ s.cmds, o.id ≠ c → o.job = 0) →
      ∃ t, exec (.modeSet c) s = .next t ∧ Ended s t (m.begun s) okStatus ∧ t.flag F.attested = on ∧
        (on = true → s.attested = false → t.flag F.unlocked = false ∧ ∀ o ∈ perturbRegs, t.reg o = 0) ∧
        OnlyEnd s { t with tb := s.tb } c (perturbRegs ++ [F.attested.off, F.unlocked.off]) ∧ t.tb.stime = s.tb.stime) ∧
    (∀ o, s.cmds.filter (fun q => q.job != 0 && decide (q.id ≠ c)) = [o] →
      ∃ t, exec (.modeSet c) s = .next t ∧ Refused s t (m.begun s) (heldBy 0x70 o.id.ring) ∧ OnlyEnd s t c)) ∧
  (∀ (c : CmdId) (m : Cmd) (s : State), s.Runs c 0xA1 m →
    let share := m.bits 4 19 16
    ∃ t, exec (.twinSet c) s = .next t ∧
      (m.bits 4 31 31 = 1 → share ≠ 0 → s.ck.stream = none → Ended s t (m.begun s) okStatus ∧ t.fld F.twinEnable = 1 ∧
        t.fld F.twinShare = share ∧ t.fld F.twinPartner = m.bits 4 15 0 ∧
        OnlyEnd s t c [F.twinEnable.off, F.twinShare.off, F.twinPartner.off]) ∧
      (m.bits 4 31 31 = 1 → share = 0 → Refused s t (m.begun s) (oor 4) ∧ OnlyEnd s t c) ∧
      (m.bits 4 31 31 = 0 → s.attested = true → Refused s t (m.begun s) ⟨St.modeLocked, 0, 0⟩ ∧ OnlyEnd s t c) ∧
      (m.bits 4 31 31 = 0 → s.attested = false → Ended s t (m.begun s) okStatus ∧ t.fld F.twinEnable = 0)) ∧
  (∀ (c : CmdId) (m : Cmd) (s : State), s.Runs c 0xA3 m → s.bar0Open = true → s.flag F.logEnable = false →
    let off := Reg.safeMode + m.bits 4 8 0
    ∃ t, exec (.perturb c) s = .next t ∧
      (off ∉ perturbRegs → Refused s t (m.begun s) (oor 4) ∧ OnlyEnd s t c) ∧
      (off ∈ perturbRegs → s.attested = true → Refused s t (m.begun s) ⟨St.modeLocked, 0, 0⟩ ∧ OnlyEnd s t c) ∧
      (off ∈ perturbRegs → s.attested = false → s.flag F.unlocked = false →
        Refused s t (m.begun s) ⟨St.testRefused, 0, 0⟩ ∧ OnlyEnd s t c) ∧
      (off ∈ perturbRegs → s.attested = false → s.flag F.unlocked = true → off ≠ Reg.testEccInj → off ≠ Reg.testChkInj →
        ∀ r, regSpec off = some r → Ended s t (m.begun s) okStatus ∧ t.reg off = merge r.rw (s.reg off) (m.words.getD 5 0) ∧
          OnlyEnd s { t with tb := s.tb } c [off, F.unlockStage.off] ∧ t.tb.stime = s.tb.stime)) ∧
  (∀ (c : CmdId) (m : Cmd) (s : State), s.Runs c 0x96 m →
    let p := m.bits 4 5 0
    ∃ t, exec (.portFence c) s = .next t ∧
      (48 ≤ p → Refused s t (m.begun s) (oor 4) ∧ OnlyEnd s t c) ∧
      (p < 48 → Ended s t (m.begun s) okStatus ∧ t.flag (F.portFence p) = (m.bits 4 31 31 == 1) ∧
        (m.bits 4 31 31 = 1 → s.flag (F.portFence p) = false → s.fld (F.portState p) = Port.up ∨ s.fld (F.portState p) = Port.degraded →
          t.fld (F.portState p) = Port.fenced) ∧
        ∀ q, q < 48 → q ≠ p → t.fld (F.portState q) = s.fld (F.portState q) ∧ t.flag (F.portFence q) = s.flag (F.portFence q)))

/-- An evaluation of the Health Monitor (R486, R487): each input shows in its register, each score is the input times its
weight over 16 and at most 255, and the risk is their sum and at most 255. The checkpoint threshold asks for a stream once,
until the risk has fallen below it by the hysteresis; the quiesce threshold takes the device to QUIESCED. HM_SNAPSHOT writes
the sixteen words of R495: the risk, the eight inputs, the scores four to a word, and zeros. POISON raises the event of its
step, records it and its reason 5, and floods the notice (R399, R404, R406, R422); it ends once no copy of the notice waits
here any more. -/
def Obligations.HealthMonitorAndItsSnapshots : Prop :=
  (∀ s : State, s.trap = none → s.bar0Open = true → s.flag F.logEnable = false → s.tb.stime < s.safe.winAt + 1000000000 →
      s.safe.ckptReq = false →
      let score := fun (i : Nat) => min 255 (s.hmInputs.getD i 0 * s.hmWeight i / 16)
      let risk := min 255 ((List.range 8).map score).sum
      let c := s.fld F.hmCkpt
      let q := s.fld F.hmQuiesce
      let h := s.fld F.hmHyst
      ((s.flag F.hmCFired = true ∨ risk < c) → (s.flag F.hmQFired = true ∨ risk < q) →
        ∃ t, exec .healthMonitorEvaluation s = .next t ∧ t.fld F.hmRiskVal = risk ∧
          (∀ i, i < 8 → (t.reg (Reg.hmInput i)).toNat = min (s.hmInputs.getD i 0) 0xFFFFFFFF) ∧
          t.safe = { s.safe with scores := (List.range 8).map score } ∧
          t.flag F.hmCFired = (s.flag F.hmCFired && decide (c ≤ risk + h)) ∧
          t.flag F.hmQFired = (s.flag F.hmQFired && decide (q ≤ risk + h)) ∧ t.fld F.devState = s.fld F.devState ∧
          { t with regs := s.regs, safe := s.safe } = s) ∧
      (s.flag F.hmCFired = false → c ≤ risk → (s.flag F.hmQFired = true ∨ risk < q) →
        (∃ o ∈ s.cmds, o.opcode = 0x60) →
        ∃ t, exec .healthMonitorEvaluation s = .next t ∧ t.fld F.hmRiskVal = risk ∧ t.safe.ckptReq = true ∧
          t.flag F.hmCFired = true ∧ { t with regs := s.regs, safe := s.safe } = s) ∧
      (s.flag F.hmQFired = false → q ≤ risk → s.fld F.devState = Dev.ready → s.cmds = [] → s.ck.stream = none → s.fab.outq = [] →
        ∃ t, exec .healthMonitorEvaluation s = .next t ∧ t.fld F.hmRiskVal = risk ∧ t.fld F.devState = Dev.quiesced ∧
          t.fld F.qcause = 2 ∧ t.flag F.hmQFired = true ∧ t.safe.ckptReq = false)) ∧
  ((∀ (c : CmdId) (m : Cmd) (x : Tensor) (s : State), s.Runs c 0xA2 m → s.snapArg m = .ok x → s.apart c x → s.plain x →
      ∃ t, exec (.hmSnapshot c) s = .next t ∧ LedgerEnd s t (m.begun s) okStatus ∧
        t.elemBits x [0] = s.fld F.hmRiskVal ∧
        (∀ i, i < 8 → t.elemBits x [1 + i] = (s.reg (Reg.hmInput i)).toNat) ∧
        (∀ i, i < 2 → t.elemBits x [9 + i] = ((List.range 4).map fun j => 2 ^ (8 * j) * s.safe.scores.getD (4 * i + j) 0).sum) ∧
        (∀ i, 11 ≤ i → i < 16 → t.elemBits x [i] = 0) ∧ s.restKept t c x) ∧
    (∀ (c : CmdId) (m : Cmd) (s : State), s.Runs c 0x61 m →
      let j := m.bits 4 15 0
      let k := m.word 5
      j ≠ 0 → s.jobEntry j = none → (s.red.jobs.filter fun e => e.job ≠ 0).length < 16 → s.noticeRoom = true →
      let notice := withCrc (s.noticePkt 1 5 j k 0)
      ∃ t, exec (.poison c) s = .next t ∧
        ((∀ q ∈ s.fab.outq, q.type ≠ .notice) → s.fab.floods = [] → (∀ q ∈ s.usablePorts, s.creditFor notice q = true) →
          Ended s t (m.begun s) okStatus) ∧
        (∀ q ∈ s.usablePorts, s.creditFor notice q = false →
          t.findCmd c = some { m.begun s with aux := [1, s.fab.noticeSeq] } ∧
            ∀ k, ¬ s.inLedger c k → Tab.get memDefault t.mem k = Tab.get memDefault s.mem k) ∧
        (t.stepRec j k).poisons = [(s.tb.stime, s.pkg)] ∧ t.isPoisoned j k = true ∧ t.fld F.poisonReason = 5 ∧
        t.fld F.poisonPackage = s.pkg ∧ t.fld F.poisonStep = k ∧
        (∀ e ∈ s.red.jobs, e ∈ t.red.jobs) ∧ Flooded s t notice s.usablePorts ∧
        t.fld (cnt (Reg.red 0x48)) = min (s.fld (cnt (Reg.red 0x48)) + 1) 0xFFFFFFFF))

/-! ### Generators and sampling -/

/-- GEN_SAVE writes the image of R365 (header, seed, STIME, and each lane's counter in order of tile and lane); GEN_LOAD sets
the seed and every counter from an image whose header is right, with no lane having a latest micro-batch (R516), and ends with
OUT_OF_RANGE, changing neither, where it is not (R363 to R367). Both wait while an earlier draw is still to come. -/
def Obligations.GeneratorImageIsSavedAndLoaded : Prop :=
  (∀ (c : CmdId) (m : Cmd) (x : Tensor) (s : State), s.Runs c 0x52 m → s.genWaits m = false → s.imageArg m = .ok x →
    s.apart c x → s.plain x →
    let at_ := fun (t : State) (i : Nat) => t.elemBits x [i]
    ∃ t, exec (.genSave c) s = .next t ∧ LedgerEnd s t (m.begun s) okStatus ∧ at_ t 0 = 8 * 2 ^ 28 ∧ at_ t 1 = s.tileCount ∧
      at_ t 2 + 2 ^ 32 * at_ t 3 = s.seed.toNat ∧ (s.tb.stime < 2 ^ 64 → at_ t 4 + 2 ^ 32 * at_ t 5 = s.tb.stime) ∧
      (∀ i, 6 ≤ i → i < 16 → at_ t i = 0) ∧
      (∀ i, i < 64 * s.tileCount →
        at_ t (16 + 2 * i) + 2 ^ 32 * at_ t (17 + 2 * i) = (s.ctr (s.nthTile (i / 64)) (i % 64)).toNat) ∧
      s.restKept t c x ∧ t.seed = s.seed ∧ t.gens = s.gens) ∧
  (∀ (c : CmdId) (m : Cmd) (x : Tensor) (s : State), s.Runs c 0x51 m → s.genWaits m = false → s.imageArg m = .ok x →
    s.apart c x →
    let w := fun (i : Nat) => s.elemBits x [i]
    let good := w 0 = 8 * 2 ^ 28 ∧ w 1 = s.tileCount ∧ ∀ i, i < 10 → w (6 + i) = 0
    ∃ t, exec (.genLoad c) s = .next t ∧
      (good → Ended s t (m.begun s) okStatus ∧ t.seed = BitVec.ofNat 64 (w 2 + 2 ^ 32 * w 3) ∧
        (∀ i, i < 64 * s.tileCount → t.ctr (s.nthTile (i / 64)) (i % 64) = BitVec.ofNat 64 (w (16 + 2 * i) + 2 ^ 32 * w (17 + 2 * i))) ∧
        ∀ tile lane, Tab.get noMb t.lastMb (genKey tile lane) = noMb (genKey tile lane)) ∧
      (¬ good → Ended s t (m.begun s) (oor 4) ∧ t.seed = s.seed ∧ t.gens = s.gens)) ∧
  (∀ (i : Instr) (c : CmdId) (m : Cmd) (op : Nat) (s : State), (i = .genSave c ∧ op = 0x52) ∨ (i = .genLoad c ∧ op = 0x51) →
    s.runnable c op = some m → s.genWaits m = true → s.trap = none → exec i s = .next s)

/-- SAMPLE hands its job to the Hall of gen_tile; a free sampler takes it, which the Ledger shows as the start; at its end
every lane of the tile has advanced by what the job drew, with the micro-batch as its latest, and the command ends with OK, or
with TRUNCATED where a hop dropped or trimmed (R156, R159, R167, R169, R177, R179). GRAPH_VERIFY (R174, R176): nodes whose
lists are empty and whose offsets stay within the edges pass, and the command ends with OK; a first node whose list ends
before it begins ends it with OUT_OF_RANGE that names the graph's pointer. -/
def Obligations.SamplingAndGraphVerify : Prop :=
  ((∀ (c : CmdId) (m : Cmd) (a : SampleArgs) (s : State), s.runnable c 0x20 = some m → s.trap = none → s.sampleArgs m = .ok a →
      ∃ t o, exec (.sample c) s = .next t ∧ t.findCmd c = some { m with phase := .running, ops := [o] } ∧
        o.hall = a.job.gen / 640 ∧ o.tile = a.job.gen ∧ o.unit = .sampler ∧ o.stage = .waiting ∧ o.draws = true ∧
        { t with cmds := s.cmds } = s) ∧
    (∀ (c : CmdId) (m : Cmd) (o : Op) (s : State), s.findCmd c = some m → m.ops = [o] → m.opcode = 0x20 → o.kind = .sample 0 →
      o.unit = .sampler → o.stage = .waiting → m.phase = .running → m.failure = none → s.rst.stopped = false →
      s.stallCause m 0 o true = none → s.engineBusy o = false → s.Sound → s.hasRange 3 (s.ledgerAddr c.ring c.seq) 32 = true →
      m.start = 0 →
      ∃ t, exec (.samplerJobStart c 0) s = .next t ∧
        let q := { o with stage := .issued, room := State.roomFor m o, sampler := s.freeSampler o.hall }
        t.findCmd c = some { m with start := s.tb.stime, ops := [q] } ∧
        t.bytes 3 (s.ledgerAddr c.ring c.seq) 32 = wordBytes (ledgerWords (m.begun s) 0xFFFF 0) ∧
        ∀ k, ¬ s.inLedger c k → Tab.get memDefault t.mem k = Tab.get memDefault s.mem k) ∧
    (∀ (c : CmdId) (m : Cmd) (o : Op) (a : SampleArgs) (r : SampOut) (acc : SampAcc) (s : State), s.findCmd c = some m →
      m.ops = [o] → m.opcode = 0x20 → o.kind = .sample 0 → o.held = [] → o.unit = .sampler →
      o.stage = .issued → m.phase = .running → m.failure = none → m.result = none → s.sampleArgs m = .ok a →
      sampleRun ⟨o.hall, c.ring, 4⟩ a (fun lane v => s.drawAt a.job.gen lane (s.ctr a.job.gen lane + BitVec.ofNat 64 v)) { s := s } =
        (.ok r, acc) →
      acc.s.cmds = s.cmds → acc.s.gens = s.gens → (∀ q ∈ s.cmds, q.captures = false) → acc.s.CanEnd c →
      let drop := (r.os.map (·.dropped)).sum
      let cut := decide (0 < drop) || r.os.any (·.trim)
      ∃ t, exec (.samplerJobEnd c 0) s = .next t ∧
        (∀ lane, lane < 64 → t.ctr a.job.gen lane = s.ctr a.job.gen lane + BitVec.ofNat 64 r.adv) ∧
        (∀ tile lane, tile ≠ a.job.gen → lane < 64 → t.ctr tile lane = s.ctr tile lane) ∧
        (0 < r.adv → ∀ lane, lane < 64 → Tab.get noMb t.lastMb (genKey a.job.gen lane) = a.mb) ∧
        LedgerEnd acc.s t { m with arith := m.arith.or acc.flags }
          (if cut then ⟨St.truncated, m.word 10, min drop 0xFFFFFFFF⟩ else okStatus))) ∧
  (∀ (c : CmdId) (m : Cmd) (g : Graph) (first n : Nat) (s : State), s.Runs c 0x21 m → graphVerifyArgs m = .ok (g, first, n) →
      g.hot ≤ first → g.deepOff + 8 * (first + n) + 8 ≤ deepEnd → s.flag F.logEnable = false →
      let off := fun (i : Nat) => ofLe (s.bytes 4 (g.deepOff + 8 * (first + i)) 5)
      ((∀ i, i < n → off i = off (i + 1)) → (∀ i, i ≤ n → off i ≤ g.edges) →
        ∃ t, exec (.graphVerify c) s = .next t ∧ Ended s t (m.begun s) okStatus ∧ t.gens = s.gens) ∧
      (off 1 < off 0 →
        ∃ t, exec (.graphVerify c) s = .next t ∧ Ended s t (m.begun s) (oor 4) ∧ t.gens = s.gens))

/-! ### Tables, rows and the update log -/

/-- TABLE_OPEN and TABLE_CLOSE (R180, R182): a right descriptor of an unsharded table opens its handle; an open handle and a
wrong descriptor are refused; a close of a handle that is not open, or that an earlier accepted close names, and of a locked
staged version is refused; another ends at once where no other accepted command names the handle, else once none does, and the
handle is gone. That the descriptor is checked before the handle is looked up is the model's reading (log entry 16). -/
def Obligations.TableHandlesOpenAndClose : Prop :=
  (∀ (c : CmdId) (m : Cmd) (d : List W) (s : State), s.Runs c 0x30 m → m.block 5 (m.ptr 5) 64 = .ok d → tMap d = 0 →
    let n := m.bits 4 7 0
    ∃ t, exec (.tableOpen c) s = .next t ∧
      (s.tableOk d = true → s.handle n = none → Ended s t (m.begun s) okStatus ∧ t.handle n = some { n := n, desc := d } ∧
        OnlyEnd s t c ∧ ∀ k, k ≠ n → t.handle k = s.handle k) ∧
      (s.tableOk d = true → s.handle n ≠ none → Refused s t (m.begun s) (oor 4) ∧ OnlyEnd s t c ∧ t.erm.handles = s.erm.handles) ∧
      (s.tableOk d = false → Refused s t (m.begun s) (badDesc (m.ptr 5).addr) ∧ OnlyEnd s t c ∧
        t.erm.handles = s.erm.handles)) ∧
  (∀ (c : CmdId) (m : Cmd) (s : State), s.Runs c 0x31 m →
    let n := m.bits 4 7 0
    let late := ∃ o ∈ s.cmds, o.opcode = 0x31 ∧ o.bits 4 7 0 = n ∧ o.order < m.order
    ∃ t, exec (.tableClose c) s = .next t ∧
      (s.handle n = none ∨ late → Refused s t (m.begun s) (oor 4) ∧ OnlyEnd s t c) ∧
      (∀ h r, s.handle n = some h → ¬ late → h.locked = some r → Refused s t (m.begun s) (heldBy 0x51 r) ∧ OnlyEnd s t c) ∧
      (∀ h, s.handle n = some h → ¬ late → h.locked = none → (∀ o ∈ s.cmds, o.id ≠ c → namesHandle o n = false) →
        Ended s t (m.begun s) okStatus ∧ t.handle n = none ∧ OnlyEnd s t c) ∧
      (∀ h o, s.handle n = some h → ¬ late → h.locked = none → o ∈ s.cmds → o.id ≠ c → namesHandle o n = true →
        t.findCmd c = some (m.begun s) ∧ t.erm = s.erm)) ∧
  (∀ (c : CmdId) (m : Cmd) (s : State), s.findCmd c = some m → m.opcode = 0x31 → m.phase = .running → s.CanEnd c →
    let n := m.bits 4 7 0
    ((∀ o ∈ s.cmds, o.id ≠ c → namesHandle o n = false) →
      ∃ t, exec (.tableCloseComplete c) s = .next t ∧ Ended s t m okStatus ∧ t.handle n = none ∧ OnlyEnd s t c) ∧
    ((∃ o ∈ s.cmds, o.id ≠ c ∧ namesHandle o n = true) → exec (.tableCloseComplete c) s = .next s))

/-- A TIER_PASS of one row (R204) counts and skips a row without a record here; leaves one whose class does not change, with
its heat decayed where the command asks; and where a stream held the row (R525), goes on from it once the stream is over. With
one record pending, a merge (R205, R206) writes it to its home and points its row's entry there; LOG_MERGE does so as a
command, and ends with OK, also where nothing is pending; a merge starts of itself once the log has filled to merge_at. -/
def Obligations.TierPassAndLogMerge : Prop :=
  ((∀ (c : CmdId) (m : Cmd) (h : Handle) (s : State), s.Runs c 0x33 m → s.mainFor m (m.bits 4 7 0) = some h → m.word 7 = 1 →
      m.aux = [] → s.ck.stream = none →
      let first := m.word 5 + 2 ^ 32 * m.bits 6 7 0
      let row := tFirst h.desc + first
      let e := s.dir h.desc row
      let heat := if m.bits 8 0 0 = 1 ∧ tDecay h.desc ≠ 0 then e.heat - e.heat / 2 ^ tDecay h.desc else e.heat
      first < tLocal h.desc → s.clearOf c (dirAddr h.desc row) 8 →
      ∃ t, exec (.tierPass c) s = .next t ∧
        (e.loc = 4 ∨ e.loc = 5 ∨ e.dual = true → Ended s t (m.begun s) okStatus ∧
          t.fld (cnt (Reg.erm 0x84)) = min (s.fld (cnt (Reg.erm 0x84)) + 1) 0xFFFFFFFF) ∧
        (e.loc < 3 → e.dual = false →
          s.targetClass h.desc (currentClass e.fmt (locTier e.loc)) heat = currentClass e.fmt (locTier e.loc) →
          LedgerEnd s t (m.begun s) okStatus ∧ t.dir h.desc row = { e with heat := heat } ∧
            t.fld (cnt (Reg.erm 0x80)) = s.fld (cnt (Reg.erm 0x80)))) ∧
    (∀ (m : Cmd) (h : Handle) (i : Nat) (s : State), s.cmds = [m] → m.opcode = 0x33 → m.phase = .running → m.aux = [i, 1] →
      m.word 7 = i + 1 → s.mainFor m (m.bits 4 7 0) = some h → s.ck.stream = none → s.CanEnd m.id →
      let first := m.word 5 + 2 ^ 32 * m.bits 6 7 0
      let row := tFirst h.desc + first + i
      first + i < tLocal h.desc → s.clearOf m.id (dirAddr h.desc row) 8 → (s.dir h.desc row).loc = 5 →
      ∃ t, exec .rowWriteLogResume s = .next t ∧ Ended s t m okStatus ∧
        t.fld (cnt (Reg.erm 0x84)) = min (s.fld (cnt (Reg.erm 0x84)) + 1) 0xFFFFFFFF)) ∧
  ((∀ (d : List W) (s : State), s.Sound → s.mergesInto d → s.erm.logCount = 1 → s.mergeDue = true →
      ∃ t, exec .logMergeAutoStart s = .next t ∧ Merged s t d ∧ t.cmds = s.cmds ∧
        ∀ k, (k < memKey s.oldestHome.1 s.oldestHome.2 ∨ memKey s.oldestHome.1 s.oldestHome.2 + s.oldestLen ≤ k) →
          (k < memKey 3 (dirAddr d s.oldestRow) ∨ memKey 3 (dirAddr d s.oldestRow) + 8 ≤ k) →
          Tab.get memDefault t.mem k = Tab.get memDefault s.mem k) ∧
    (∀ s : State, s.trap = none → s.mergeDue = false → exec .logMergeAutoStart s = .next s) ∧
    (∀ (c : CmdId) (m : Cmd) (d : List W) (s : State), s.Runs c 0x34 m → s.mergesInto d → s.erm.logCount = 1 →
      s.clearOf c s.oldestAt (32 + s.oldestLen) → s.clearOf c (dirAddr d s.oldestRow) 8 →
      s.oldestHome.1 ≠ s.replyTier c.ring → m.word 4 ≠ 0 ∨ (m.aux.length = 1 ∧ 0 < m.aux.getD 0 0) →
      ∃ t, exec (.logMerge c) s = .next t ∧ Merged s t d ∧ LedgerEnd s t (m.begun s) okStatus) ∧
    (∀ (c : CmdId) (m : Cmd) (s : State), s.Runs c 0x34 m → s.erm.logCount = 0 ∨ (m.word 4 = 0 ∧ m.aux = [0]) →
      ∃ t, exec (.logMerge c) s = .next t ∧ Ended s t (m.begun s) okStatus ∧ OnlyEnd s t c))

/-- The end of a load window, window µs after it began (R220), shows what each stack and the package served in it (R222); the
end of a meter window of 10 µs holds the rebuild to its share of each resource that foreground traffic has filled beyond the
threshold (R236). A near-memory add of integers adds each of the sixteen words of its line modulo 2³²; one whose request fails
its code (R42) or whose two adders differ marks the line uncorrectable and fails its operation (R201). -/
def Obligations.MetersAndNearMemoryAdds : Prop :=
  (∀ s : State, s.trap = none →
    let end_ := s.erm.loadAt + 1000 * max 1 (s.fld F.loadWindow)
    (s.tb.stime < end_ → exec .ermLoadWindow s = .next s) ∧
    (end_ ≤ s.tb.stime → ∃ t, exec .ermLoadWindow s = .next t ∧
      (∀ k, k < 12 → (t.reg (Reg.erm (0x40 + 4 * k))).toNat = min (Tab.get noErr s.loads k / 1024) 0xFFFFFFFF) ∧
      (t.reg (Reg.erm 0x70)).toNat = min s.erm.served 0xFFFFFFFF ∧
      (s.erm.wins.length < 2 ^ 32 → (t.reg (Reg.erm 0x74)).toNat = s.erm.wins.length) ∧ t.loads = [] ∧
      t.erm = { s.erm with served := 0, loadAt := s.tb.stime } ∧ { t with regs := s.regs, loads := s.loads, erm := s.erm } = s)) ∧
  (∀ s : State, s.trap = none → (∀ o ∈ s.cmds, o.opcode ≠ 0x38 ∧ o.opcode ≠ 0x39) →
    (s.tb.stime < s.erm.meterAt + 10000 → exec .rebuildMeterWindow s = .next s) ∧
    (s.erm.meterAt + 10000 ≤ s.tb.stime → ∃ t, exec .rebuildMeterWindow s = .next t ∧ t.moved = [] ∧ t.erm.meterAt = s.tb.stime ∧
      (∀ k b, (k, b) ∈ t.erm.budget ↔ k ∈ resources ∧ b = capacity k * s.fld F.verShare / 64 ∧
        s.fld F.verThreshold * capacity k < 16 * Tab.get noErr s.moved k) ∧
      { t with moved := s.moved, erm := s.erm } = s)) ∧
  (∀ (c : CmdId) (a : AddReq) (m : Cmd) (s : State), s.Sound → s.erm.adds.find? (fun q => q.addr == a.addr) = some a →
    a.cmd = c → a.isInt = true → a.vals.length = 16 → a.addr % 64 = 0 → a.addr + 64 ≤ cellarEnd → s.findCmd c = some m →
    ∃ t, exec (.nearMemoryAdd c a.addr true a.vals .good) s = .next t ∧
      bytesWords 16 (t.bytes 3 a.addr 64) = List.zipWith (fun x y => x + y) (bytesWords 16 (s.bytes 3 a.addr 64)) a.vals ∧
      t.erm.adds = s.erm.adds.erase a ∧ (∃ f, t.findCmd c = some { m with arith := m.arith.or f }) ∧
      (∀ k, k < memKey 3 a.addr ∨ memKey 3 a.addr + 64 ≤ k → Tab.get memDefault t.mem k = Tab.get memDefault s.mem k) ∧
      t.regs = s.regs) ∧
  (∀ (c : CmdId) (a : AddReq) (m : Cmd) (o : Op) (check : AddCheck) (s : State), check ≠ .good → s.erm.adds.find? (fun q => q.addr == a.addr) = some a →
    a.cmd = c → a.addr % 64 = 0 → a.addr + 64 ≤ cellarEnd → s.findCmd c = some m → m.ops = [o] → a.op = 0 →
    m.failure = none → (∀ l, o.kind ≠ .contribution l) → s.CanEnd c →
    s.clearOf c a.addr 64 →
    ∃ t, exec (.nearMemoryAdd c a.addr a.isInt a.vals check) s = .next t ∧ t.findCmd c = none ∧
      Tab.get noErr t.errs (memKey 3 a.addr) = 5)

/-! ### Rows of other packages and migration -/

/-- Rows of another package (R195, R209, R244): a request with a later stamp is held, and served once its stamp has come; one
that is served of a row with a record here, or of a guest row, answers with the record as it is stored and raises its heat; a
migrated copy is kept as a guest row, and an empty one frees it (the model's form of R213's end of a copy, log entry 81); a
record that an operation asked for reaches it once. A migration of one row to another package (R208 to R213): MIGRATE sends
the record as a guest copy, opens a window over the row and ends; MIGRATE_SWITCH points the entry at that package, and runs
until the windows close; a cancel shuts the windows and moves no pointer; the last window that closes clears dual and ends the
switch. That one without an instant switches as it runs is the model's reading (log entry 31). -/
def Obligations.RemoteRowsAndMigration : Prop :=
  ((∀ (p : Pkt) (handle row stamp op entry : Nat) (s : State), s.trap = none → p.body = .rowReq handle row stamp op entry →
      s.tb.stime < stamp →
      ∃ t, exec (.remoteRowRequest p) s = .next t ∧ t.erm.heldReq = s.erm.heldReq ++ [p] ∧ t.fab.outq = s.fab.outq ∧
        t.mem = s.mem ∧ t.regs = s.regs) ∧
    (∀ (i : Instr) (p : Pkt) (handle row stamp op entry : Nat) (h : Handle) (s : State),
      (i = .remoteRowRequest p ∧ s.erm.heldReq = []) ∨ (i = .remoteRequestStampRelease ∧ s.erm.heldReq = [p]) →
      s.Sound → p.body = .rowReq handle row stamp op entry → stamp ≤ s.tb.stime →
      s.handle handle = some h → h.role = .main → h.since ≤ stamp → tHolds h.desc row = true →
      s.guest handle row (tVersion h.desc) = none →
      let d := h.desc
      let e := s.dir d row
      let rec_ := s.bytes (locTier e.loc) (16 * e.addr16) (recBytes d e.fmt)
      dirAddr d row + 8 ≤ cellarEnd → e.loc < 3 → (e.fmt = 3 → tWidth d % 32 = 0) →
      s.hasRange (locTier e.loc) (16 * e.addr16) (recBytes d e.fmt) = true →
      ∃ t, exec i s = .next t ∧ t.erm.heldReq = [] ∧ t.erm.served = s.erm.served + 1 ∧
        t.dir d row = { e with heat := min 255 (e.heat + 1) } ∧
        t.fab.outq = s.fab.outq ++ [rowReply s p handle row op entry e.fmt true rec_] ∧
        (∀ k, k < memKey 3 (dirAddr d row) ∨ memKey 3 (dirAddr d row) + 8 ≤ k →
          Tab.get memDefault t.mem k = Tab.get memDefault s.mem k) ∧ t.cmds = s.cmds) ∧
    (∀ (p : Pkt) (handle row fmt : Nat) (bs : List Byte) (h : Handle) (s : State), s.trap = none →
      p.body = .rowWrite handle row fmt true bs → s.handle handle = some h → h.role = .main → s.erm.guests.length < 65536 →
      let v := tVersion h.desc
      ∃ t, exec (.remoteRowWrite p) s = .next t ∧
        (bs ≠ [] → t.guest handle row v = some
          { handle := handle, row := row, version := v, fmt := fmt, bytes := bs,
            heat := ((s.guest handle row v).map (·.heat)).getD 0 }) ∧
        (bs = [] → t.guest handle row v = none) ∧
        (∀ k r w, k ≠ handle ∨ r ≠ row ∨ w ≠ v → t.guest k r w = s.guest k r w) ∧ t.mem = s.mem ∧ t.cmds = s.cmds ∧
        t.regs = s.regs) ∧
    (∀ (p : Pkt) (handle row stamp op entry : Nat) (h : Handle) (g : Guest) (s : State), s.trap = none →
      p.body = .rowReq handle row stamp op entry → stamp ≤ s.tb.stime → s.handle handle = some h → h.role = .main →
      h.since ≤ stamp → s.guest handle row (tVersion h.desc) = some g →
      ∃ t, exec (.remoteRowRequest p) s = .next t ∧ t.erm.served = s.erm.served + 1 ∧
        t.guest handle row (tVersion h.desc) = some { g with heat := min 255 (g.heat + 1) } ∧
        t.fab.outq = s.fab.outq ++ [rowReply s p handle row op entry g.fmt true g.bytes] ∧ t.mem = s.mem ∧ t.regs = s.regs) ∧
    (∀ (p : Pkt) (m : Cmd) (o : Op) (handle row op entry fmt : Nat) (bs : List Byte) (s : State), s.trap = none →
      p.body = .rowResp handle row op entry fmt true bs → bs ≠ [] → s.op ⟨p.ring, p.seq⟩ op = some (m, o) →
      o.stage = .waiting → (∀ f ∈ o.got, f.row ≠ row) →
      ∃ t, exec (.remoteRowResponse p) s = .next t ∧
        t.op ⟨p.ring, p.seq⟩ op = some ({ m with ops := m.ops.modify op (addGot { entry := entry, row := row, fmt := fmt, bytes := bs }) },
          addGot { entry := entry, row := row, fmt := fmt, bytes := bs } o) ∧ t.mem = s.mem ∧ t.regs = s.regs)) ∧
  ((∀ (c : CmdId) (m : Cmd) (h : Handle) (lst : Tensor) (s : State), s.Runs c 0x35 m → m.aux = [] →
      s.mainFor m (m.bits 4 7 0) = some h → s.rowList m 5 4096 = .ok (lst, 1) → m.bits 4 31 31 = 1 → s.erm.wins = [] →
      s.apart c lst →
      let d := h.desc
      let row := s.listRow lst 0
      let e := s.dir d row
      tHolds d row = true → s.clearOf c (dirAddr d row) 8 → e.loc = 0 → e.dual = false → e.fmt < 3 →
      s.clearOf c (16 * e.addr16) (recBytes d e.fmt) →
      ∃ t w p, exec (.migrate c) s = .next t ∧ LedgerEnd s t (m.begun s) okStatus ∧ t.erm.wins = [w] ∧ w.cmd = c ∧
        w.row = row ∧ w.remote = some (m.bits 4 23 8) ∧ w.moved = none ∧ t.dir d row = { e with dual := true } ∧
        t.fab.outq = s.fab.outq ++ [p] ∧ p.dst = m.bits 4 23 8 ∧ p.job = m.job ∧
        p.body = .rowWrite (m.bits 4 7 0) row e.fmt true (s.bytes 3 (16 * e.addr16) (recBytes d e.fmt))) ∧
    (∀ (c : CmdId) (m : Cmd) (w : Win) (d : List W) (p : Nat) (s : State), s.Runs c 0x36 m → m.sched = false →
      let mig : CmdId := ⟨m.bits 4 11 0, m.bits 5 15 0⟩
      s.erm.wins = [w] → w.cmd = mig → w.moved = none → w.remote = some p → p < 2 ^ 16 → s.versions = [d] → tDir d = w.dir →
      s.findCmd mig = none → s.clearOf c (dirAddr d w.row) 8 → (s.dir d w.row).loc < 3 →
      ∃ t, exec (.migrateSwitch c) s = .next t ∧
        (m.bits 4 31 31 = 0 → t.findCmd c = some (m.begun s) ∧ (t.erm.wins.map (·.moved)) = [some c] ∧
          t.dir d w.row = { s.dir d w.row with loc := 4, addr16 := p }) ∧
        (m.bits 4 31 31 = 1 → LedgerEnd s t (m.begun s) okStatus ∧ t.erm.wins = [] ∧
          t.dir d w.row = { s.dir d w.row with dual := false })) ∧
    (∀ (m : Cmd) (w : Win) (d : List W) (s : State), s.cmds = [m] → m.opcode = 0x36 → s.erm.wins = [w] → w.moved = some m.id →
      s.versions = [d] → tDir d = w.dir → s.CanEnd m.id → s.clearOf m.id (dirAddr d w.row) 8 →
      ∃ t, exec (.migrationWindowClose 0) s = .next t ∧ LedgerEnd s t m okStatus ∧ t.erm.wins = [] ∧
        t.dir d w.row = { s.dir d w.row with dual := false }))

/-! ### Tables replaced in service -/

/-- TABLE_STAGE of a table that is not sharded opens a staging handle whose entries are zero rows with the heat of the version
in force (R231). TABLE_WRITE and TABLE_REBUILD of one row write it from their source, the first over its record in the Cellar,
the second into a record of the row's class that the lowest pool gives (R226, R230, R232). -/
def Obligations.StageWriteAndRebuildRows : Prop :=
  (∀ (c : CmdId) (m : Cmd) (h : Handle) (d : List W) (s : State), s.Runs c 0x38 m →
    let mn := m.bits 4 7 0
    let sn := m.bits 4 15 8
    s.mainFor m mn = some h → h.n = mn → s.stagedOf mn = none → s.handle sn = none → m.block 5 (m.ptr 5) 64 = .ok d →
    s.tableOk d = true → sameTable d h.desc = true → tMap d = 0 → tVersion d = (tVersion h.desc + 1) % 65536 →
    tDir d + 8 * tLocal d ≤ tDir h.desc ∨ tDir h.desc + 8 * tLocal d ≤ tDir d → s.erm.budget = [] →
    s.clearOf c (tDir d) (8 * tLocal d) → s.clearOf c (tDir h.desc) (8 * tLocal d) →
    ∃ t, exec (.tableStage c) s = .next t ∧ LedgerEnd s t (m.begun s) okStatus ∧
      t.handle sn = some { n := sn, desc := d, role := .staging mn, built := true } ∧ t.handle mn = s.handle mn ∧
      ∀ i, i < tLocal d → t.dir d (tFirst d + i) =
        { loc := 5, fmt := 0, dual := false, dirty := false, heat := (s.dir h.desc (tFirst d + i)).heat, addr16 := 0 }) ∧
  (∀ (c : CmdId) (m : Cmd) (h : Handle) (lst src : Tensor) (s : State), s.Runs c 0x37 m → m.aux = [] →
    s.mainFor m (m.bits 4 7 0) = some h → s.tableWriteArgs m h.desc = .ok (lst, 1, src) → m.bits 4 8 8 = 0 →
    s.ck.stream = none → s.apart c lst → s.apart c src →
    let d := h.desc
    let row := s.listRow lst 0
    let e := s.dir d row
    let v : RowVal := { vals := (List.range (tWidth d)).map fun i => s.elem src [i, 0],
                        stored := (fmtOfFormat src.fmt).map fun f => (f, (List.range (tWidth d)).flatMap fun i =>
                          leBytes (Fp.width src.fmt / 8) (s.elemBits src [i, 0])) }
    let out := rowRecord d e.fmt v
    row < tRows d → tHolds d row = true → s.clearOf c (dirAddr d row) 8 → e.loc = 0 → e.dual = false →
    s.clearOf c (16 * e.addr16) out.1.length → 0 < out.1.length →
    dirAddr d row + 8 ≤ 16 * e.addr16 ∨ 16 * e.addr16 + out.1.length ≤ dirAddr d row →
    ∃ t, exec (.tableWrite c) s = .next t ∧ LedgerEnd s t { m.begun s with arith := m.arith.or out.2 } okStatus ∧
      t.bytes 3 (16 * e.addr16) out.1.length = out.1 ∧ t.dir d row = { e with dirty := true }) ∧
  (∀ (c : CmdId) (m : Cmd) (h : Handle) (mn n : Nat) (src : Tensor) (s : State), s.Runs c 0x39 m → m.aux = [] → s.cmds = [m] →
    s.openFor m (m.bits 4 7 0) = some h → h.role = .staging mn → h.locked = none →
    s.rebuildArgs m h.desc = .ok src → m.bits 4 8 8 = 0 → m.word 7 = 1 → s.erm.budget = [] → s.apart c src →
    let d := h.desc
    let row := rebuildFirst m
    let e := s.dir d row
    let k := s.rowClass d e.heat
    let v : RowVal := { vals := (List.range (tWidth d)).map fun i => s.elem src [i, 0],
                        stored := (fmtOfFormat src.fmt).map fun f => (f, (List.range (tWidth d)).flatMap fun i =>
                          leBytes (Fp.width src.fmt / 8) (s.elemBits src [i, 0])) }
    let out := rowRecord d (classFmt d k) v
    s.clearOf c (dirAddr d row) 8 → n < 16 → s.poolFits n (classTier k) (recBytes d (classFmt d k)) = true →
    (∀ j, j < n → s.poolFits j (classTier k) (recBytes d (classFmt d k)) = false) → (s.begin c).freeRecs n ≠ [] →
    (∀ x ∈ (s.begin c).freeRecs n, x % 16 = 0 ∧ x < 2 ^ 44 ∧ s.hasRange (classTier k) x out.1.length = true ∧
      (classTier k = 3 → s.clearOf c x out.1.length ∧ (x + out.1.length ≤ dirAddr d row ∨ dirAddr d row + 8 ≤ x))) →
    s.replyTier c.ring ≠ classTier k ∨ classTier k = 3 → 0 < out.1.length →
    ∃ t x, exec (.tableRebuild c) s = .next t ∧ x ∈ (s.begin c).freeRecs n ∧
      LedgerEnd s t { m.begun s with arith := m.arith.or out.2 } okStatus ∧
      t.bytes (classTier k) x out.1.length = out.1 ∧
      t.dir d row = { e with loc := tierLoc (classTier k), fmt := classFmt d k, addr16 := x / 16, dirty := true })

/-- TABLE_SWITCH (R237 to R246): a ready staged version comes into force at once, for every stamp after the present STIME (log
entry 108), the old one retires, and the command runs until the grace period has passed and nothing still reads it; one that
is not ready is late; a scheduled one is late where it was accepted after its lock point or a remembered veto names it (which
vetoes, the model's choice: log entry 87), and is armed otherwise. At the lock point a ready package locks its version, unless
another switch holds it (R143); another floods its veto and is late; a veto received ends the switch it names. For how long a
notice is remembered is the model's choice (log entry 33). -/
def Obligations.TableVersionsAreSwitched : Prop :=
  (∀ (c : CmdId) (m : Cmd) (mn st : Handle) (s : State), s.Runs c 0x3A m → s.switchTarget m = some (mn, st) → m.sched = false →
    ∃ t, exec (.tableSwitch c) s = .next t ∧
      (s.versionReady st = true → s.erm.wins = [] → mn.n ≠ st.n → s.handle mn.n = some mn → s.handle st.n = some st →
        t.findCmd c = some (m.begun s) ∧ t.handle mn.n = some { mn with desc := st.desc, since := s.tb.stime + 1 } ∧
          t.handle st.n = some { st with role := .follow mn.n, locked := none } ∧
          t.erm.retiring = s.erm.retiring ++ [{ main := mn.n, desc := mn.desc, since := mn.since, until_ := s.tb.stime + 1, cmd := c }]) ∧
      (s.versionReady st = false → Refused s t m s.late ∧ OnlyEnd s t c)) ∧
  (∀ (c : CmdId) (m : Cmd) (mn st : Handle) (s : State), s.Runs c 0x3A m → s.switchTarget m = some (mn, st) → m.sched = true →
    let lead := 1000 * s.fld F.verLead
    let vetoed := ∃ v ∈ s.erm.vetoes, v.job = m.job ∧ v.main = mn.n ∧ v.version = tVersion st.desc ∧ v.at_ < m.t ∧
      m.t ≤ v.at_ + maxLead
    (m.t < m.accAt + lead ∨ (m.job ≠ 0 ∧ vetoed) →
      ∃ t, exec (.tableSwitch c) s = .next t ∧ Refused s t m s.late ∧ OnlyEnd s t c) ∧
    (m.accAt + lead ≤ m.t → m.job = 0 ∨ ¬ vetoed → exec (.tableSwitch c) s = .next (s.arm c))) ∧
  (∀ (c : CmdId) (r : Retiring) (m : Cmd) (s : State), s.findCmd c = some m → s.CanEnd c →
    s.erm.retiring.find? (fun q => decide (q.cmd = c)) = some r →
    (r.until_ + 1000 * s.fld F.grace ≤ s.tb.stime → s.stillRead r = false →
      ∃ t, exec (.tableVersionRetire c) s = .next t ∧ Ended s t m okStatus ∧ ∀ q ∈ t.erm.retiring, q.cmd ≠ c) ∧
    (s.tb.stime < r.until_ + 1000 * s.fld F.grace ∨ s.stillRead r = true → exec (.tableVersionRetire c) s = .next s)) ∧
  (∀ (c : CmdId) (m : Cmd) (mn st : Handle) (s : State), s.findCmd c = some m → m.opcode = 0x3A → m.phase = .armed →
    m.aux = [] → s.CanEnd c → s.switchTarget m = some (mn, st) → m.t ≤ s.tb.stime + 1000 * s.fld F.verLead →
    ∃ t, exec (.tableSwitchLockPoint c) s = .next t ∧
      (∀ r, st.locked = some r → Refused s t m (heldBy 0x51 r) ∧ OnlyEnd s t c) ∧
      (st.locked = none → s.versionReady st = true → s.handle st.n = some st → t.findCmd c = some { m with aux := [1] } ∧
        t.handle st.n = some { st with locked := some c.ring } ∧ t.mem = s.mem) ∧
      (st.locked = none → s.versionReady st = false → m.job ≠ 0 → s.noticeRoom = true → Ended s t m s.late ∧
        t.fld F.verVetoed = min (s.fld F.verVetoed + 1) F.verVetoed.top ∧
        Flooded s t (withCrc (s.noticePkt 3 0 m.job (tVersion st.desc * 2 ^ 16 + mn.n) 0)) s.usablePorts)) ∧
  (∀ (p : Pkt) (inPort : Option Nat) (w0 w1 w2 w3 : W) (m : Cmd) (mn st : Handle) (s : State), s.cmds = [m] → m.opcode = 0x3A →
    m.phase = .armed → m.job = p.job → p.job ≠ 0 → p.body = .notice w0 w1 w2 w3 → m.bits 4 7 0 = bits w1 7 0 →
    s.switchTarget m = some (mn, st) → tVersion st.desc = bits w1 31 16 → s.CanEnd m.id →
    (∀ q ∈ s.fab.seen, s.tb.stime < q.2.2 + 1000000 → q.1 = p.src → q.2.1 ≠ p.seq) →
    ∃ t, exec (.tableVetoNotice p inPort) s = .next t ∧ Ended s t m s.late ∧
      (∀ h, t.handle st.n = some h → h.locked = none) ∧
      Flooded s t { p with hops := p.hops + 1 } (s.usablePorts.filter fun q => decide (some q ≠ inPort)))

/-! ### Programs, slots and operations -/

/-- PROGRAM_RUN, CHAIN_RUN, GATHER_RUN, MATMUL and SLOT_LAUNCH (R133, R134, R137, R187, R261, R296, R379): one that passes its
checks holds its operations, with the leading units that it skips done (R113, R367), and has written nothing yet; MATMUL has
one waiting operation for each output tile; one that fails a check ends with that check's status. -/
def Obligations.ProgramsLayOutTheirOperations : Prop :=
  (∀ (i : Instr) (c : CmdId) (op : Nat) (allowed : Nat → Bool) (m : Cmd) (s : State),
    (i = .programRun c ∧ op = 0x40 ∧ m.bits 6 1 0 ≠ 3 ∧ allowed = fun _ => true) ∨
      (i = .chainRun c ∧ op = 0x50 ∧ allowed = fun k => k == 4) ∨
      (i = .gatherRun c ∧ op = 0x32 ∧ allowed = fun k => k == 2 || k == 3) → s.runnable c op = some m →
    (∀ p, s.trap = none → s.programCheck m allowed = .ok p → s.programTakes m p = (s, .ok []) →
      m.failure = none →
      let u := s.mapCmd c fun q => { q with phase := .running }
      let ops := u.programOps { m with phase := .running } p
      (∃ o ∈ ops, o.stage ≠ .done) →
      ∃ t, exec i s = .next t ∧ t.findCmd c = some { m with
          phase := .running, ops := ops, done := max m.done (min (leadingUnits ops m.total 0) m.total) } ∧
        { t with cmds := s.cmds, regs := s.regs } = s) ∧
    (∀ st, s.CanEnd c → s.programCheck m allowed = .error st → unsentSteps m = [] →
      ∃ t, exec i s = .next t ∧ Refused s t m st ∧ OnlyEnd s t c) ∧
    (∀ p st, s.CanEnd c → s.programCheck m allowed = .ok p → s.programTakes m p = (s, .error st) → unsentSteps m = [] →
      ∃ t, exec i s = .next t ∧ Refused s t m st ∧ OnlyEnd s t c)) ∧
  (∀ (c : CmdId) (m : Cmd) (p : Program) (s : State), s.runnable c 0x40 = some m → s.CanEnd c → m.bits 6 1 0 = 3 →
    s.programCheck m (fun _ => true) = .ok p → unsentSteps m = [] →
    ∃ t, exec (.programRun c) s = .next t ∧ Refused s t m (oor 6) ∧ OnlyEnd s t c) ∧
  (∀ (c : CmdId) (m : Cmd) (q : MM) (s : State), s.runnable c 0x41 = some m → s.trap = none → s.matmulCheck m = .ok q →
    m.failure = none → 0 < q.m → 0 < q.n →
    ∃ t ops, exec (.matmul c) s = .next t ∧ t.findCmd c = some { m with phase := .running, ops := ops } ∧
      ops.length = upDiv q.m 32 * upDiv q.n 32 ∧ { t with cmds := s.cmds } = s ∧
      ∀ mb nb, mb < upDiv q.m 32 → nb < upDiv q.n 32 → ∃ o ∈ ops, o.kind = .matmul mb nb ∧ o.stage = .waiting) ∧
  (∀ (c : CmdId) (m : Cmd) (p : Program) (s : State), s.runnable c 0x80 = some m → s.trap = none → s.slotCheck m = .ok p →
    s.programTakes m p = (s, .ok []) →
    ∃ t n, exec (.slotLaunch c) s = .next t ∧ t.findCmd c = some n ∧ n.phase = .armed ∧
      n.ops = (s.mapCmd c fun q => { q with phase := .armed }).programOps { m with phase := .armed } p ∧
      Tab.get zeroNat t.red.slotT m.stream = m.t ∧ t.mem = s.mem ∧ t.tb = s.tb)

/-- A slot that waits for its trigger (R380, R382, R385): at the end of its slot with no edge it slips by its length and
counts it, or ends with LATE_INSTANT past its limit of slips; an edge of TIME_PPS_IN before then starts it. -/
def Obligations.TriggeredSlotsStartOrSlip : Prop :=
  (∀ (c : CmdId) (m : Cmd) (s : State), s.findCmd c = some m → m.opcode = 0x80 → m.phase = .armed →
    m.aux.getD slotWaitAt 0 = 1 → s.effective m + m.slotLen ≤ s.tb.stime → s.trap = none →
    let n := m.aux.getD slotSlipsAt 0 + 1
    (m.bits 6 7 0 = 0 ∨ n ≤ m.bits 6 7 0 →
      ∃ t q, exec (.slotTriggerTimeout c) s = .next t ∧ t.findCmd c = some q ∧ q.phase = .armed ∧
        q.aux.getD slotSlipsAt 0 = n ∧ q.aux.getD slotWaitAt 0 = 0 ∧
        t.shiftOf m.stream = s.shiftOf m.stream + m.slotLen ∧ (∀ k, k ≠ m.stream → t.shiftOf k = s.shiftOf k) ∧
        t.fld (cnt (Reg.red 0x5C)) = min (s.fld (cnt (Reg.red 0x5C)) + 1) 0xFFFFFFFF ∧ t.mem = s.mem) ∧
    (m.bits 6 7 0 ≠ 0 → m.bits 6 7 0 < n → s.CanEnd c → unsentSteps m = [] →
      ∃ t, exec (.slotTriggerTimeout c) s = .next t ∧
        Ended s t m ⟨St.lateInstant, s.tb.stime % 2 ^ 32, s.tb.stime / 2 ^ 32⟩ ∧ OnlyEnd s t c)) ∧
  (∀ (m : Cmd) (s : State), s.fld F.tbRole ≠ 1 → s.cmds.find? (fun q => q.waitsTrigger) = some m → s.findCmd m.id = some m →
    s.tb.stime < s.effective m + m.slotLen → m.failure = none → (∃ o ∈ m.ops, o.stage ≠ .done) → s.trap = none →
    ∃ t, exec .timePpsInEdge s = .next t ∧ t.findCmd m.id = some { m with phase := .running } ∧ t.mem = s.mem ∧
      t.slipRun m.stream = 0 ∧
      (m.trig = true → t.fld (cnt (Reg.red 0x64)) = min (s.fld (cnt (Reg.red 0x64)) + 1) 0xFFFFFFFF)) ∧
  (∀ s : State, s.trap = none → s.fld F.tbRole ≠ 1 → (∀ q ∈ s.cmds, q.waitsTrigger = false) →
    exec .timePpsInEdge s = .next s)

/-- Operations (R137 to R140): one that may issue does, with its output space reserved, and the Ledger shows its command's
start; one that may not, and is next in its idle engine's walk order, counts the idle time under its cause. Operand tiles and
rows that arrive no longer keep the operations of their Hall and walk waiting (R191, R258, R259), and the Predictor Unit
writes the mask bits of a row block (R332). -/
def Obligations.OperationsWaitAndIssue : Prop :=
  (∀ (c : CmdId) (i mb nb idle : Nat) (space : Bool) (m : Cmd) (o : Op) (s : State), s.op c i = some (m, o) → m.opcode = 0x41 →
    o.kind = .matmul mb nb → o.unit = .array → o.stage = .waiting → m.phase = .running → m.failure = none →
    s.rst.stopped = false → s.Sound → s.hasRange 3 (s.ledgerAddr c.ring c.seq) 32 = true →
    (s.stallCause m i o space = none → s.engineBusy o = false → m.start = 0 →
      ∃ t, exec (.operationIssue c i space idle) s = .next t ∧
        t.findCmd c = some { m with
          start := s.tb.stime, ops := m.ops.modify i fun q =>
            { q with stage := .issued, room := State.roomFor m o, checked := true } } ∧
        t.bytes 3 (s.ledgerAddr c.ring c.seq) 32 = wordBytes (ledgerWords (m.begun s) 0xFFFF 0) ∧
        ∀ k, ¬ s.inLedger c k → Tab.get memDefault t.mem k = Tab.get memDefault s.mem k) ∧
    (∀ k, s.stallCause m i o space = some k → s.engineBusy o = true ∨ s.isNext m i o = false →
      exec (.operationIssue c i space idle) s = .next s) ∧
    (∀ k, s.stallCause m i o space = some k → s.engineBusy o = false → s.isNext m i o = true →
      ∃ t, exec (.operationIssue c i space idle) s = .next t ∧
        t.fld (F.stall o.hall k) = min (s.fld (F.stall o.hall k) + idle) (F.stall o.hall k).top ∧
        OnlyRegs s t [(F.stall o.hall k).off])) ∧
  (∀ (i : Instr) (c : CmdId) (hall layer tensor row col k : Nat) (rest : List (Nat × Op)) (m : Cmd) (o : Op) (x : Tensor) (s : State),
    (i = .weightTileFetch c hall layer tensor (row, col) ∧ 3 ≤ x.tier) ∨
      (i = .tileMoveDone c hall layer tensor (row, col) ∧ x.tier < 3) →
    s.findCmd c = some m → s.waiters m hall layer (tensor, row, col) = (k, o) :: rest → m.operandTensor tensor = some x →
    m.phase ≠ .accepted → m.failure = none → isMaskRef m layer (tensor, row, col) = false → x.sparse = false → s.Sound →
    let spans := s.needSpans m x o row col
    writerBusy (s.pendingUses m k o) spans = false → spansMeet spans s.copySpans = false → nearHall x hall spans = true →
    (s.touchSpans spans).1.trap = none →
    ∃ t, exec i s = .next t ∧
      t.findCmd c = some { m with ops := m.ops.map fun q =>
        if q.kind.layer = layer ∧ q.hall = hall ∧ (m.opcode = 0x41 ∨ q.part = o.part) ∧ q.stage = .waiting ∧
            (tensor, row, col) ∈ q.needs then
          { q with needs := q.needs.filter (· != (tensor, row, col)), tiles := q.tiles ++ [(tensor, row, col)] } else q } ∧
      t.mem = s.mem ∧ t.regs = s.regs) ∧
  (∀ (c : CmdId) (layer mb k : Nat) (rest : List (Nat × Op)) (m : Cmd) (o : Op) (l : Layer) (x pa mask : Tensor) (s : State),
    s.findCmd c = some m → m.rawProgram.layers[layer]? = some l → l.op = 1 →
    let L := m.matLayer m.rawProgram layer l
    L.sp.pred = true → s.waiters m (s.blockHall L mb) layer (L.sp.mask, mb, 0) = (k, o) :: rest → L.x = some x → L.pa = some pa →
    L.mask = some mask → m.phase ≠ .accepted → m.failure = none → s.Sound →
    let spans := s.blockSpans x (blockLines L.m mb) (List.range L.k) ++ s.wholeSpans pa
    let us := s.pendingUses m k o
    writerBusy us spans = false → spansMeet spans s.copySpans = false →
    regionBusy us { writes := (List.range L.nbs).map fun nb => s.mapSpan mask (mb * L.nbs + nb) } = false →
    (s.touchSpans spans).1.trap = none → mask.fmt = 7 → mask.ndim = 1 → mask.spread = false → mask.stride 0 = 1 →
    (mb + 1) * L.nbs ≤ 32 * mask.size 0 → s.hasRange mask.tier mask.base (4 * mask.size 0) = true → mask.base % 4 = 0 →
    ∃ t, exec (.predictorRowBlock c layer mb) s = .next t ∧
      (∀ nb, nb < L.nbs → t.mapBit mask (mb * L.nbs + nb) = (s.activeBlocks L x pa mb).getD nb false) ∧
      ∀ b, b < 32 * mask.size 0 → (b < mb * L.nbs ∨ (mb + 1) * L.nbs ≤ b) → t.mapBit mask b = s.mapBit mask b) ∧
  (∀ (c : CmdId) (i row : Nat) (rows : List Nat) (m : Cmd) (o : Op) (x : Tensor) (s : State), s.op c i = some (m, o) →
    o.stage = .waiting → m.phase ≠ .accepted → m.failure = none → (∀ f ∈ o.got, f.row ≠ row) →
    (m.gatherOf o).filter (·.readsTable o.kind.backward) = none → s.sourceRows m o = some (x, rows) → row ∈ rows → 3 ≤ x.tier →
    row < x.rows → s.Sound →
    let cells := (List.range x.rowLen).map fun e => [e, row]
    writerBusy (s.pendingUses m i o) (s.cellSpans x cells) = false → (s.touchElems x cells).1.trap = none →
    ∃ t, exec (.gatherRowFetchDone c i row) s = .next t ∧
      t.op c i = some ({ m with ops := m.ops.modify i (addGot { entry := row, row := row, fmt := x.fmt, bytes := [] }) },
        addGot { entry := row, row := row, fmt := x.fmt, bytes := [] } o) ∧ t.mem = s.mem ∧ t.regs = s.regs)

/-- The operation of a MATMUL ends (R138, R253, R265 to R267, R296): with no check active and no fault, each element of its
output tile holds the Drain's function of the sum that its array formed, converted to nearest into a plain two-dimensional C,
and no byte outside C, the Ledger entry and the reply changes; the last operation ends its command with OK. -/
def Obligations.MatmulOperationWritesItsTile : Prop :=
  ∀ (c : CmdId) (mb nb : Nat) (m : Cmd) (o : Op) (s : State), s.findCmd c = some m → m.ops = [o] → m.opcode = 0x41 →
    o.kind = .matmul mb nb → o.unit = .array → o.stage = .issued → m.failure = none → m.result = none → o.held = [] →
    s.CanEnd c → (∀ q ∈ s.cmds, q.captures = false) → s.attested = false → s.flag F.chkArm = false →
    s.flag (F.chkEnable (o.tile / 640)) = false → s.flag (F.drainDup (o.tile / 640)) = false →
    (s.touchSpans (s.runReads m o)).1.trap = none →
    let q := m.matmulOf
    let g := ((s.calcMatmul q o mb nb).units.flatMap (·.outs)).headD []
    let z := fun (i j : Nat) => (Fp.drainFun q.func (Fp.of32 q.alpha) [] false ((g.getD i []).getD j Fp.posZero)).1
    q.round = false → q.c.ndim = 2 → q.c.fmt < 5 → q.c.size 0 = q.n → q.c.size 1 = q.m → s.apart c q.c → s.plain q.c →
    s.hasRange q.c.tier q.c.base q.c.span = true → q.c.tier < 4 →
    ∃ t f, exec (.operationComplete c 0 none) s = .next t ∧ LedgerEnd s t { m with arith := f } okStatus ∧
      (∀ i j, i < 32 → j < 32 → 32 * mb + i < q.m → 32 * nb + j < q.n →
        t.elemBits q.c [32 * nb + j, 32 * mb + i] = (Fp.convert q.c.fmt .nearest (z i j)).1) ∧ s.restKept t c q.c

/-- ENCODE of one BF16 tile (R305, R310 to R312): a tile of zeros is tagged zero and counted in SPR.ENC_ZERO; the dense
preference stores each element of any other tile in its place, under tag 0 with its count of nonzero elements; the directory
entry's second word is the CRC of its first. SPARSE_VERIFY ends with OK where every tile passes the checks of R324 (R327). -/
def Obligations.SparseTilesAreEncodedAndVerified : Prop :=
  (∀ (c : CmdId) (m : Cmd) (src dst : Tensor) (s : State), s.Runs c 0x48 m → s.encodeArgs m = .ok (src, dst) →
    dst.kb * dst.nb = 1 → src.fmt = 1 → s.apart c src → s.clearOf c dst.base 2304 → s.clearOf c dst.metaAt 8 →
    dst.base + 2304 ≤ dst.metaAt ∨ dst.metaAt + 8 ≤ dst.base →
    let e := fun (r k : Nat) => s.elemBits src [k, r]
    let inside := fun (r k : Nat) => decide (r < src.size 1) && decide (k < src.size 0)
    let cells := (List.range 32).flatMap fun r => (List.range 32).map fun k => (r, k)
    let nnz := (cells.filter fun x => inside x.1 x.2 && e x.1 x.2 % 0x8000 != 0).length
    let dir := fun (t : State) => bytesWords 2 (t.bytes 3 dst.metaAt 8)
    (nnz = 0 →
      ∃ t, exec (.encode c) s = .next t ∧ LedgerEnd s t (m.begun s) okStatus ∧
        dir t = [BitVec.ofNat 32 (3 * 2 ^ 30 + 2 ^ 28), crc32c (leBytes 4 (3 * 2 ^ 30 + 2 ^ 28))] ∧
        t.bytes 3 dst.base 2304 = s.bytes 3 dst.base 2304 ∧
        let zeros := F.hallCnt (maskHall (m.bits 8 15 0) 0) 0x518
        t.fld zeros = min (s.fld zeros + 1) 0xFFFFFFFF) ∧
    (nnz ≠ 0 → m.bits 8 17 16 = 2 →
      ∃ t, exec (.encode c) s = .next t ∧ LedgerEnd s t (m.begun s) okStatus ∧
        dir t = [BitVec.ofNat 32 (2 ^ 28 + nnz), crc32c (leBytes 4 (2 ^ 28 + nnz))] ∧
        ∀ r k, r < 32 → k < 32 →
          ofLe (t.bytes 3 (dst.base + 64 * r + 2 * k) 2) = if inside r k then e r k else 0)) ∧
  (∀ (c : CmdId) (m : Cmd) (t0 : Tensor) (s : State), s.Runs c 0x49 m → s.verifyArgs m = .ok t0 →
    s.clearOf c t0.base (2304 * t0.kb * t0.nb) → s.clearOf c t0.metaAt (8 * t0.kb * t0.nb) →
    (∀ i, i < t0.kb * t0.nb → s.spCheck t0 i true = none) →
    ∃ t, exec (.sparseVerify c) s = .next t ∧ Ended s t (m.begun s) okStatus ∧ OnlyEnd s { t with loads := s.loads } c)

/-! ### Contributions and the commit -/

/-- COMMIT (R395, R402, R405, R407): with no checkpoint plan kept, one that passes its checks and finds nothing buffered for
its step is armed at its T, moved by the deferrals already recorded, with the sum of each dense shard at −0; one that fails a
check ends with that check's status. At its lock point (R403, R405) a ready package does nothing but note it; one that is not
defers the step by Δ, counts it and sends the notice, or poisons the step at its limit. A step notice (R404 to R406) poisons
or defers its step here, once for each instant; one for a committed step is only counted. At T (R406, R408) a poisoned COMMIT
ends with POISONED, and one with contributions missing with NO_COMMIT. How a second poison event of a step counts (log entry
48), for how long a notice is remembered (log entry 33) and that its packet carries the STIME of its event (log entry 78) are
the model's reading. -/
def Obligations.CommitIsArmedDeferredOrPoisoned : Prop :=
  (∀ (c : CmdId) (m : Cmd) (differ : Bool) (s : State), s.runnable c 0x60 = some m → s.Sound → s.commitCheck m = .ok () →
    (s.takeEntry m.job).isSome = true → s.bndIn 1 = none → (∀ e, s.jobEntry m.job = some e → latestStep e < m.step + 64) →
    s.isPoisoned m.job m.step = false → s.ck.plan = none →
    (∀ q ∈ s.red.parts, q.job = m.job → q.step ≠ m.step) → (∀ r ∈ s.red.shards, r.job = m.job → r.step ≠ m.step) →
    ∃ t q, exec (.commit ⟨c, differ⟩) s = .next t ∧ t.findCmd c = some q ∧ q.phase = .armed ∧
      q.t = m.t + (s.stepRec m.job m.step).defers * m.defer ∧
      (∀ pos, pos < m.shardCount → ∃ r, t.run? m.job m.step (sShard (m.shard pos)) = some r ∧ r.cmd = c ∧ r.pos = pos ∧
        r.added = 0 ∧ r.formed = false) ∧
      ((∀ d ∈ m.shards, sRed d % 4 = 0) → ∀ d ∈ m.shards, sCtype d ≠ 2 → ∀ i, i < sSum d →
        t.word 3 (sRed d + 4 * i) = 0x80000000) ∧
      t.regs = s.regs ∧ t.out = s.out ∧ t.tb = s.tb ∧ t.gens = s.gens) ∧
  (∀ (c : CmdId) (m : Cmd) (differ : Bool) (st : Status) (s : State), s.runnable c 0x60 = some m → s.CanEnd c → s.commitCheck m = .error st →
    s.safe.ckptReq = false → ∃ t, exec (.commit ⟨c, differ⟩) s = .next t ∧ Refused s t m st ∧ OnlyEnd s t c) ∧
  (∀ (c : CmdId) (m : Cmd) (e : JobEntry) (s : State), s.findCmd c = some m → m.opcode = 0x60 → m.phase = .armed →
    m.accAt ≤ m.t - m.lead → m.t - m.lead ≤ s.tb.stime → s.tb.stime < m.t → m.aux.getD lockAt 0 ≠ m.t + 1 → s.trap = none →
    (∀ q ∈ s.cmds, q.captures = false) → s.isPoisoned m.job m.step = false → (s.stepRec m.job m.step).committed = false →
    (∀ r ∈ s.runsOf c, s.digestDiffers r = false) → s.jobEntry m.job = some e → (∀ r ∈ e.steps, r.step < m.step + 64) →
    s.rst.held = [] → s.rst.pinHeld = none →
    let k := (s.stepRec m.job m.step).defers
    let seen := { m with aux := m.aux.take 2 ++ [m.t + 1] }
    ((∀ r ∈ s.runsOf c, s.shardWaits m r = none) →
      ∃ t, exec (.commitLockPoint c) s = .next t ∧ t.findCmd c = some seen ∧ { t with cmds := s.cmds } = s) ∧
    (∀ r reason, r ∈ s.runsOf c → (∀ q ∈ s.runsOf c, s.shardWaits m q = some reason) → k ≠ m.maxDefers →
      ∃ t, exec (.commitLockPoint c) s = .next t ∧ t.findCmd c = some { seen with t := m.t + m.defer } ∧
        (t.stepRec m.job m.step).defers = k + 1 ∧
        t.fld (cnt (Reg.red 0x4C)) = min (s.fld (cnt (Reg.red 0x4C)) + 1) 0xFFFFFFFF ∧ t.mem = s.mem ∧
        (m.job = 0 → t.out = s.out) ∧
        (m.job ≠ 0 → s.noticeRoom = true → Flooded s t (withCrc (s.noticePkt 2 reason m.job m.step k)) s.usablePorts)) ∧
    (∀ r reason, r ∈ s.runsOf c → (∀ q ∈ s.runsOf c, s.shardWaits m q = some reason) → k = m.maxDefers →
      ∃ t, exec (.commitLockPoint c) s = .next t ∧ t.findCmd c = some seen ∧ t.isPoisoned m.job m.step = true ∧
        t.fld F.poisonReason = 2 ∧ t.fld F.poisonPackage = s.pkg % 2 ^ 16 ∧ t.fld F.poisonStep = m.step % 2 ^ 32 ∧
        t.fld (cnt (Reg.red 0x48)) = min (s.fld (cnt (Reg.red 0x48)) + 1) 0xFFFFFFFF ∧ t.mem = s.mem)) ∧
  (∀ (p : Pkt) (inPort : Option Nat) (w0 w1 w2 w3 : W) (e : JobEntry) (s : State), p.body = .notice w0 w1 w2 w3 → p.job ≠ 0 →
    s.trap = none → (∀ q ∈ s.fab.seen, s.tb.stime < q.2.2 + 1000000 → q.1 = p.src → q.2.1 ≠ p.seq) →
    (∃ o ∈ s.cmds, o.job = p.job) → s.jobEntry p.job = some e → (∀ r ∈ e.steps, r.step < w1.toNat + 64) →
    s.rst.held = [] → s.rst.pinHeld = none →
    let r := s.stepRec p.job w1.toNat
    ∃ t, exec (.stepNotice p inPort) s = .next t ∧ t.mem = s.mem ∧
      (Flooded s t { p with hops := p.hops + 1 } (s.usablePorts.filter fun q => decide (some q ≠ inPort))) ∧
      (r.committed = true → t.cmds = s.cmds ∧ t.fld (cnt (Reg.red 0x58)) = min (s.fld (cnt (Reg.red 0x58)) + 1) 0xFFFFFFFF) ∧
      (r.committed = false → bits w0 31 28 = 1 → t.isPoisoned p.job w1.toNat = true ∧ t.cmds = s.cmds ∧
        t.fld F.poisonReason = bits w0 27 24 ∧ t.fld F.poisonPackage = p.src % 2 ^ 16 ∧ t.fld F.poisonStep = w1.toNat) ∧
      (r.committed = false → bits w0 31 28 ≠ 1 → bits w2 15 0 < r.defers → t.cmds = s.cmds) ∧
      (r.committed = false → bits w0 31 28 ≠ 1 → r.defers ≤ bits w2 15 0 →
        (t.stepRec p.job w1.toNat).defers = r.defers + 1 ∧
        ∀ m : Cmd, s.findCmd m.id = some m → m.opcode = 0x60 → m.job = p.job → m.step = w1.toNat → m.phase = .armed →
          t.findCmd m.id = some { m with t := m.t + m.defer })) ∧
  (∀ (m : Cmd) (s : State), s.cmds = [m] → m.opcode = 0x60 → m.sched = true → m.phase = .armed → m.captures = false →
    m.t ≤ s.tb.stime → s.CanEnd m.id → s.bndBase = 0 → s.safe.ckptReq = false → s.rst.held = [] → s.rst.pinHeld = none →
    (∀ at_ pkg, (s.stepRec m.job m.step).poisons = [(at_, pkg)] →
      ∃ t, exec .launchTimerFire s = .next t ∧ Ended s t m ⟨St.poisoned, m.step, pkg⟩) ∧
    (s.isPoisoned m.job m.step = false → (∃ r ∈ s.runsOf m.id, r.added < sN (m.shard r.pos)) →
      ∃ t, exec .launchTimerFire s = .next t ∧ LedgerEnd s t m ⟨St.noCommit, m.step, 1⟩))

/-- Contributions (R395, R396): a part whose step has no COMMIT yet is buffered while the region at RED.BUF_BASE has room, its
elements in the region, and waits in the fabric otherwise; one of a step that has committed or been poisoned is discarded, and
counted at its end marker (log entry 61). Where a part lies in the region is the model's choice (log entry 84). The end marker
of the lowest rank not yet added completes it: each element of the sum takes one FP32 addition of the rank's element, read
from the region where it lies there, and no other byte changes; where the two datapaths differ on the values formed then, the
step is poisoned with reason 1 (R398). In twin mode the trial pass of a formed shard digests the new values and sends the
digest (R481, R482); the partner's digest is kept for its shard. -/
def Obligations.ContributionsAreAddedInRankOrder : Prop :=
  (∀ (p : Pkt) (step shard rank : Nat) (part : Part) (differ : Bool) (s : State), p.body = .contrib step shard rank part →
    s.partBehind p step shard rank = false →
    (s.Calm → (s.stepRec p.job step).committed = true ∨ s.isPoisoned p.job step = true →
      ∃ t, exec (.contributionPacket ⟨p, differ⟩) s = .next t ∧ t.red = s.red ∧ t.fab = (s.unbox p).fab ∧ t.cmds = s.cmds ∧
        t.fld (cnt (Reg.red 0x54)) =
          if isEnd part then min (s.fld (cnt (Reg.red 0x54)) + 1) 0xFFFFFFFF else s.fld (cnt (Reg.red 0x54))) ∧
    (s.Sound → s.stepClosed p.job step = false → s.run? p.job step shard = none → s.armedCommit p.job step = false →
      rankCounted ((s.red.parts.filter (partOf p.job step shard rank)).map (·.part)) = false →
      (∀ q ∈ s.red.parts, partOf p.job step shard rank q = true → samePart q.part part = false) →
      (s.partPlace (partBytes part) = none → exec (.contributionPacket ⟨p, differ⟩) s = .next s) ∧
      (∀ o, s.partPlace (partBytes part) = some o → s.bufferBase + s.bufferSize ≤ cellarEnd →
        let vs := partVals part
        o + partBytes part ≤ s.bufferSize ∧
        ∃ t, exec (.contributionPacket ⟨p, differ⟩) s = .next t ∧ t.peekWords 3 (s.bufferBase + o) vs.length = vs ∧
          t.red = { s.red with parts := s.red.parts ++
            [{ job := p.job, step := step, shard := shard, rank := rank, part := part, place := some o }] } ∧
          t.fab = (s.unbox p).fab ∧ t.cmds = s.cmds ∧ t.regs = s.regs ∧
          ∀ k, (k < memKey 3 (s.bufferBase + o) ∨ memKey 3 (s.bufferBase + o) + 4 * vs.length ≤ k) →
            Tab.get memDefault t.mem k = Tab.get memDefault s.mem k))) ∧
  (∀ (p : Pkt) (step shard n : Nat) (r : ShardRun) (m : Cmd) (vs : List W) (s : State), s.Sound →
    s.run? p.job step shard = some r → s.findCmd r.cmd = some m → s.stepClosed p.job step = false →
    let d := m.shard r.pos
    let rank := m.rank0 d + r.added
    let qs := s.red.parts.filter (partOf p.job step shard rank)
    p.body = .contrib step shard rank (.fin n) → s.partBehind p step shard rank = false →
    sCtype d ≠ 2 → r.added + 1 < sN d → finOf (qs.map (·.part)) = none → elemsOf (qs.map s.partNow) = vs → vs.length = n →
    n = sSum d → 0 < n → vs.all (fun v => Fp.isFinite (Fp.of32 v)) = true →
    (∀ q ∈ s.red.parts, partOf p.job step shard (rank + 1) q = false) →
    s.hasRange 3 (sRed d) (4 * n) = true → (∀ x ∈ s.partReads qs, s.hasRange x.1 x.2.1 x.2.2 = true) →
    (∃ t, exec (.contributionPacket ⟨p, false⟩) s = .next t ∧ t.run? p.job step shard = some { r with added := r.added + 1 } ∧
      (∀ i, i < n → t.word 3 (sRed d + 4 * i) =
        (Fp.bits32 (Fp.add (Fp.of32 (BitVec.ofNat 32 (s.word 3 (sRed d + 4 * i)))) (Fp.of32 (vs.getD i 0))).1).toNat) ∧
      t.red.parts = s.red.parts.filter (fun q => !partOf p.job step shard rank q) ∧
      (∀ k, (k < memKey 3 (sRed d) ∨ memKey 3 (sRed d) + 4 * n ≤ k) → Tab.get memDefault t.mem k = Tab.get memDefault s.mem k) ∧
      t.regs = s.regs) ∧
    (∀ e, s.jobEntry p.job = some e → (∀ q ∈ e.steps, q.step < step + 64) →
      ∃ t, exec (.contributionPacket ⟨p, true⟩) s = .next t ∧ t.isPoisoned p.job step = true ∧ t.fld F.poisonReason = 1 ∧
        t.fld F.poisonStep = step % 2 ^ 32)) ∧
  (∀ (c : CmdId) (idx : Nat) (m : Cmd) (r : ShardRun) (s : State), s.findCmd c = some m →
    (s.runsOf c).find? (fun r => r.pos == idx) = some r → s.flag F.twinEnable = true → r.formed = true → r.own = none →
    m.phase = .armed → s.isPoisoned r.job r.step = false → s.Sound →
    let d := m.shard idx
    sCtype d ≠ 2 → (∀ j, j < denseSegs d → ∀ x ∈ segReads d j, s.hasRange x.1 x.2.1 x.2.2 = true) →
    let dg := crc64From 0 ((List.range (denseSegs d)).flatMap fun j => denseBytes (s.newDense s.seed m d j))
    (∃ t q, exec (.twinTrialPassEnd c ⟨idx, false⟩) s = .next t ∧ (t.runsOf c).find? (fun r => r.pos == idx) = some q ∧
      q.own = some dg ∧ t.fab.outq = s.fab.outq ++ [s.digestPkt m r.shard dg] ∧ t.mem = s.mem ∧ t.regs = s.regs) ∧
    (∀ e, s.jobEntry r.job = some e → (∀ q ∈ e.steps, q.step < r.step + 64) →
      ∃ t, exec (.twinTrialPassEnd c ⟨idx, true⟩) s = .next t ∧ t.isPoisoned r.job r.step = true ∧ t.fld F.poisonReason = 1 ∧
        t.fld F.poisonStep = r.step % 2 ^ 32 ∧ t.mem = s.mem)) ∧
  (∀ (p : Pkt) (step shard : Nat) (dg : BitVec 64) (s : State), p.body = .digest step shard dg → s.trap = none →
    p.src = s.fld F.twinPartner →
    ∃ t, exec (.twinDigestPacket p) s = .next t ∧ { t with red := s.red, fab := s.fab } = s ∧
      (∀ r, s.run? p.job step shard = some r → t.run? p.job step shard = some { r with peer := some dg }) ∧
      (s.run? p.job step shard = none → s.stepClosed p.job step = false →
        t.red = { s.red with digests := s.red.digests ++ [(p.job, step, shard, dg)] }))

/-- The apply (R409, R410, R413, R414). A Reduction Engine's segment of a dense shard writes the rule's new values to the
slot, to master, moments and working copy, advances its record, and multicasts the working copy; the last segment of its last
shard, outside twin mode, ends its record in state 2. An error-feedback update of a BF16 tensor e writes each of its elements
(R393), and its COMMIT takes the flags (R70). A parameter segment waits for the package's own commit; the one segment awaited
of a copy is then written to it and counts for it, and one of a group that the package is no member of is dropped. The COMMIT
ends once all this is through, with OK, or with SKIPPED where contributions were skipped. -/
def Obligations.ApplyWritesItsSegments : Prop :=
  (∀ (h differ pos : Nat) (rest : List Nat) (a : ApplyRun) (s : State), h < 16 → a.engine = h → s.applyOf h = some a →
    (∀ b ∈ s.red.applies, b.engine = h → b = a) → a.todo = pos :: rest → differ < 2 → s.Sound → a.cmd.job < 2 ^ 16 →
    a.cmd.id.ring < 2 ^ 16 →
    let m := a.cmd
    let d := m.shard pos
    let first := 4096 * a.seg
    let n := min 4096 (sParams d - first)
    let new := s.newDense a.seed m d a.seg
    let work := new.flatMap fun x => leBytes 2 x.work
    let spans := [(a.recAt, 64 + 14 * n), (sMaster d + 4 * first, 4 * n), (sMom d + 4 * first, 4 * n),
      (sMom d + 4 * (sParams d + first), 4 * n), (sWork d + 2 * first, 2 * n)]
    sCtype d ≠ 2 → a.seg < denseSegs d → a.seg + 1 < 2 ^ 32 → (∀ x ∈ spans, x.1 + x.2 ≤ cellarEnd) →
    (∀ x ∈ segReads d a.seg, s.hasRange x.1 x.2.1 x.2.2 = true) →
    spans.Pairwise (fun x y => x.1 + x.2 ≤ y.1 ∨ y.1 + y.2 ≤ x.1) →
    (a.seg + 1 = denseSegs d → rest = [] ∧ s.flag F.twinEnable = false) →
    ∃ t, exec (.applySegment h differ) s = .next t ∧
      t.bytes 3 (a.recAt + 64) (14 * n) = denseBytes new ∧
      t.bytes 3 (sMaster d + 4 * first) (4 * n) = fp32Bytes (new.map (·.w)) ∧
      t.bytes 3 (sMom d + 4 * first) (4 * n) = fp32Bytes (new.map (·.m)) ∧
      t.bytes 3 (sMom d + 4 * (sParams d + first)) (4 * n) = fp32Bytes (new.map (·.v)) ∧
      t.bytes 3 (sWork d + 2 * first) (2 * n) = work ∧
      t.fab.outq = s.fab.outq ++ [s.segmentPkt m d a.seg work] ∧
      t.word 3 a.recAt = (if a.seg + 1 < denseSegs d then 1 else 2) * 2 ^ 30 + m.job ∧
      t.word 3 (a.recAt + 20) = a.seg + 1 ∧
      t.fld ⟨Reg.red 0x30, 2 * h + 1, 2 * h⟩ = (if a.seg + 1 < denseSegs d then 1 else 2) ∧
      (∀ q, s.findCmd m.id = some q → ∃ f, t.findCmd m.id =
        some { q with arith := q.arith.or f, done := max q.done (min (q.done + 1) q.total) }) ∧
      ∀ k, (∀ x ∈ spans, k < memKey 3 x.1 ∨ memKey 3 x.1 + x.2 ≤ k) → Tab.get memDefault t.mem k = Tab.get memDefault s.mem k) ∧
  (∀ (e : EfRec) (s : State), s.red.efs.find? (fun e => e.due) = some e → s.Sound → s.bndBase = 0 →
    s.hasRange 3 e.mbuf (4 * (e.ks * e.ns + e.ks * 2 ^ e.rlog)) = true →
    let ef := tensorOf e.ef 0
    ef.fmt = 1 → ef.spread = false → ef.sparse = false → ef.count = e.ks * e.ns → s.plain ef →
    s.hasRange ef.tier ef.base ef.span = true → ef.tier < 4 →
    ∃ t, exec .efUpdate s = .next t ∧ t.red = { s.red with efs := s.red.efs.erase e } ∧
      (∀ k, k < ef.count →
        t.elemBits ef (ef.coord k) = (Fp.convert 1 .nearest ((s.newEf e).getD k (Fp.posZero, {})).1).1) ∧
      (∀ k, (k < memKey ef.tier (s.extent ef).1 ∨ memKey ef.tier (s.extent ef).2 < k) →
        Tab.get memDefault t.mem k = Tab.get memDefault s.mem k) ∧ t.regs = s.regs ∧
      t.cmds.map (fun q => { q with arith := {} }) = s.cmds.map (fun q => { q with arith := {} }) ∧
      ∀ q ∈ s.cmds, q ∉ s.commitsOf e.job e.step → q ∈ t.cmds) ∧
  (∀ s : State, s.trap = none → (∀ e ∈ s.red.efs, e.due = false) → exec .efUpdate s = .next s) ∧
  (∀ (p : Pkt) (step seg : Nat) (bs : List Byte) (w : CopyWait) (s : State), p.body = .segment step seg bs → s.Sound →
    (s.armedCommit p.job step = true → s.isPoisoned p.job step = false → exec (.parameterSegment p) s = .next s) ∧
    (s.armedCommit p.job step = false → s.hasRange 3 (s.groupBase + 16 * p.group) 16 = true → (s.copyEntry p.group).1 = 0 →
      ∃ t, exec (.parameterSegment p) s = .next t ∧ t.mem = s.mem ∧ t.red = s.red ∧ t.fab = (s.unbox p).fab) ∧
    (s.armedCommit p.job step = false → s.hasRange 3 (s.groupBase + 16 * p.group) 16 = true → (s.copyEntry p.group).1 ≠ 0 →
      s.red.copies = [w] → w.job = p.job → w.step = step → w.group = p.group → seg ∉ w.got →
      s.hasRange 3 ((s.copyEntry p.group).1 + 8192 * seg) bs.length = true →
      let at_ := (s.copyEntry p.group).1 + 8192 * seg
      ∃ t, exec (.parameterSegment p) s = .next t ∧ t.bytes 3 at_ bs.length = bs ∧
        t.red.copies = (if w.want ≤ w.got.length + 1 then [] else [{ w with got := seg :: w.got }]) ∧
        ∀ k, (k < memKey 3 at_ ∨ memKey 3 at_ + bs.length ≤ k) → Tab.get memDefault t.mem k = Tab.get memDefault s.mem k)) ∧
  (∀ (c : CmdId) (m : Cmd) (s : State), s.findCmd c = some m → m.opcode = 0x60 → m.phase = .running → s.CanEnd c →
    s.safe.ckptReq = false →
    (s.commitDone m = true → s.fab.prunes = [] →
      ((∀ r ∈ s.runsOf c, r.skipped = 0) → ∃ t, exec (.commitCompletion c) s = .next t ∧ Ended s t m okStatus ∧
        OnlyEnd s { t with red := s.red, fab := s.fab } c) ∧
      (∀ r, s.runsOf c = [r] → r.skipped ≠ 0 → ∃ t, exec (.commitCompletion c) s = .next t ∧
        Ended s t m ⟨St.skipped, r.skipped, 0⟩ ∧ OnlyEnd s { t with red := s.red, fab := s.fab } c)) ∧
    (s.commitDone m = false → exec (.commitCompletion c) s = .next s))

/-! ### The fabric -/

/-- Routing banks (R439, R443, R446): ROUTE_LOAD takes a bank to LOADING, and is refused while the bank is in use or locked;
the image that passes its check is copied and the bank is STANDBY, one that fails leaves it EMPTY, unless another load of it
waits (log entry 105). A switch makes its bank ACTIVE and retires the other; it locks its bank at the lock point, or vetoes
and is late; a veto of its job ends it; a RETIRING bank with nothing in flight is IDLE and its switch ends. That a refusal of
an ACTIVE or RETIRING bank shows no holder (log entry 42), and for how long and for which switch a veto is remembered (log
entry 87), are the model's choices. -/
def Obligations.RoutingBanksLoadAndSwitch : Prop :=
  (∀ (c : CmdId) (m : Cmd) (s : State), s.Runs c 0x90 m →
    let b := m.bits 6 0 0
    (∀ st, s.routeArg m = .error st → ∃ t, exec (.routeLoad c) s = .next t ∧ Refused s t (m.begun s) st ∧ OnlyEnd s t c) ∧
    (∀ x, s.routeArg m = .ok x → s.bankState b = Bank.active ∨ s.bankState b = Bank.retiring →
      ∃ t, exec (.routeLoad c) s = .next t ∧ Refused s t (m.begun s) (heldBy 0x60 noHolder) ∧ OnlyEnd s t c) ∧
    (∀ x, s.routeArg m = .ok x → s.bankState b ≠ Bank.active → s.bankState b ≠ Bank.retiring → s.bankLocked b = true →
      ∃ t, exec (.routeLoad c) s = .next t ∧ Refused s t (m.begun s) (heldBy 0x60 (s.lockRing b)) ∧ OnlyEnd s t c) ∧
    (∀ x, s.routeArg m = .ok x → s.bankState b ≠ Bank.active → s.bankState b ≠ Bank.retiring → s.bankLocked b = false →
      ∃ t, exec (.routeLoad c) s = .next t ∧ t.findCmd c = some (m.begun s) ∧ t.bankState b = Bank.loading ∧
        t.bankState (1 - b) = s.bankState (1 - b) ∧ t.fab = s.fab ∧ ∀ o, o ≠ (F.rtBank b).off → t.reg o = s.reg o)) ∧
  (∀ (b : Nat) (m : Cmd) (x : Tensor) (s : State), b < 2 → s.fab.banks.length = 2 → s.bankState b = Bank.loading →
    let loads := fun (o : Cmd) => o.opcode == 0x90 && o.phase == .running && o.bits 6 0 0 == b
    s.cmds.find? loads = some m → s.findCmd m.id = some m → s.routeArg m = .ok x → s.CanEnd m.id →
    let next := fun (st : Nat) => if s.cmds.any (fun o => loads o && decide (o.id ≠ m.id)) then Bank.loading else st
    let cs := x.run 0 x.count
    let bs := cs.flatMap fun e => leBytes 4 (s.elemBits x e)
    let n := 8768 + 8 * ofLe ((bs.drop 4).take 4)
    (s.touchElems x cs).1.trap = none →
    (imageOk bs = true → s.clearOf m.id (s.bankRegion b) n →
      ∃ t, exec (.routeBankLoaded b) s = .next t ∧ LedgerEnd s t m okStatus ∧ t.bankState b = next Bank.standby ∧
        t.fab.banks.getD b [] = bs.take 8768 ∧ t.fab.banks.getD (1 - b) [] = s.fab.banks.getD (1 - b) [] ∧
        t.bytes 3 (s.bankRegion b) n = bs.take n) ∧
    (imageOk bs = false → ∃ t, exec (.routeBankLoaded b) s = .next t ∧ LedgerEnd s t m (badDesc x.at_) ∧
      t.bankState b = next Bank.empty ∧ t.fab = s.fab)) ∧
  (∀ (c : CmdId) (m : Cmd) (s : State), s.runnable c 0x91 = some m → m.sched = true →
    (s.routeVetoed m = false → s.trap = none → exec (.routeSwitch c) s = .next (s.arm c)) ∧
    (∀ at_, m.job ≠ 0 → (m.job, m.bits 4 0 0, at_) ∈ s.fab.vetoes → at_ < m.t → m.t ≤ at_ + maxLead → s.CanEnd c →
      ∃ t, exec (.routeSwitch c) s = .next t ∧ Refused s t m s.late ∧ OnlyEnd s t c)) ∧
  (∀ (c : CmdId) (m : Cmd) (s : State), s.Runs c 0x91 m → m.sched = false →
    let b := m.bits 4 0 0
    (s.bankState b ≠ Bank.standby → ∃ t, exec (.routeSwitch c) s = .next t ∧ Refused s t m s.late ∧ OnlyEnd s t c) ∧
    (s.bankState b = Bank.standby → ∃ t, exec (.routeSwitch c) s = .next t ∧ t.bankState b = Bank.active ∧
      t.fld F.rtActive = b ∧ t.fab.locks = s.fab.locks.set b false ∧ t.fld F.rtLock = ((s.fab.locks.set b false).any id).toNat ∧
      (s.bankState (1 - b) = Bank.active → t.bankState (1 - b) = Bank.retiring ∧ t.findCmd c = some (m.begun s)) ∧
      (s.bankState (1 - b) ≠ Bank.active → s.bankState (1 - b) ≠ Bank.retiring →
        t.bankState (1 - b) = s.bankState (1 - b) ∧ Ended s t (m.begun s) okStatus ∧ OnlyEnd s t c [F.rtLock.off]))) ∧
  (∀ (c : CmdId) (m : Cmd) (s : State), s.findCmd c = some m → m.opcode = 0x91 → m.phase = .armed → m.aux = [] →
    let b := m.bits 4 0 0
    (s.tb.stime + s.routeLead < m.t → s.trap = none → exec (.routeSwitchLockPoint c) s = .next s) ∧
    (m.t ≤ s.tb.stime + s.routeLead → s.bankState b = Bank.standby → s.trap = none →
      exec (.routeSwitchLockPoint c) s = .next ((s.setLock b true).mapCmd c fun m => { m with aux := [1] })) ∧
    (m.t ≤ s.tb.stime + s.routeLead → s.bankState b ≠ Bank.standby → m.job = 0 → s.trap = none →
      exec (.routeSwitchLockPoint c) s = .next (s.mapCmd c fun m => { m with aux := [2] })) ∧
    (m.t ≤ s.tb.stime + s.routeLead → s.bankState b ≠ Bank.standby → m.job ≠ 0 → s.CanEnd c →
      ∃ t, exec (.routeSwitchLockPoint c) s = .next t ∧ Ended s t m s.late ∧
        OnlyEnd s { t with fab := s.fab } c ∧ (m.job, b, s.tb.stime) ∈ t.fab.vetoes ∧
        (s.noticeRoom = true → Flooded s t (withCrc (s.noticePkt 4 0 m.job b 0)) s.usablePorts))) ∧
  (∀ (p : Pkt) (inPort : Option Nat) (w0 w1 w2 w3 : W) (s : State), p.body = .notice w0 w1 w2 w3 → p.job ≠ 0 →
    (∀ q ∈ s.fab.seen, s.tb.stime < q.2.2 + 1000000 → q.1 = p.src → q.2.1 ≠ p.seq) →
    let named := s.cmds.filter fun m => m.opcode == 0x91 && m.phase == .armed && m.job == p.job && m.bits 4 0 0 == bits w1 0 0
    (∀ m, named = [m] → s.findCmd m.id = some m → s.CanEnd m.id →
      ∃ t, exec (.routeVetoNotice p inPort) s = .next t ∧ Ended s t m s.late ∧ OnlyEnd s { t with fab := s.fab } m.id ∧
        let locks := if m.aux = [1] then s.fab.locks.set (m.bits 4 0 0) false else s.fab.locks
        t.fab.locks = locks ∧ t.fld F.rtLock = if m.aux = [1] then (locks.any id).toNat else s.fld F.rtLock) ∧
    (named = [] → (∃ o ∈ s.cmds, o.job = p.job) → s.trap = none →
      ∃ t, exec (.routeVetoNotice p inPort) s = .next t ∧ t.cmds = s.cmds ∧ t.regs = s.regs ∧
        (p.job, bits w1 0 0, s.tb.stime) ∈ t.fab.vetoes)) ∧
  (∀ (b : Nat) (s : State), b < 2 →
    (s.bankState b ≠ Bank.retiring ∨ s.inflight b ≠ 0 → s.trap = none → exec (.routeBankIdle b) s = .next s) ∧
    (∀ m, s.bankState b = Bank.retiring → s.inflight b = 0 →
      s.cmds.filter (fun m => m.opcode == 0x91 && m.phase == .running && m.bits 4 0 0 == 1 - b) = [m] →
      s.findCmd m.id = some m → s.CanEnd m.id →
      ∃ t, exec (.routeBankIdle b) s = .next t ∧ Ended s t m okStatus ∧ t.bankState b = Bank.idle ∧
        OnlyEnd s t m.id [(F.rtBank b).off]))

/-- QUENCH (R456 to R458) with nothing waiting to be injected sets or ends the quench of its scope, tells the other packages
of scopes 1 and 2, and ends with OK; scope 3 is refused. A quench notice does the same here: of system scope in every package,
of a job where the package holds a command of that job. For how long a notice is remembered is the model's choice (log entry
33). -/
def Obligations.QuenchHoldsItsScope : Prop :=
  (∀ (c : CmdId) (m : Cmd) (s : State), s.Runs c 0x92 m → s.fab.outq = [] → (∀ o ∈ s.cmds, o.opcode ≠ 0x93 ∧ o.ops = []) →
    let job := m.bits 4 15 0
    ∃ t, exec (.quench c) s = .next t ∧
      (m.bits 4 17 16 = 3 → Refused s t (m.begun s) (oor 4) ∧ OnlyEnd s t c) ∧
      (m.bits 4 17 16 ≠ 3 → Ended s t (m.begun s) okStatus ∧ t.cmds = s.cmds.filter fun o => decide (o.id ≠ c)) ∧
      (m.bits 4 17 16 = 0 → m.bits 4 31 31 = 0 → t.fab.quench0 = true ∧ t.flag F.quenchPackage = true) ∧
      (m.bits 4 17 16 = 0 → m.bits 4 31 31 = 1 → t.fab.quench0 = false ∧ t.flag F.quenchPackage = s.fab.quench2 ∧
        t.flag F.quenchOverflow = false) ∧
      (m.bits 4 17 16 = 1 → m.bits 4 31 31 = 0 → s.quenchedJobs.length < 16 → job ∈ t.quenchedJobs) ∧
      (m.bits 4 17 16 = 1 → m.bits 4 31 31 = 1 → s.quenchedJobs.length ≤ 16 → t.quenchedJobs = s.quenchedJobs.filter fun j => decide (j ≠ job)) ∧
      (m.bits 4 17 16 = 2 → t.fab.quench2 = decide (m.bits 4 31 31 = 0)) ∧
      (m.bits 4 17 16 = 1 ∨ m.bits 4 17 16 = 2 → s.noticeRoom = true → Flooded s t (withCrc (s.noticePkt 6 (1 - m.bits 4 31 31) (if m.bits 4 17 16 = 1 then job else 0) (m.bits 4 17 16) 0)) s.usablePorts)) ∧
  (∀ (p : Pkt) (inPort : Option Nat) (w0 w1 w2 w3 : W) (s : State), p.body = .notice w0 w1 w2 w3 → s.trap = none →
    s.fab.outq = [] → (∀ o ∈ s.cmds, o.opcode ≠ 0x93 ∧ o.ops = []) → s.quenchedJobs.length < 16 →
    (∀ q ∈ s.fab.seen, s.tb.stime < q.2.2 + 1000000 → q.1 = p.src → q.2.1 ≠ p.seq) →
    ∃ t, exec (.quenchNotice p inPort) s = .next t ∧ t.cmds = s.cmds ∧ t.mem = s.mem ∧ t.fab.quench0 = s.fab.quench0 ∧
      (bits w1 1 0 = 2 → t.fab.quench2 = decide (bits w0 27 24 ≠ 0)) ∧
      (bits w1 1 0 = 1 → (∃ o ∈ s.cmds, o.job = p.job) → bits w0 27 24 = 0 →
        t.quenchedJobs = s.quenchedJobs.filter fun j => decide (j ≠ p.job)) ∧
      (bits w1 1 0 = 1 → (∃ o ∈ s.cmds, o.job = p.job) → bits w0 27 24 ≠ 0 → p.job < 2 ^ 16 →
        p.job ∈ t.quenchedJobs) ∧
      (bits w1 1 0 = 1 → (∀ o ∈ s.cmds, o.job ≠ p.job) → t.regs = s.regs) ∧
      Flooded s t { p with hops := p.hops + 1 } (s.usablePorts.filter fun q => decide (some q ≠ inPort)))

/-- Transfers (R452): a send asks; the request meets its receive, which answers "go" or ends with the difference, or is held,
or is answered "busy" and repeated after 10 µs; "go" sends the elements, then the scales of an MXFP4 tensor, as one stream in
packets of 2,048 bytes (log entry 43), the last one fenced; the first packet to come of a tensor of another format is written
in place element by element, and ends the receive with OK where it is the only one; one that has come before changes nothing.
Congestion maps (R459, R460): a window ends once the time of FAB.CMAP_CFG has passed, and keeps for each port what it sent and
received, how long packets of each class waited for its credit, the peak of its pool and its via routes, which then count
anew; CMAP_READ writes this package's map to its tensor, word by word, and ends with OK, or asks another package for its own;
a request is answered with the map; the answer is written as the own map is. -/
def Obligations.TransfersAndCongestionMaps : Prop :=
  ((∀ (c : CmdId) (m : Cmd) (s : State), s.Runs c 0x93 m →
      (∀ st, s.tensorArg m 4 = .error st → ∃ t, exec (.xferSend c) s = .next t ∧ Refused s t (m.begun s) st ∧ OnlyEnd s t c) ∧
      (∀ x, s.tensorArg m 4 = .ok x → ∃ t, exec (.xferSend c) s = .next t ∧ t.findCmd c = some { m.begun s with aux := [0] } ∧
        t.regs = s.regs ∧ t.fab = { s.fab with outq := s.fab.outq ++ [s.xferPkt m.sender .request 2 (m.bits 6 31 16) 16 false
          (.xferReq (m.words.getD 7 0) x.fmt (xferLen x))] })) ∧
    (∀ (c : CmdId) (m : Cmd) (x : Tensor) (s : State), s.Runs c 0x94 m → s.tensorArg m 4 = .ok x →
      let src := m.bits 6 31 16
      let tag := m.words.getD 7 0
      ((∃ o ∈ s.cmds, o.order < m.order ∧ o.receives src tag = true) →
        ∃ t, exec (.xferRecv c) s = .next t ∧ Refused s t (m.begun s) (oor 7) ∧ OnlyEnd s t c) ∧
      ((∀ o ∈ s.cmds, o.order < m.order → o.receives src tag = false) →
        ((∀ q ∈ s.fab.held, q.src = src → q.tag ≠ tag) →
          ∃ t, exec (.xferRecv c) s = .next t ∧ t.findCmd c = some { m.begun s with aux := [0] } ∧ t.fab = s.fab ∧
            t.regs = s.regs) ∧
        (∀ h, s.fab.held.find? (fun q => q.src == src && q.tag == tag) = some h → h.fmt = x.fmt → h.bytes = xferLen x →
          0 < xferLen x →
          ∃ t, exec (.xferRecv c) s = .next t ∧ t.findCmd c = some { m.begun s with aux := [1] } ∧ t.regs = s.regs ∧
            t.fab = { s.fab with held := s.fab.held.erase h, outq := s.fab.outq ++ [s.xferPkt ⟨h.job, ⟨h.ring, h.seq⟩⟩
              .response 3 src 16 false (.xferReply tag .go)] }))) ∧
    (∀ (p : Pkt) (tag : W) (fmt n : Nat) (s : State), p.body = .xferReq tag fmt n →
      let reply := fun v => s.xferPkt ⟨p.job, ⟨p.ring, p.seq⟩⟩ .response 3 p.src 16 false (.xferReply tag v)
      let mine := fun (m : Cmd) => m.receives p.src tag && m.phase == .running && m.aux == [0]
      let box := (s.unbox p).fab
      (s.trap = none → (∀ m ∈ s.cmds, mine m = false) →
        (s.fab.held.length < 256 → exec (.xferRequestPacket p) s = .next { s with fab := { box with held := s.fab.held ++
          [{ src := p.src, tag := tag, fmt := fmt, bytes := n, ring := p.ring, seq := p.seq, job := p.job }] } }) ∧
        (256 ≤ s.fab.held.length →
          exec (.xferRequestPacket p) s = .next { s with fab := { box with outq := s.fab.outq ++ [reply .busy] } })) ∧
      (∀ m x, s.cmds.find? mine = some m → s.findCmd m.id = some m → s.tensorArg m 4 = .ok x → s.CanEnd m.id →
        (fmt = x.fmt → n = xferLen x → 0 < n → exec (.xferRequestPacket p) s = .next
          { s.mapCmd m.id (fun m => { m with aux := [1] }) with fab := { box with outq := s.fab.outq ++ [reply .go] } }) ∧
        (fmt ≠ x.fmt → ∃ t, exec (.xferRequestPacket p) s = .next t ∧ Ended s t m (badFormat 4 x.fmt) ∧
          t.fab = { box with outq := s.fab.outq ++ [reply .formatDiffers] } ∧ OnlyEnd s { t with fab := s.fab } m.id) ∧
        (fmt = x.fmt → n ≠ xferLen x → ∃ t, exec (.xferRequestPacket p) s = .next t ∧ Ended s t m (oor 4) ∧
          t.fab = { box with outq := s.fab.outq ++ [reply .countDiffers] } ∧ OnlyEnd s { t with fab := s.fab } m.id))) ∧
    (∀ (p : Pkt) (tag : W) (v : XVerdict) (m : Cmd) (x : Tensor) (s : State), p.body = .xferReply tag v →
      s.findCmd ⟨p.ring, p.seq⟩ = some m → m.opcode = 0x93 → m.phase = .running → m.aux = [0] → s.tensorArg m 4 = .ok x →
      s.CanEnd m.id →
      (v = .busy → exec (.xferReplyPacket p) s = .next
        ((s.unbox p).mapCmd m.id fun m => { m with aux := [1, s.tb.stime] })) ∧
      (v = .formatDiffers → ∃ t, exec (.xferReplyPacket p) s = .next t ∧ Ended s t m (badFormat 4 x.fmt) ∧
        OnlyEnd s { t with fab := s.fab } m.id) ∧
      (v = .countDiffers → ∃ t, exec (.xferReplyPacket p) s = .next t ∧ Ended s t m (oor 4) ∧
        OnlyEnd s { t with fab := s.fab } m.id) ∧
      (v = .go → (s.touchElems x (x.run 0 x.count)).1.trap = none →
        let bs := s.elemStream x 0 x.count ++ s.scaleStream x
        let n := upDiv bs.length 2048
        0 < bs.length →
        ∃ t, exec (.xferReplyPacket p) s = .next t ∧ t.findCmd m.id = some { m with aux := [2, 0, n] } ∧ t.mem = s.mem ∧
          t.fab.outq = s.fab.outq ++ (List.range n).map fun i =>
            let part := (bs.drop (2048 * i)).take 2048
            s.xferPkt m.sender .write 3 (m.bits 6 31 16) part.length (i + 1 == n) (.xferData (m.words.getD 7 0) (2048 * i) part))) ∧
    (∀ (c : CmdId) (m : Cmd) (x : Tensor) (at_ : Nat) (s : State), s.findCmd c = some m → m.opcode = 0x93 → m.phase = .running →
      m.aux = [1, at_] → s.tensorArg m 4 = .ok x → s.trap = none →
      (s.tb.stime < at_ + 10000 → exec (.xferBusyRetry c) s = .next s) ∧
      (at_ + 10000 ≤ s.tb.stime → exec (.xferBusyRetry c) s = .next
        { s.mapCmd c (fun m => { m with aux := [0] }) with fab := { s.fab with outq := s.fab.outq ++ [s.xferPkt m.sender .request 2
          (m.bits 6 31 16) 16 false (.xferReq (m.words.getD 7 0) x.fmt (xferLen x))] } })) ∧
    (∀ (p : Pkt) (tag : W) (off : Nat) (bs : List Byte) (m : Cmd) (x : Tensor) (s : State), p.body = .xferData tag off bs →
      s.cmds.find? (fun m => m.receives p.src tag && m.phase == .running && m.aux.getD 0 0 == 1) = some m →
      s.findCmd m.id = some m → s.tensorArg m 4 = .ok x → s.CanEnd m.id →
      (off ∈ m.aux.drop 1 → exec (.xferWritePacket p) s = .next (s.unbox p)) ∧
      (isMx x.fmt = false → m.aux = [1] → off + bs.length ≤ x.byteCount → s.apart m.id x → s.plain x → x.tier < 4 →
        let b := Fp.width x.fmt / 8
        x.byteCount = b * x.count → 0 < b → off % b = 0 → bs.length % b = 0 → 0 < bs.length →
        ∃ t, exec (.xferWritePacket p) s = .next t ∧
          (∀ j, j < bs.length / b → t.elemBits x (x.coord (off / b + j)) = ofLe ((bs.drop (b * j)).take b)) ∧
          (upDiv x.byteCount 2048 = 1 → LedgerEnd s t m okStatus) ∧
          (upDiv x.byteCount 2048 ≠ 1 → ∃ q, t.findCmd m.id = some q ∧ q.aux = [1, off] ∧ q.phase = .running) ∧
          s.restKept t m.id x))) ∧
  ((∀ (sight : RouteSight) (s : State), s.trap = none → s.fab.ports.length = 48 → (∀ x ∈ s.fab.ports, x.wait.length = 4) →
      (s.tb.stime < s.fab.cmapAt + 1000 * max 1 (s.fld F.cmapWindow) → exec (.cmapWindow sight) s = .next s) ∧
      (s.fab.cmapAt + 1000 * max 1 (s.fld F.cmapWindow) ≤ s.tb.stime →
        ∃ t, exec (.cmapWindow sight) s = .next t ∧ { t with fab := s.fab } = s ∧ t.fab.cmapAt = s.tb.stime ∧
          t.fab.cmapLen = max 1 (s.fld F.cmapWindow) ∧ t.fab.cmap.length = 48 ∧
          t.fab.waits = s.fab.waits.map (fun w => (w.1, w.2.1, s.tb.stime)) ∧
          ∀ q, q < 48 →
            let x := s.portX q
            let waited := fun (k : Nat) => ((s.fab.waits.filter fun w => w.1 == q && w.2.1 == k).map fun w => s.tb.stime - w.2.2).sum
            t.fab.cmap[q]? = some { state := s.fld (F.portState q), sentKiB := x.sent / 1024, recvKiB := x.recv / 1024, peak := x.peak,
                                    vias := x.vias, wait := (List.range 4).map fun k => x.wait.getD k 0 + waited k } ∧
            t.portX q = { x with sent := 0, recv := 0, vias := 0, wait := [0, 0, 0, 0], peak := s.poolNow q })) ∧
    (∀ (i : Instr) (c : CmdId) (m : Cmd) (x : Tensor) (bs : List Byte) (s : State), s.findCmd c = some m → s.CanEnd c →
      (i = .cmapRead c ∧ s.runnable c 0x95 = some m ∧ m.bits 4 15 0 = s.pkg ∧ bs = s.cmapBytes) ∨
        (∃ p, i = .cmapResponsePacket p ∧ c = ⟨p.ring, p.seq⟩ ∧ p.body = .cmapResp bs ∧ m.opcode = 0x95 ∧ m.phase = .running ∧
          m.start ≠ 0 ∧ m.bits 4 15 0 = p.src ∧ bs.length = 1600) →
      s.cmapArg m = .ok x → s.apart c x → s.plain x → x.tier < 4 →
      ∃ t, exec i s = .next t ∧ LedgerEnd s t (m.begun s) okStatus ∧
        (∀ j, j < 400 → t.elemBits x [j] = ofLe ((bs.drop (4 * j)).take 4)) ∧ s.restKept t c x) ∧
    (∀ (c : CmdId) (m : Cmd) (x : Tensor) (s : State), s.Runs c 0x95 m → s.cmapArg m = .ok x → m.bits 4 15 0 ≠ s.pkg →
      ∃ t, exec (.cmapRead c) s = .next t ∧ t.findCmd c = some (m.begun s) ∧ t.regs = s.regs ∧
        t.fab = { s.fab with outq := s.fab.outq ++
          [{ s.xferPkt m.sender .request 2 (m.bits 4 15 0) 0 false .cmapReq with sink := 6 }] }) ∧
    (∀ (c : CmdId) (m : Cmd) (st : Status) (s : State), s.Runs c 0x95 m → s.cmapArg m = .error st →
      ∃ t, exec (.cmapRead c) s = .next t ∧ Refused s t (m.begun s) st ∧ OnlyEnd s t c) ∧
    (∀ (p : Pkt) (s : State), s.trap = none → exec (.cmapRequestPacket p) s = .next
      { s with fab := { (s.unbox p).fab with outq := s.fab.outq ++
        [{ s.xferPkt ⟨p.job, ⟨p.ring, p.seq⟩⟩ .response 3 p.src 1600 false (.cmapResp s.cmapBytes) with sink := 6 }] } }))

/-- A packet at a Landing (R425, R431 to R434, R440 to R445, R447, R459, R461). Credit that the next hops return counts. A
packet that arrives for another package, a WRITE or REQUEST in phase 1, leaves, one hop further, on the usable port of its set
with the most credit on its virtual channel, the lowest of equals, spends its credit, and its own buffer's credit goes back to
the peer; without credit it stays in its input buffer and its wait counts. Of two that wait for one output class 0 goes first,
within a class phase 1, then the earlier one, and among classes 1 to 3 the class whose turn it is, for as many packets as its
weight. With no valid entry or after its last hop a packet is discarded and counted, and its source is told; one beyond the
port's buffers retrains the link. A header that breaks the protocol is discarded, counted and answered; a WRITE for this
package is delivered and owed an acknowledgement, or discarded, counted and answered where its CRC fails. A WRITE injected
here on its one usable port carries the ACTIVE bank as its epoch, its CRC, and awaits its acknowledgement; one for this
package itself is delivered at once. Which class has the first turn (log entry 86), that class 0 needs no bank and an
unroutable packet's notice names a port no rule gives (log entries 104, 42), are the model's choices. -/
def Obligations.PacketsTakeTheirRoute : Prop :=
  (∀ (p : Pkt) (q : Nat) (sight : RouteSight) (s : State), s.LinksIdle → s.trap = none → s.fab.inq = [] → s.fab.outq = [] →
    ∃ t, exec (.packetRoute p (.waits q) sight) s = .next t ∧ { t with fab := s.fab } = s ∧
      { t.fab with credit := s.fab.credit } = s.fab ∧
      ∀ port v, port < 48 → v < 8 →
        let n := sight.returned.getD (8 * port + v) 0
        t.credit port v = ((s.credit port v).1 + n, (s.credit port v).2 - n)) ∧
  (∀ (p : Pkt) (q : Nat) (s : State), q < 48 → s.portUsable q = true → brokenWord p = none → p.phase = 1 →
    p.type = .write ∨ p.type = .request → p.dst < 4096 → p.via < 4096 → p.dst ≠ s.pkg → p.hops < 8 → s.trap = none →
    Bank.standby ≤ s.bankState p.epoch → s.bankState p.epoch ≠ Bank.idle → entryValid (s.uniEntry p.epoch p.dst) = true →
    s.fab.inq = [] → s.fab.outq = [] → s.LinksIdle →
    let ports := (s.setPorts p.epoch (s.uniEntry p.epoch p.dst)).filter s.portUsable
    let credit := fun (r : Nat) => (s.credit r (vc p)).1
    ∀ r ∈ ports, (∀ k ∈ ports, credit k < credit r ∨ credit k = credit r ∧ r ≤ k) →
      ∃ t, exec (.packetRoute p (.arrives q) ⟨[]⟩) s = .next t ∧ { t with fab := s.fab, out := s.out } = s ∧
        t.fab.inbox = s.fab.inbox ∧
        (units p ≤ credit r → t.fab.inq = [] ∧ t.fab.outq = [] ∧ t.fab.waits = [] ∧
          t.credit r (vc p) = ((s.credit r (vc p)).1 - units p, (s.credit r (vc p)).2 + units p) ∧
          (s.withholds q = false →
            t.out = .packet r { p with hops := p.hops + 1 } :: .credit q (vc p) (units p) :: s.out ∧ t.fab.owed = []) ∧
          (s.withholds q = true → t.out = .packet r { p with hops := p.hops + 1 } :: s.out ∧ t.fab.owed = [(q, p)]) ∧
          (q < s.fab.ports.length → q ≠ r → (t.portX q).recv = (s.portX q).recv + 64 + p.len) ∧
          (r < s.fab.ports.length → (t.portX r).sent = (s.portX r).sent + 64 + p.len ∧
            (t.portX r).flits = ((s.portX r).flits + units p) % 4096)) ∧
        (credit r < units p → t.out = s.out ∧ t.fab.inq = [(q, p)] ∧ t.fab.outq = [] ∧ t.fab.credit = s.fab.credit ∧
          t.fab.waits = [(r, p.cls, s.tb.stime)])) ∧
  (∀ (a b : Pkt) (qa qb r : Nat) (s : State), s.fab.inq = [(qa, a), (qb, b)] → s.fab.outq = [] → a ≠ b → s.LinksIdle →
    (∀ x ∈ s.fab.inq, x.2.type ≠ .mcast ∧ x.2.type ≠ .notice ∧ x.2.phase < 2 ∧ x.2.cls < 4 ∧ x.2.hops < 8 ∧ s.withholds x.1 = false ∧
      target (s.turned x.2) ≠ s.pkg ∧ s.bankState x.2.epoch = Bank.active ∧ s.outputs (s.turned x.2) (some x.1) = [r] ∧
      s.portUsable r = true ∧ s.creditFor (s.turned x.2) r = true) → s.trap = none →
    let turn := Tab.get firstTurn s.fab.turns r
    let served := fun (t : State) (x y : Nat × Pkt) =>
      t.out = .packet r { s.turned x.2 with hops := x.2.hops + 1 } :: .credit x.1 (vc x.2) (units x.2) :: s.out ∧ t.fab.inq = [y]
    ∃ t, exec (.packetRoute a (.waits qa) ⟨[]⟩) s = .next t ∧
      (a.cls = b.cls → (s.turned b).phase ≤ (s.turned a).phase → served t (qa, a) (qb, b)) ∧
      (a.cls = b.cls → (s.turned a).phase < (s.turned b).phase → served t (qb, b) (qa, a)) ∧
      (a.cls = 0 → b.cls ≠ 0 → served t (qa, a) (qb, b)) ∧
      (a.cls ≠ 0 → b.cls = 0 → served t (qb, b) (qa, a)) ∧
      (a.cls ≠ 0 → b.cls ≠ 0 → a.cls ≠ b.cls → turn.1 = b.cls → turn.2 ≠ 0 →
        served t (qb, b) (qa, a) ∧ Tab.get firstTurn t.fab.turns r = (b.cls, turn.2 - 1)) ∧
      (a.cls ≠ 0 → b.cls ≠ 0 → a.cls ≠ b.cls → turn = (b.cls, 0) →
        served t (qa, a) (qb, b) ∧ Tab.get firstTurn t.fab.turns r = (a.cls, s.weight a.cls - 1))) ∧
  (∀ (p : Pkt) (q : Nat) (s : State), q < 48 → s.portUsable q = true → brokenWord p = none → p.phase = 1 →
    p.type = .write ∨ p.type = .request → p.dst < 4096 → p.via < 4096 → p.dst ≠ s.pkg → p.hops ≤ 8 → s.trap = none →
    s.hasBuffer q p = true → (q, p) ∉ s.fab.inq → s.LinksIdle → s.withholds q = false →
    entryValid (s.uniEntry p.epoch p.dst) = false ∨ p.hops = 8 ∨ s.bankState p.epoch ≤ Bank.loading →
    ∃ t, exec (.packetRoute p (.arrives q) ⟨[]⟩) s = .next t ∧ t.fld F.unreach = min (s.fld F.unreach + 1) F.unreach.top ∧
      t.out = .credit q (vc p) (units p) :: s.out ∧ t.fab.inbox = s.fab.inbox ∧ t.fab.inq = s.fab.inq ∧ ∃ port, port < 48 ∧
        t.fab.outq = s.fab.outq ++ [{ s.noticePkt 8 0 p.job (p.seq * 2 ^ 16 + p.ring) port with
          dst := p.src, via := p.src, about := some (p.dst, 0) }]) ∧
  (∀ (p : Pkt) (q : Nat) (s : State), q < 48 → s.portUsable q = true → s.Calm → s.LinksIdle →
    ((s.fab.inq.filter fun x => x.1 == q && 2 * x.2.cls + x.2.phase % 2 == p.phase % 2).length = 2 → p.cls = 0 →
      ∃ t, exec (.packetRoute p (.arrives q) ⟨[]⟩) s = .next t ∧ t.fab.inbox = s.fab.inbox ∧ t.fab.inq = s.fab.inq ∧
        t.fab.outq = s.fab.outq ∧ t.fld (F.portRetrain q) = min (s.fld (F.portRetrain q) + 1) (F.portRetrain q).top) ∧
    (∀ k, s.hasBuffer q p = true → brokenWord p = some k →
      ∃ t, exec (.packetRoute p (.arrives q) ⟨[]⟩) s = .next t ∧ t.fab.inbox = s.fab.inbox ∧ t.fab.inq = s.fab.inq ∧
        t.fld F.protoErr = min (s.fld F.protoErr + 1) F.protoErr.top ∧
        t.fab.outq = s.fab.outq ++ [{ s.noticePkt 9 2 p.job (p.seq * 2 ^ 16 + p.ring) q with
          dst := p.src, via := p.src, about := aboutOf p k }]) ∧
    (s.hasBuffer q p = true → brokenWord p = none → p.type = .write → p.phase = 1 → p.dst = s.pkg → p.dst < 4096 →
      p.via < 4096 → p.hops ≤ 8 → (q, p) ∉ s.fab.inq → Bank.standby ≤ s.bankState p.epoch → s.bankState p.epoch ≠ Bank.idle →
      (pktPayload p).length ≤ 2048 →
      (p.crc = pktCrc p → ∃ t, exec (.packetRoute p (.arrives q) ⟨[]⟩) s = .next t ∧ t.fab.inbox = s.fab.inbox ++ [p] ∧
        t.regs = s.regs ∧ t.fab.inq = s.fab.inq ∧
        ((∀ k ∈ s.fab.ackDue, k.1 ≠ p.src) → t.fab.ackDue = s.fab.ackDue ++ [(p.src, 1, s.tb.stime)])) ∧
      (p.crc ≠ pktCrc p → ∃ t, exec (.packetRoute p (.arrives q) ⟨[]⟩) s = .next t ∧ t.fab.inbox = s.fab.inbox ∧
        t.fld F.crcErr = min (s.fld F.crcErr + 1) F.crcErr.top ∧ t.fab.outq = s.fab.outq ++
          [{ s.noticePkt 9 1 p.job (p.seq * 2 ^ 16 + p.ring) q with dst := p.src, via := p.src, about := some (p.dst, 0) }]))) ∧
  (∀ (p : Pkt) (landing : Nat) (s : State), s.fab.outq = [p] → s.fab.inq = [] → s.trap = none → s.LinksIdle →
    p.type = .write → p.cls = 3 → p.fence = false → s.quenches p = false → s.routable = true → s.flag F.adaptive = false →
    s.quenchedSender p = none → p.hops = 0 →
    let b := s.fld F.rtActive
    let sent := fun (hops : Nat) => { withCrc { p with epoch := b } with phase := 1, via := p.dst, hops := hops }
    let owed : Unacked := { dst := p.dst, cmd := ⟨p.ring, p.seq⟩ }
    (∀ r, p.dst ≠ s.pkg → entryValid (s.uniEntry b p.dst) = true → (s.setPorts b (s.uniEntry b p.dst)).filter s.portUsable = [r] →
      units p ≤ (s.credit r 7).1 →
      ∃ t, exec (.packetRoute p (.injected landing) ⟨[]⟩) s = .next t ∧ t.out = .packet r (sent 1) :: s.out ∧ t.fab.outq = [] ∧
        t.fab.unacked = s.fab.unacked ++ [owed] ∧ { t with fab := s.fab, out := s.out } = s) ∧
    (p.dst = s.pkg → (pktPayload p).length ≤ 2048 →
      ∃ t, exec (.packetRoute p (.injected landing) ⟨[]⟩) s = .next t ∧ t.fab.outq = [] ∧
        t.fab.inbox = s.fab.inbox ++ [sent 0] ∧ t.fab.unacked = s.fab.unacked ++ [owed] ∧ t.regs = s.regs ∧ t.out = s.out ∧
        ((∀ k ∈ s.fab.ackDue, k.1 ≠ p.src) → t.fab.ackDue = s.fab.ackDue ++ [(p.src, 1, s.tb.stime)])))

/-- Acknowledgements and the notices that answer packets (R442, R447, R448, R451, R461): the timer sends the count owed to a
source; an ACK's packets are acknowledged no more, and the last one ends its send with OK; a prune notice's package and port
count once for their command; an unreachable notice ends the command it names with UNREACHABLE, and a delivery error with
UNCORRECTABLE or BAD_RESERVED, naming the packet's destination or the header word; one about an answer ends nothing. That the
notice's packet carries these two (log entry 78), and that the packets to a destination are acknowledged in the order they
were sent (log entry 41), are the model's reading. -/
def Obligations.FabricAnswersReachTheirCommand : Prop :=
  (∀ (dst n at_ : Nat) (s : State), s.trap = none → s.fab.ackDue.find? (fun q => q.1 == dst) = some (dst, n, at_) →
    exec (.ackTimer dst) s = .next { s with fab := { s.fab with
      ackDue := s.fab.ackDue.filter fun q => q.1 != dst
      outq := s.fab.outq ++ [{ type := .ack, cls := 3, len := 0, dst := dst, src := s.pkg, via := dst, sink := 5, body := .ack n }] } }) ∧
  (∀ (dst : Nat) (s : State), s.trap = none → (∀ q ∈ s.fab.ackDue, q.1 ≠ dst) → exec (.ackTimer dst) s = .next s) ∧
  (∀ (p : Pkt) (n : Nat) (m : Cmd) (s : State), p.body = .ack n →
    s.cmds.filter (fun m => m.opcode == 0x93 && m.phase == .running && m.aux.getD 0 0 == 2 && m.bits 6 31 16 == p.src) = [m] →
    s.findCmd m.id = some m → s.CanEnd m.id → (∀ q ∈ s.fab.outq, q.ring = m.id.ring → q.seq ≠ m.id.seq) →
    let left := dropSent p.src n s.fab.unacked
    let mine := (left.filter fun q => decide (q.2 = m.id)).length
    ∃ t, exec (.ackPacket p) s = .next t ∧ t.fab = { (s.unbox p).fab with unacked := left } ∧
      (mine = 0 → Ended s t m okStatus ∧ OnlyEnd s { t with fab := s.fab } m.id) ∧
      (mine ≠ 0 → { t with fab := s.fab, cmds := s.cmds } = s ∧ t.findCmd m.id =
        some { m with done := max m.done (min ((m.aux.getD 2 0 - mine) / 32) m.total) })) ∧
  (∀ (p : Pkt) (w0 w1 w2 w3 : W) (s : State), p.body = .notice w0 w1 w2 w3 → s.trap = none →
    let c : CmdId := ⟨bits w1 11 0, bits w1 31 16⟩
    let k := (c, bits w2 31 16, bits w2 15 0)
    ((s.findCmd c).isSome = true → k ∉ s.fab.prunes → exec (.pruneNotice p) s = .next
      { s with fab := { (s.unbox p).fab with prunes := s.fab.prunes ++ [k] } }) ∧
    (s.findCmd c = none ∨ k ∈ s.fab.prunes → exec (.pruneNotice p) s = .next (s.unbox p))) ∧
  (∀ (p : Pkt) (w0 w1 w2 w3 : W) (m : Cmd) (s : State), p.body = .notice w0 w1 w2 w3 →
    let c : CmdId := ⟨bits w1 11 0, bits w1 31 16⟩
    s.findCmd c = some m → m.job = p.job → m.ops = [] → unsentSteps m = [] → s.CanEnd c → s.ck.stream = none →
    (∀ a ∈ s.red.applies, a.cmd.id ≠ c) →
    (∀ dst word, p.about = some (dst, word) →
      (∃ t, exec (.unreachableNotice p) s = .next t ∧ Ended s t m ⟨St.unreachable, dst, bits w2 15 0⟩ ∧
        OnlyEnd s { t with fab := s.fab } c) ∧
      (bits w0 27 24 = 1 → ∃ t, exec (.deliveryErrorNotice p) s = .next t ∧ Ended s t m ⟨St.uncorrectable, 0x70000000, dst⟩ ∧
        OnlyEnd s { t with fab := s.fab } c) ∧
      (bits w0 27 24 ≠ 1 → ∃ t, exec (.deliveryErrorNotice p) s = .next t ∧ Ended s t m ⟨St.badReserved, 0x100 + word, 0⟩ ∧
        OnlyEnd s { t with fab := s.fab } c)) ∧
    (p.about = none → exec (.unreachableNotice p) s = .next (s.unbox p) ∧ exec (.deliveryErrorNotice p) s = .next (s.unbox p)))

/-! ### Checkpoints -/

/-- Buddies and plans (R519, R521): BUDDY_SET asks the named package, which answers with its ward and power domain; with no
override asked for, the answer assigns the buddy where its ward is this package and the domains are known and differ, and ends
with OUT_OF_RANGE otherwise; CKPT_PLAN keeps its plan. Each is refused while a stream or a restore runs, after its other
checks. -/
def Obligations.BuddiesAndPlansAreSet : Prop :=
  (∀ (c : CmdId) (m : Cmd) (s : State), s.Runs c 0x70 m →
    let dst := m.bits 4 15 0
    (dst = s.pkg → s.ck.asking ≠ some c → ∃ t, exec (.buddySet c) s = .next t ∧ Refused s t (m.begun s) (oor 4) ∧ OnlyEnd s t c) ∧
    (dst ≠ s.pkg → s.ck.asking ≠ none → exec (.buddySet c) s = .next s) ∧
    (dst ≠ s.pkg → s.ck.asking = none → ∃ t, exec (.buddySet c) s = .next t ∧ t.findCmd c = some (m.begun s) ∧
      t.ck = { s.ck with asking := some c } ∧ t.regs = s.regs ∧ t.fab = { s.fab with outq := s.fab.outq ++
        [s.xferPkt m.sender .request 2 dst 0 false .buddyQuery] })) ∧
  (∀ (p : Pkt) (s : State), s.trap = none → exec (.buddyQueryRequest p) s = .next
    { s with fab := { (s.unbox p).fab with outq := s.fab.outq ++ [s.xferPkt ⟨p.job, ⟨p.ring, p.seq⟩⟩ .response 3 p.src 16 false
      (.buddyAnswer (s.fld F.ward) (s.fld F.pdom))] } }) ∧
  (∀ (p : Pkt) (ward pdom : Nat) (m : Cmd) (s : State), p.body = .buddyAnswer ward pdom → p.src < 2 ^ 16 →
    let c : CmdId := ⟨p.ring, p.seq⟩
    s.findCmd c = some m → s.ck.asking = some c → m.bits 4 15 0 = p.src → s.CanEnd c →
    let own := s.fld F.pdom
    (ward ≠ s.pkg ∨ (m.bits 4 31 31 = 0 ∧ (own = pdom ∨ own = 0xFFFF ∨ pdom = 0xFFFF)) →
      ∃ t, exec (.buddyQueryResponse p) s = .next t ∧ Ended s t m (oor 4) ∧ OnlyEnd s { t with fab := s.fab } c ∧
        t.ck.asking = none) ∧
    (∀ st, ward = s.pkg → m.bits 4 31 31 = 1 ∨ (own ≠ pdom ∧ own ≠ 0xFFFF ∧ pdom ≠ 0xFFFF) → s.ckBusy = some st →
      ∃ t, exec (.buddyQueryResponse p) s = .next t ∧ Ended s t m st ∧ OnlyEnd s { t with fab := s.fab } c ∧ t.ck.asking = none) ∧
    (ward = s.pkg → m.bits 4 31 31 = 0 → own ≠ pdom → own ≠ 0xFFFF → pdom ≠ 0xFFFF → s.ckBusy = none →
      ∃ t, exec (.buddyQueryResponse p) s = .next t ∧ Ended s t m okStatus ∧ t.fld F.buddy = p.src ∧
        t.flag F.buddyValid = true ∧ t.flag F.buddyOverride = false ∧
        (s.flag F.buddyValid = false ∨ s.fld F.buddy ≠ p.src → t.flag F.fullNext = true) ∧
        (s.flag F.buddyValid = true → s.fld F.buddy = p.src → t.flag F.fullNext = s.flag F.fullNext) ∧
        OnlyEnd s { t with fab := s.fab } c [F.buddy.off, F.fullNext.off])) ∧
  (∀ (c : CmdId) (m : Cmd) (s : State), s.Runs c 0x71 m →
    (∀ st, s.planArg m = .error st ∨ ((∃ p, s.planArg m = .ok p) ∧ s.ckBusy = some st) →
      ∃ t, exec (.ckptPlan c) s = .next t ∧ Refused s t (m.begun s) st ∧ OnlyEnd s t c ∧ t.ck.plan = s.ck.plan) ∧
    (∀ p, s.planArg m = .ok p → s.ckBusy = none →
      ∃ t, exec (.ckptPlan c) s = .next t ∧ Ended s t (m.begun s) okStatus ∧ t.ck.plan = some p ∧ OnlyEnd s t c))

/-- A stream (R522, R523, R526) of a plan that names no table: CKPT_START begins one with all its segments to send, or is
refused. Each step sends the next segment of the boundary or of a shard with its bytes and notes its digest, and at the end
the manifest. The buddy writes a payload to free space of its image region, or names the equal one that it holds, or answers
that it has no room; it commits the generation whose payloads it holds, its manifest written to the slot of gen mod 3, keeping
the one before; its answer ends the stream at the ward with OK. Where the three manifest slots lie and how long they are is
the model's choice (log entry 89). -/
def Obligations.CheckpointStreamsReachTheBuddy : Prop :=
  (∀ (c : CmdId) (m : Cmd) (s : State), s.Runs c 0x72 m →
    (s.bndBase ≠ 0 → s.clearOf c (s.bndSlot 0) 12 ∧ s.clearOf c (s.bndSlot 1) 12) →
    (s.streamReady = none → ∃ t, exec (.ckptStart c) s = .next t ∧ Refused s t (m.begun s) (oor 4) ∧ OnlyEnd s t c) ∧
    (∀ p i, s.streamReady = some (p, i) → p.handles = [] →
      let step := s.bndHead i 1
      let full := decide (m.bits 4 0 0 = 1) || s.flag F.fullNext
      (m.word 5 ≠ step → m.word 5 ≠ 0xFFFFFFFF →
        ∃ t, exec (.ckptStart c) s = .next t ∧ Refused s t (m.begun s) s.late ∧ OnlyEnd s t c) ∧
      (∀ st, m.word 5 = step ∨ m.word 5 = 0xFFFFFFFF → s.ckBusy = some st →
        ∃ t, exec (.ckptStart c) s = .next t ∧ Refused s t (m.begun s) st ∧ OnlyEnd s t c) ∧
      (m.word 5 = step ∨ m.word 5 = 0xFFFFFFFF → s.ckBusy = none →
        ∃ t k, exec (.ckptStart c) s = .next t ∧ t.ck.stream = some k ∧ k.cmd = some c ∧ k.step = step ∧ k.full = full ∧
          k.stime = s.tb.stime ∧ k.todo = s.streamSegs p full ∧ k.sent = [] ∧ k.closed = false ∧
          t.flag F.ckptActive = true ∧ t.findCmd c = some (m.begun s)))) ∧
  (∀ (k : CkStream) (p : CkPlan) (g : CkSeg) (rest : List CkSeg) (s : State), s.ck.stream = some k → s.ck.plan = some p →
    k.closed = false → k.todo = g :: rest → k.got = [] → g.type = 1 ∨ g.type = 2 → s.Sound →
    (∀ o ∈ s.cmds, o.opcode ≠ 0x33 ∧ o.opcode ≠ 0x37) →
    let at_ := if g.type = 1 then s.bndSlot ((s.bndIn 2).getD 0) else shardByte (p.shards.getD g.item []) g.off
    let bs := s.bytes 3 at_ g.len
    s.hasRange 3 at_ g.len = true → 0 < g.len →
    ∃ t, exec .ckptSegmentSend s = .next t ∧ t.mem = s.mem ∧ t.regs = s.regs ∧
      t.ck.stream = some { k with todo := rest, sent :=
        { type := g.type, item := g.item, off := g.off, len := g.len, sha := sha256 bs } :: k.sent } ∧
      t.fab.outq = s.fab.outq ++
        packetsOf (s.streamPkt k g.len (.ckptSeg (k.sent.length + 1) g.type g.item g.off bs)) ∧
      ∀ c m, k.cmd = some c → s.findCmd c = some m →
        t.findCmd c = some { m with done := max m.done (min (k.sent.length + 1) m.total) }) ∧
  (∀ (k : CkStream) (p : CkPlan) (s : State), s.ck.stream = some k → s.ck.plan = some p → k.closed = false → k.todo = [] →
    p.handles = [] → (∀ e ∈ k.sent, e.type ≠ 4) → s.trap = none →
    ∃ t, exec .ckptSegmentSend s = .next t ∧ { t with ck := s.ck, fab := s.fab } = s ∧
      t.ck.stream = some { k with closed := true } ∧ t.fab.outq = s.fab.outq ++
        packetsOf (s.streamPkt k (96 + 64 * k.sent.length) (.manifest k.job s.ck.gens k.step k.nextMb (BitVec.ofNat 64 k.stime)
          k.sent.reverse))) ∧
  (∀ (p : Pkt) (seg type item off : Nat) (bs : List Byte) (s : State), p.type = .write → p.body = .ckptSeg seg type item off bs →
    p.src = s.fld F.ward → s.Sound → seg ≠ 1 →
    let new := fun a => ({ type := type, item := item, off := off, len := bs.length, addr := a, sha := sha256 bs } : CkEntry)
    (∀ a, s.imageFree bs.length = some a →
      ∃ t, exec (.ckptSegmentReceive p) s = .next t ∧ t.bytes 4 a bs.length = bs ∧ t.flag F.holding = true ∧
        (s.sameSegment p.src type item off bs.length (sha256 bs) = none →
          t.ck = { s.ck with coming := s.ck.coming ++ [new a] }) ∧
        (∀ e, s.sameSegment p.src type item off bs.length (sha256 bs) = some e →
          t.ck = { s.ck with coming := s.ck.coming ++ [new e.addr] }) ∧ (∀ x ∈ s.imageUsed, a + bs.length ≤ x.1 ∨ x.1 + x.2 ≤ a) ∧
        ∀ k, (k < memKey 4 a ∨ memKey 4 a + bs.length ≤ k) → Tab.get memDefault t.mem k = Tab.get memDefault s.mem k) ∧
    (s.imageFree bs.length = none →
      ∃ t, exec (.ckptSegmentReceive p) s = .next t ∧ t.mem = s.mem ∧ t.flag F.holding = false ∧ t.ck.coming = [] ∧
        t.ck.held = s.ck.held ∧ t.fab.outq = s.fab.outq ++ [s.xferPkt ⟨p.job, ⟨p.ring, p.seq⟩⟩ .response 3 p.src 16 false
          (.ckptSeg seg type item off [])])) ∧
  (∀ (p : Pkt) (job gen step nextMb : Nat) (stime : BitVec 64) (es : List CkEntry) (s : State), p.type = .write →
    p.body = .manifest job gen step nextMb stime es → p.src = s.fld F.ward → s.Sound →
    (∀ e ∈ es, (s.placeEntry p.src e).isSome = true ∧ e.sha.length = 32) →
    let a := s.reg64 Reg.ckptImgLo Reg.ckptImgHi + 0x4000000 * (gen % 3)
    let fits := 96 + 64 * es.length ≤ 0x4000000 ∧ a + 0x4000000 ≤ s.imageRegion.2
    (¬ fits → ∃ t, exec (.ckptGenerationCommit p) s = .next t ∧ t.ck.held = s.ck.held ∧
      t.mem = s.mem ∧ t.flag F.holding = false ∧ t.ck.coming = []) ∧
    (fits → ∃ t g, exec (.ckptGenerationCommit p) s = .next t ∧ t.heldOf p.src = g :: (s.heldOf p.src).take 1 ∧ g.gen = gen ∧ g.step = step ∧
      g.ward = p.src ∧ g.entries.map (fun e => { e with addr := 0 }) = es.map (fun e => { e with addr := 0 }) ∧
      (∀ w, w ≠ p.src → t.heldOf w = s.heldOf w) ∧ t.flag F.holding = false ∧ t.ck.coming = [] ∧ g.at_ = a ∧
      t.bytes 4 a (96 + 64 * es.length) = manifestBytes g ∧
      (∀ k, (k < memKey 4 a ∨ memKey 4 a + (96 + 64 * es.length) ≤ k) → Tab.get memDefault t.mem k = Tab.get memDefault s.mem k) ∧
      t.fab.outq = s.fab.outq ++ [s.xferPkt ⟨p.job, ⟨p.ring, p.seq⟩⟩ .response 3 p.src 16 false p.body])) ∧
  (∀ (p : Pkt) (job gen step nextMb : Nat) (stime : BitVec 64) (es : List CkEntry) (k : CkStream) (c : CmdId) (m : Cmd) (s : State),
    p.type = .response → p.body = .manifest job gen step nextMb stime es → s.ck.stream = some k → k.closed = true →
    gen = s.ck.gens → p.src = s.fld F.buddy → k.cmd = some c → s.findCmd c = some m → s.CanEnd c → s.flag F.logEnable = false →
    k.step < 2 ^ 32 →
    ∃ t, exec (.ckptGenerationCommit p) s = .next t ∧ Ended s t m okStatus ∧ t.ck.stream = none ∧ t.ck.gens = gen + 1 ∧
      t.ck.last = k.sent.reverse ∧ (t.reg Reg.ckptLastStep).toNat = k.step ∧ t.flag F.ckptActive = false ∧
      t.flag F.fullNext = false ∧ t.safe.ckptAt = s.tb.stime ∧
      OnlyEnd s { t with fab := s.fab, safe := s.safe } c [F.fullNext.off, Reg.ckptLastStep, Reg.ckptDone])

/-- The rows of a stream complete (R522, R523, R526): with a buddy, a plan and a committed slot, CKPT_START of that slot's
step or of 0xFFFFFFFF begins its stream; the plan copy, with the descriptors of its tables, is sent as a segment of type 5;
the first segment at the buddy ends what an earlier stream had sent; a manifest of no entry is committed; and the answer to a
stream that the Health Monitor started ends it with the step kept and no command to end. -/
def Obligations.CheckpointRowsComplete : Prop :=
  (∀ (c : CmdId) (m : Cmd) (p : CkPlan) (i : Nat) (s : State), s.Runs c 0x72 m → s.flag F.buddyValid = true → s.ck.plan = some p →
    s.bndIn 2 = some i → m.word 5 = s.bndHead i 1 ∨ m.word 5 = 0xFFFFFFFF → s.ck.stream = none → s.ck.restore = none →
    (s.bndBase ≠ 0 → s.clearOf c (s.bndSlot 0) 12 ∧ s.clearOf c (s.bndSlot 1) 12) →
    ∃ t k, exec (.ckptStart c) s = .next t ∧ t.ck = { s.ck with stream := some k } ∧ k.cmd = some c ∧ k.step = s.bndHead i 1 ∧
      k.nextMb = s.bndHead i 2 ∧ k.stime = s.tb.stime ∧ k.sent = [] ∧ t.flag F.ckptActive = true ∧
      t.findCmd c = some (m.begun s)) ∧
  (∀ (k : CkStream) (p : CkPlan) (g : CkSeg) (rest : List CkSeg) (s : State), s.ck.stream = some k → s.ck.plan = some p →
    k.closed = false → k.todo = g :: rest → k.got = [] → g.type = 5 → s.trap = none →
    (∀ o ∈ s.cmds, o.opcode ≠ 0x33 ∧ o.opcode ≠ 0x37) →
    let bs := wordBytes (p.words ++ p.handles.flatMap fun n => (s.streamTable k n).getD (List.replicate 16 0))
    ∃ t, exec .ckptSegmentSend s = .next t ∧ t.mem = s.mem ∧ t.regs = s.regs ∧
      t.ck.stream = some { k with todo := rest, sent :=
        { type := 5, item := g.item, off := g.off, len := bs.length, sha := sha256 bs } :: k.sent } ∧
      t.fab.outq = s.fab.outq ++
        packetsOf (s.streamPkt k bs.length (.ckptSeg (k.sent.length + 1) 5 g.item g.off bs))) ∧
  (∀ (p : Pkt) (type item off a : Nat) (bs : List Byte) (s : State), p.type = .write → p.body = .ckptSeg 1 type item off bs →
    p.src = s.fld F.ward → s.Sound → State.imageFree { s with ck := { s.ck with coming := [] } } bs.length = some a →
    ∃ t e, exec (.ckptSegmentReceive p) s = .next t ∧ t.ck = { s.ck with coming := [e] } ∧ e.type = type ∧ e.item = item ∧
      e.off = off ∧ e.len = bs.length ∧ e.sha = sha256 bs ∧ t.flag F.holding = true ∧ t.bytes 4 a bs.length = bs) ∧
  (∀ (p : Pkt) (job gen step nextMb : Nat) (stime : BitVec 64) (s : State), p.type = .write →
    p.body = .manifest job gen step nextMb stime [] → p.src = s.fld F.ward → s.Sound →
    let a := s.reg64 Reg.ckptImgLo Reg.ckptImgHi + 0x4000000 * (gen % 3)
    a + 0x4000000 ≤ s.imageRegion.2 →
    let g : CkGen := { job := job, gen := gen, step := step, ward := p.src, nextMb := nextMb, stime := stime.toNat,
                       entries := [], at_ := a }
    ∃ t, exec (.ckptGenerationCommit p) s = .next t ∧ t.heldOf p.src = g :: (s.heldOf p.src).take 1 ∧
      t.bytes 4 a 96 = manifestBytes g ∧ t.flag F.holding = false) ∧
  (∀ (p : Pkt) (job gen step nextMb : Nat) (stime : BitVec 64) (es : List CkEntry) (k : CkStream) (s : State),
    p.type = .response → p.body = .manifest job gen step nextMb stime es → s.ck.stream = some k → k.closed = true →
    gen = s.ck.gens → p.src = s.fld F.buddy → k.cmd = none → s.Calm → s.flag F.logEnable = false → k.step < 2 ^ 32 →
    ∃ t, exec (.ckptGenerationCommit p) s = .next t ∧ t.ck.stream = none ∧ t.ck.gens = gen + 1 ∧ t.ck.last = k.sent.reverse ∧
      (t.reg Reg.ckptLastStep).toNat = k.step ∧ t.flag F.ckptActive = false ∧ t.flag F.fullNext = false ∧
      t.safe.ckptAt = s.tb.stime ∧ t.cmds = s.cmds ∧ t.mem = s.mem)

/-- RESTORE (R528 to R530; where its requests and answers travel is the model's choice, log entry 52) clears restore_ok and
asks its holder for the manifest; a holder answers with a committed generation's manifest or payload, or that it has none. A
refused or damaged answer ends the restore; a manifest has its first segment asked for; a shard's payload whose digest is
right is written whole, and the next is asked for; the boundary as the last one, with boundary capture off, loads seed and
last uses where every lane passes, and ends with OK and restore_ok set, or with CURSOR and every counter as before. -/
def Obligations.RestoreReadsItsImage : Prop :=
  (∀ (c : CmdId) (m : Cmd) (s : State), s.Runs c 0x73 m →
    let r : CkRestore := { cmd := c, ward := m.bits 4 31 16, holder := m.bits 4 15 0 }
    (∀ st, s.ckBusy = some st → ∃ t, exec (.restore c) s = .next t ∧ Refused s t (m.begun s) st ∧ t.flag F.restoreOk = false ∧
      OnlyEnd s t c [F.restoreOk.off]) ∧
    (s.ckBusy = none → ∃ t, exec (.restore c) s = .next t ∧ t.findCmd c = some (m.begun s) ∧ t.flag F.restoreOk = false ∧
      t.ck = { s.ck with restore := some r } ∧ t.fab = { s.fab with outq := s.fab.outq ++
        [s.xferPkt m.sender .request 2 r.holder 0 false (.restoreReq r.ward (m.words.getD 5 0) 0)] })) ∧
  (∀ (p : Pkt) (ward seg : Nat) (step : W) (s : State), p.body = .restoreReq ward step seg → s.Sound →
    let reply := fun (found : Bool) (bs : List Byte) => s.xferPkt ⟨p.job, ⟨p.ring, p.seq⟩⟩ .response 3 p.src (min 2048 bs.length)
      false (.restoreResp seg found bs)
    (s.genAt ward step = none → exec (.restoreSegmentRequest p) s = .next
      { s with fab := { (s.unbox p).fab with outq := s.fab.outq ++ [reply false []] } }) ∧
    (∀ g, s.genAt ward step = some g → g.ward = ward ∧ ward = s.fld F.ward ∧ (step = 0xFFFFFFFF ∨ g.step = step.toNat) ∧
      (seg = 0 → s.hasRange 4 g.at_ (manifestLen g) = true →
        ∃ t, exec (.restoreSegmentRequest p) s = .next t ∧ t.mem = s.mem ∧ t.regs = s.regs ∧
          t.fab.outq = s.fab.outq ++ packetsOf (reply true (s.bytes 4 g.at_ (manifestLen g)))) ∧
      (∀ e, seg ≠ 0 → g.entries[seg - 1]? = some e → s.hasRange 4 e.addr e.len = true →
        ∃ t, exec (.restoreSegmentRequest p) s = .next t ∧ t.mem = s.mem ∧ t.regs = s.regs ∧
          t.fab.outq = s.fab.outq ++ packetsOf (reply true (s.bytes 4 e.addr e.len))))) ∧
  (∀ (p : Pkt) (seg : Nat) (found : Bool) (bs : List Byte) (r : CkRestore) (m : Cmd) (s : State), p.body = .restoreResp seg found bs →
    s.ck.restore = some r → r.cmd = ⟨p.ring, p.seq⟩ → r.holder = p.src → s.findCmd r.cmd = some m → s.CanEnd r.cmd →
    (found = false → ∃ t, exec (.restoreSegmentResponse p) s = .next t ∧ Ended s t m (oor 5) ∧ t.ck.restore = none ∧
      OnlyEnd s { t with fab := s.fab } r.cmd) ∧
    (found = true → seg = 0 → manifestOf bs = none → ∃ t, exec (.restoreSegmentResponse p) s = .next t ∧
      Ended s t m ⟨St.digest, 0, 0⟩ ∧ t.ck.restore = none ∧ OnlyEnd s { t with fab := s.fab } r.cmd) ∧
    (∀ g n, found = true → seg = 0 → manifestOf bs = some g → 0 < g.entries.length →
      (∀ e ∈ g.entries, e.type ≠ 5) → n = 1 →
      ∃ t, exec (.restoreSegmentResponse p) s = .next t ∧ t.findCmd r.cmd = some { m with total := g.entries.length } ∧
        t.ck.restore = some { r with man := some g, todo := (List.range g.entries.length).map (· + 1) } ∧
        t.fab.outq = s.fab.outq ++ [s.xferPkt ⟨m.job, r.cmd⟩ .request 2 r.holder 0 false
          (.restoreReq r.ward (BitVec.ofNat 32 g.step) n)]) ∧
    (∀ g e rest, found = true → seg ≠ 0 → r.man = some g → g.entries[seg - 1]? = some e → r.todo = seg :: rest → seg ∉ rest →
      let done := max m.done (min (g.entries.length - rest.length) m.total)
      (bs.length ≠ e.len ∨ sha256 bs ≠ e.sha → ∃ t, exec (.restoreSegmentResponse p) s = .next t ∧
        Ended s t m ⟨St.digest, seg, 0⟩ ∧ t.ck.restore = none ∧ OnlyEnd s { t with fab := s.fab } r.cmd) ∧
      (∀ pl n more, bs.length = e.len → sha256 bs = e.sha → e.type = 2 → r.plan = some pl → rest = n :: more →
        let at_ := shardByte (pl.shards.getD e.item []) e.off
        s.hasRange 3 at_ bs.length = true →
        ∃ t, exec (.restoreSegmentResponse p) s = .next t ∧ t.bytes 3 at_ bs.length = bs ∧
          t.ck.restore = some { r with todo := rest } ∧ t.findCmd r.cmd = some { m with done := done } ∧
          t.fab.outq = s.fab.outq ++ [s.xferPkt ⟨m.job, r.cmd⟩ .request 2 r.holder 0 false
            (.restoreReq r.ward (BitVec.ofNat 32 g.step) n)] ∧
          ∀ k, (k < memKey 3 at_ ∨ memKey 3 at_ + bs.length ≤ k) → Tab.get memDefault t.mem k = Tab.get memDefault s.mem k) ∧
      (bs.length = e.len → sha256 bs = e.sha → e.type = 1 → rest = [] → s.bndBase = 0 →
        let uses := bytesWords (64 * s.tileCount) (bs.drop (64 + s.imageBytes))
        (s.badLane uses g.nextMb = none → ∃ t, exec (.restoreSegmentResponse p) s = .next t ∧
          Ended s t m okStatus ∧ t.ck.restore = none ∧ t.flag F.restoreOk = true ∧ t.flag F.fullNext = true ∧
          t.seed = pair64 (bytesWords s.imageWords (bs.drop 64)) 2 ∧
          ∀ j, j < 64 * s.tileCount → Tab.get noMb t.lastMb (genKey (s.nthTile (j / 64)) (j % 64)) = uses.getD j 0) ∧
        (∀ lane tile, s.badLane uses g.nextMb = some (lane, tile) → ∃ t, exec (.restoreSegmentResponse p) s = .next t ∧
          Ended s t { m with done := done } ⟨St.cursor, lane, tile⟩ ∧ t.ck.restore = none ∧
          t.flag F.restoreOk = s.flag F.restoreOk ∧ t.gens = s.gens ∧ t.lastMb = s.lastMb ∧ t.seed = s.seed))))
end

