-- ==== Sys2Proof/Laws/State.lean ====
section
/-! SUPPORT. Each field of the state after each of the named updates, so that no proof unfolds a record update. -/

namespace Sys2Proof.Machine

variable (s : State)

/-! ### setReg -/

@[simp] theorem State.setReg_pending (o : Nat) (v : W) : (s.setReg o v).pending = s.pending := by unfold State.setReg; rfl
@[simp] theorem State.setReg_trap (o : Nat) (v : W) : (s.setReg o v).trap = s.trap := by unfold State.setReg; rfl
@[simp] theorem State.setReg_free (o : Nat) (v : W) : (s.setReg o v).free = s.free := by unfold State.setReg; rfl
@[simp] theorem State.setReg_out (o : Nat) (v : W) : (s.setReg o v).out = s.out := by unfold State.setReg; rfl
@[simp] theorem State.setReg_fuses (o : Nat) (v : W) : (s.setReg o v).fuses = s.fuses := by unfold State.setReg; rfl
@[simp] theorem State.setReg_regs (o : Nat) (v : W) : (s.setReg o v).regs = Tab.put regReset s.regs o v := by unfold State.setReg; rfl
@[simp] theorem State.setReg_portRegs (o : Nat) (v : W) : (s.setReg o v).portRegs = s.portRegs := by unfold State.setReg; rfl
@[simp] theorem State.setReg_mem (o : Nat) (v : W) : (s.setReg o v).mem = s.mem := by unfold State.setReg; rfl
@[simp] theorem State.setReg_errs (o : Nat) (v : W) : (s.setReg o v).errs = s.errs := by unfold State.setReg; rfl
@[simp] theorem State.setReg_zeroAt (o : Nat) (v : W) : (s.setReg o v).zeroAt = s.zeroAt := by unfold State.setReg; rfl
@[simp] theorem State.setReg_wear (o : Nat) (v : W) : (s.setReg o v).wear = s.wear := by unfold State.setReg; rfl
@[simp] theorem State.setReg_scrubAge (o : Nat) (v : W) : (s.setReg o v).scrubAge = s.scrubAge := by unfold State.setReg; rfl
@[simp] theorem State.setReg_loads (o : Nat) (v : W) : (s.setReg o v).loads = s.loads := by unfold State.setReg; rfl
@[simp] theorem State.setReg_moved (o : Nat) (v : W) : (s.setReg o v).moved = s.moved := by unfold State.setReg; rfl
@[simp] theorem State.setReg_cmds (o : Nat) (v : W) : (s.setReg o v).cmds = s.cmds := by unfold State.setReg; rfl
@[simp] theorem State.setReg_spent (o : Nat) (v : W) : (s.setReg o v).spent = s.spent := by unfold State.setReg; rfl
@[simp] theorem State.setReg_spentRun (o : Nat) (v : W) : (s.setReg o v).spentRun = s.spentRun := by unfold State.setReg; rfl
@[simp] theorem State.setReg_rings (o : Nat) (v : W) : (s.setReg o v).rings = s.rings := by unfold State.setReg; rfl
@[simp] theorem State.setReg_cqs (o : Nat) (v : W) : (s.setReg o v).cqs = s.cqs := by unfold State.setReg; rfl
@[simp] theorem State.setReg_arb (o : Nat) (v : W) : (s.setReg o v).arb = s.arb := by unfold State.setReg; rfl
@[simp] theorem State.setReg_tb (o : Nat) (v : W) : (s.setReg o v).tb = s.tb := by unfold State.setReg; rfl
@[simp] theorem State.setReg_halls (o : Nat) (v : W) : (s.setReg o v).halls = s.halls := by unfold State.setReg; rfl
@[simp] theorem State.setReg_safe (o : Nat) (v : W) : (s.setReg o v).safe = s.safe := by unfold State.setReg; rfl
@[simp] theorem State.setReg_rst (o : Nat) (v : W) : (s.setReg o v).rst = s.rst := by unfold State.setReg; rfl
@[simp] theorem State.setReg_board (o : Nat) (v : W) : (s.setReg o v).board = s.board := by unfold State.setReg; rfl
@[simp] theorem State.setReg_fab (o : Nat) (v : W) : (s.setReg o v).fab = s.fab := by unfold State.setReg; rfl
@[simp] theorem State.setReg_seed (o : Nat) (v : W) : (s.setReg o v).seed = s.seed := by unfold State.setReg; rfl
@[simp] theorem State.setReg_gens (o : Nat) (v : W) : (s.setReg o v).gens = s.gens := by unfold State.setReg; rfl
@[simp] theorem State.setReg_lastMb (o : Nat) (v : W) : (s.setReg o v).lastMb = s.lastMb := by unfold State.setReg; rfl
@[simp] theorem State.setReg_red (o : Nat) (v : W) : (s.setReg o v).red = s.red := by unfold State.setReg; rfl
@[simp] theorem State.setReg_erm (o : Nat) (v : W) : (s.setReg o v).erm = s.erm := by unfold State.setReg; rfl
@[simp] theorem State.setReg_ck (o : Nat) (v : W) : (s.setReg o v).ck = s.ck := by unfold State.setReg; rfl

/-! ### setFld -/

@[simp] theorem State.setFld_pending (f : Fld) (v : Nat) : (s.setFld f v).pending = s.pending := by unfold State.setFld State.setReg; rfl
@[simp] theorem State.setFld_trap (f : Fld) (v : Nat) : (s.setFld f v).trap = s.trap := by unfold State.setFld State.setReg; rfl
@[simp] theorem State.setFld_free (f : Fld) (v : Nat) : (s.setFld f v).free = s.free := by unfold State.setFld State.setReg; rfl
@[simp] theorem State.setFld_out (f : Fld) (v : Nat) : (s.setFld f v).out = s.out := by unfold State.setFld State.setReg; rfl
@[simp] theorem State.setFld_fuses (f : Fld) (v : Nat) : (s.setFld f v).fuses = s.fuses := by unfold State.setFld State.setReg; rfl
@[simp] theorem State.setFld_portRegs (f : Fld) (v : Nat) : (s.setFld f v).portRegs = s.portRegs := by unfold State.setFld State.setReg; rfl
@[simp] theorem State.setFld_mem (f : Fld) (v : Nat) : (s.setFld f v).mem = s.mem := by unfold State.setFld State.setReg; rfl
@[simp] theorem State.setFld_errs (f : Fld) (v : Nat) : (s.setFld f v).errs = s.errs := by unfold State.setFld State.setReg; rfl
@[simp] theorem State.setFld_zeroAt (f : Fld) (v : Nat) : (s.setFld f v).zeroAt = s.zeroAt := by unfold State.setFld State.setReg; rfl
@[simp] theorem State.setFld_wear (f : Fld) (v : Nat) : (s.setFld f v).wear = s.wear := by unfold State.setFld State.setReg; rfl
@[simp] theorem State.setFld_scrubAge (f : Fld) (v : Nat) : (s.setFld f v).scrubAge = s.scrubAge := by unfold State.setFld State.setReg; rfl
@[simp] theorem State.setFld_loads (f : Fld) (v : Nat) : (s.setFld f v).loads = s.loads := by unfold State.setFld State.setReg; rfl
@[simp] theorem State.setFld_moved (f : Fld) (v : Nat) : (s.setFld f v).moved = s.moved := by unfold State.setFld State.setReg; rfl
@[simp] theorem State.setFld_cmds (f : Fld) (v : Nat) : (s.setFld f v).cmds = s.cmds := by unfold State.setFld State.setReg; rfl
@[simp] theorem State.setFld_spent (f : Fld) (v : Nat) : (s.setFld f v).spent = s.spent := by unfold State.setFld State.setReg; rfl
@[simp] theorem State.setFld_spentRun (f : Fld) (v : Nat) : (s.setFld f v).spentRun = s.spentRun := by unfold State.setFld State.setReg; rfl
@[simp] theorem State.setFld_rings (f : Fld) (v : Nat) : (s.setFld f v).rings = s.rings := by unfold State.setFld State.setReg; rfl
@[simp] theorem State.setFld_cqs (f : Fld) (v : Nat) : (s.setFld f v).cqs = s.cqs := by unfold State.setFld State.setReg; rfl
@[simp] theorem State.setFld_arb (f : Fld) (v : Nat) : (s.setFld f v).arb = s.arb := by unfold State.setFld State.setReg; rfl
@[simp] theorem State.setFld_tb (f : Fld) (v : Nat) : (s.setFld f v).tb = s.tb := by unfold State.setFld State.setReg; rfl
@[simp] theorem State.setFld_halls (f : Fld) (v : Nat) : (s.setFld f v).halls = s.halls := by unfold State.setFld State.setReg; rfl
@[simp] theorem State.setFld_safe (f : Fld) (v : Nat) : (s.setFld f v).safe = s.safe := by unfold State.setFld State.setReg; rfl
@[simp] theorem State.setFld_rst (f : Fld) (v : Nat) : (s.setFld f v).rst = s.rst := by unfold State.setFld State.setReg; rfl
@[simp] theorem State.setFld_board (f : Fld) (v : Nat) : (s.setFld f v).board = s.board := by unfold State.setFld State.setReg; rfl
@[simp] theorem State.setFld_fab (f : Fld) (v : Nat) : (s.setFld f v).fab = s.fab := by unfold State.setFld State.setReg; rfl
@[simp] theorem State.setFld_seed (f : Fld) (v : Nat) : (s.setFld f v).seed = s.seed := by unfold State.setFld State.setReg; rfl
@[simp] theorem State.setFld_gens (f : Fld) (v : Nat) : (s.setFld f v).gens = s.gens := by unfold State.setFld State.setReg; rfl
@[simp] theorem State.setFld_lastMb (f : Fld) (v : Nat) : (s.setFld f v).lastMb = s.lastMb := by unfold State.setFld State.setReg; rfl
@[simp] theorem State.setFld_red (f : Fld) (v : Nat) : (s.setFld f v).red = s.red := by unfold State.setFld State.setReg; rfl
@[simp] theorem State.setFld_erm (f : Fld) (v : Nat) : (s.setFld f v).erm = s.erm := by unfold State.setFld State.setReg; rfl
@[simp] theorem State.setFld_ck (f : Fld) (v : Nat) : (s.setFld f v).ck = s.ck := by unfold State.setFld State.setReg; rfl

/-! ### bump -/

@[simp] theorem State.bump_pending (f : Fld) (n : Nat) : (s.bump f n).pending = s.pending := by unfold State.bump State.setFld State.setReg; rfl
@[simp] theorem State.bump_trap (f : Fld) (n : Nat) : (s.bump f n).trap = s.trap := by unfold State.bump State.setFld State.setReg; rfl
@[simp] theorem State.bump_free (f : Fld) (n : Nat) : (s.bump f n).free = s.free := by unfold State.bump State.setFld State.setReg; rfl
@[simp] theorem State.bump_out (f : Fld) (n : Nat) : (s.bump f n).out = s.out := by unfold State.bump State.setFld State.setReg; rfl
@[simp] theorem State.bump_fuses (f : Fld) (n : Nat) : (s.bump f n).fuses = s.fuses := by unfold State.bump State.setFld State.setReg; rfl
@[simp] theorem State.bump_portRegs (f : Fld) (n : Nat) : (s.bump f n).portRegs = s.portRegs := by unfold State.bump State.setFld State.setReg; rfl
@[simp] theorem State.bump_mem (f : Fld) (n : Nat) : (s.bump f n).mem = s.mem := by unfold State.bump State.setFld State.setReg; rfl
@[simp] theorem State.bump_errs (f : Fld) (n : Nat) : (s.bump f n).errs = s.errs := by unfold State.bump State.setFld State.setReg; rfl
@[simp] theorem State.bump_zeroAt (f : Fld) (n : Nat) : (s.bump f n).zeroAt = s.zeroAt := by unfold State.bump State.setFld State.setReg; rfl
@[simp] theorem State.bump_wear (f : Fld) (n : Nat) : (s.bump f n).wear = s.wear := by unfold State.bump State.setFld State.setReg; rfl
@[simp] theorem State.bump_scrubAge (f : Fld) (n : Nat) : (s.bump f n).scrubAge = s.scrubAge := by unfold State.bump State.setFld State.setReg; rfl
@[simp] theorem State.bump_loads (f : Fld) (n : Nat) : (s.bump f n).loads = s.loads := by unfold State.bump State.setFld State.setReg; rfl
@[simp] theorem State.bump_moved (f : Fld) (n : Nat) : (s.bump f n).moved = s.moved := by unfold State.bump State.setFld State.setReg; rfl
@[simp] theorem State.bump_cmds (f : Fld) (n : Nat) : (s.bump f n).cmds = s.cmds := by unfold State.bump State.setFld State.setReg; rfl
@[simp] theorem State.bump_spent (f : Fld) (n : Nat) : (s.bump f n).spent = s.spent := by unfold State.bump State.setFld State.setReg; rfl
@[simp] theorem State.bump_spentRun (f : Fld) (n : Nat) : (s.bump f n).spentRun = s.spentRun := by unfold State.bump State.setFld State.setReg; rfl
@[simp] theorem State.bump_rings (f : Fld) (n : Nat) : (s.bump f n).rings = s.rings := by unfold State.bump State.setFld State.setReg; rfl
@[simp] theorem State.bump_cqs (f : Fld) (n : Nat) : (s.bump f n).cqs = s.cqs := by unfold State.bump State.setFld State.setReg; rfl
@[simp] theorem State.bump_arb (f : Fld) (n : Nat) : (s.bump f n).arb = s.arb := by unfold State.bump State.setFld State.setReg; rfl
@[simp] theorem State.bump_tb (f : Fld) (n : Nat) : (s.bump f n).tb = s.tb := by unfold State.bump State.setFld State.setReg; rfl
@[simp] theorem State.bump_halls (f : Fld) (n : Nat) : (s.bump f n).halls = s.halls := by unfold State.bump State.setFld State.setReg; rfl
@[simp] theorem State.bump_safe (f : Fld) (n : Nat) : (s.bump f n).safe = s.safe := by unfold State.bump State.setFld State.setReg; rfl
@[simp] theorem State.bump_rst (f : Fld) (n : Nat) : (s.bump f n).rst = s.rst := by unfold State.bump State.setFld State.setReg; rfl
@[simp] theorem State.bump_board (f : Fld) (n : Nat) : (s.bump f n).board = s.board := by unfold State.bump State.setFld State.setReg; rfl
@[simp] theorem State.bump_fab (f : Fld) (n : Nat) : (s.bump f n).fab = s.fab := by unfold State.bump State.setFld State.setReg; rfl
@[simp] theorem State.bump_seed (f : Fld) (n : Nat) : (s.bump f n).seed = s.seed := by unfold State.bump State.setFld State.setReg; rfl
@[simp] theorem State.bump_gens (f : Fld) (n : Nat) : (s.bump f n).gens = s.gens := by unfold State.bump State.setFld State.setReg; rfl
@[simp] theorem State.bump_lastMb (f : Fld) (n : Nat) : (s.bump f n).lastMb = s.lastMb := by unfold State.bump State.setFld State.setReg; rfl
@[simp] theorem State.bump_red (f : Fld) (n : Nat) : (s.bump f n).red = s.red := by unfold State.bump State.setFld State.setReg; rfl
@[simp] theorem State.bump_erm (f : Fld) (n : Nat) : (s.bump f n).erm = s.erm := by unfold State.bump State.setFld State.setReg; rfl
@[simp] theorem State.bump_ck (f : Fld) (n : Nat) : (s.bump f n).ck = s.ck := by unfold State.bump State.setFld State.setReg; rfl

/-! ### setPortReg -/

@[simp] theorem State.setPortReg_pending (p o : Nat) (v : W) : (s.setPortReg p o v).pending = s.pending := by unfold State.setPortReg; rfl
@[simp] theorem State.setPortReg_trap (p o : Nat) (v : W) : (s.setPortReg p o v).trap = s.trap := by unfold State.setPortReg; rfl
@[simp] theorem State.setPortReg_free (p o : Nat) (v : W) : (s.setPortReg p o v).free = s.free := by unfold State.setPortReg; rfl
@[simp] theorem State.setPortReg_out (p o : Nat) (v : W) : (s.setPortReg p o v).out = s.out := by unfold State.setPortReg; rfl
@[simp] theorem State.setPortReg_fuses (p o : Nat) (v : W) : (s.setPortReg p o v).fuses = s.fuses := by unfold State.setPortReg; rfl
@[simp] theorem State.setPortReg_regs (p o : Nat) (v : W) : (s.setPortReg p o v).regs = s.regs := by unfold State.setPortReg; rfl
@[simp] theorem State.setPortReg_portRegs (p o : Nat) (v : W) : (s.setPortReg p o v).portRegs = Tab.put portReset s.portRegs (portKey p o) v := by unfold State.setPortReg; rfl
@[simp] theorem State.setPortReg_mem (p o : Nat) (v : W) : (s.setPortReg p o v).mem = s.mem := by unfold State.setPortReg; rfl
@[simp] theorem State.setPortReg_errs (p o : Nat) (v : W) : (s.setPortReg p o v).errs = s.errs := by unfold State.setPortReg; rfl
@[simp] theorem State.setPortReg_zeroAt (p o : Nat) (v : W) : (s.setPortReg p o v).zeroAt = s.zeroAt := by unfold State.setPortReg; rfl
@[simp] theorem State.setPortReg_wear (p o : Nat) (v : W) : (s.setPortReg p o v).wear = s.wear := by unfold State.setPortReg; rfl
@[simp] theorem State.setPortReg_scrubAge (p o : Nat) (v : W) : (s.setPortReg p o v).scrubAge = s.scrubAge := by unfold State.setPortReg; rfl
@[simp] theorem State.setPortReg_loads (p o : Nat) (v : W) : (s.setPortReg p o v).loads = s.loads := by unfold State.setPortReg; rfl
@[simp] theorem State.setPortReg_moved (p o : Nat) (v : W) : (s.setPortReg p o v).moved = s.moved := by unfold State.setPortReg; rfl
@[simp] theorem State.setPortReg_cmds (p o : Nat) (v : W) : (s.setPortReg p o v).cmds = s.cmds := by unfold State.setPortReg; rfl
@[simp] theorem State.setPortReg_spent (p o : Nat) (v : W) : (s.setPortReg p o v).spent = s.spent := by unfold State.setPortReg; rfl
@[simp] theorem State.setPortReg_spentRun (p o : Nat) (v : W) : (s.setPortReg p o v).spentRun = s.spentRun := by unfold State.setPortReg; rfl
@[simp] theorem State.setPortReg_rings (p o : Nat) (v : W) : (s.setPortReg p o v).rings = s.rings := by unfold State.setPortReg; rfl
@[simp] theorem State.setPortReg_cqs (p o : Nat) (v : W) : (s.setPortReg p o v).cqs = s.cqs := by unfold State.setPortReg; rfl
@[simp] theorem State.setPortReg_arb (p o : Nat) (v : W) : (s.setPortReg p o v).arb = s.arb := by unfold State.setPortReg; rfl
@[simp] theorem State.setPortReg_tb (p o : Nat) (v : W) : (s.setPortReg p o v).tb = s.tb := by unfold State.setPortReg; rfl
@[simp] theorem State.setPortReg_halls (p o : Nat) (v : W) : (s.setPortReg p o v).halls = s.halls := by unfold State.setPortReg; rfl
@[simp] theorem State.setPortReg_safe (p o : Nat) (v : W) : (s.setPortReg p o v).safe = s.safe := by unfold State.setPortReg; rfl
@[simp] theorem State.setPortReg_rst (p o : Nat) (v : W) : (s.setPortReg p o v).rst = s.rst := by unfold State.setPortReg; rfl
@[simp] theorem State.setPortReg_board (p o : Nat) (v : W) : (s.setPortReg p o v).board = s.board := by unfold State.setPortReg; rfl
@[simp] theorem State.setPortReg_fab (p o : Nat) (v : W) : (s.setPortReg p o v).fab = s.fab := by unfold State.setPortReg; rfl
@[simp] theorem State.setPortReg_seed (p o : Nat) (v : W) : (s.setPortReg p o v).seed = s.seed := by unfold State.setPortReg; rfl
@[simp] theorem State.setPortReg_gens (p o : Nat) (v : W) : (s.setPortReg p o v).gens = s.gens := by unfold State.setPortReg; rfl
@[simp] theorem State.setPortReg_lastMb (p o : Nat) (v : W) : (s.setPortReg p o v).lastMb = s.lastMb := by unfold State.setPortReg; rfl
@[simp] theorem State.setPortReg_red (p o : Nat) (v : W) : (s.setPortReg p o v).red = s.red := by unfold State.setPortReg; rfl
@[simp] theorem State.setPortReg_erm (p o : Nat) (v : W) : (s.setPortReg p o v).erm = s.erm := by unfold State.setPortReg; rfl
@[simp] theorem State.setPortReg_ck (p o : Nat) (v : W) : (s.setPortReg p o v).ck = s.ck := by unfold State.setPortReg; rfl

/-! ### emit -/

@[simp] theorem State.emit_pending (o : Out) : (s.emit o).pending = s.pending := by unfold State.emit; rfl
@[simp] theorem State.emit_trap (o : Out) : (s.emit o).trap = s.trap := by unfold State.emit; rfl
@[simp] theorem State.emit_free (o : Out) : (s.emit o).free = s.free := by unfold State.emit; rfl
@[simp] theorem State.emit_out (o : Out) : (s.emit o).out = o :: s.out := by unfold State.emit; rfl
@[simp] theorem State.emit_fuses (o : Out) : (s.emit o).fuses = s.fuses := by unfold State.emit; rfl
@[simp] theorem State.emit_regs (o : Out) : (s.emit o).regs = s.regs := by unfold State.emit; rfl
@[simp] theorem State.emit_portRegs (o : Out) : (s.emit o).portRegs = s.portRegs := by unfold State.emit; rfl
@[simp] theorem State.emit_mem (o : Out) : (s.emit o).mem = s.mem := by unfold State.emit; rfl
@[simp] theorem State.emit_errs (o : Out) : (s.emit o).errs = s.errs := by unfold State.emit; rfl
@[simp] theorem State.emit_zeroAt (o : Out) : (s.emit o).zeroAt = s.zeroAt := by unfold State.emit; rfl
@[simp] theorem State.emit_wear (o : Out) : (s.emit o).wear = s.wear := by unfold State.emit; rfl
@[simp] theorem State.emit_scrubAge (o : Out) : (s.emit o).scrubAge = s.scrubAge := by unfold State.emit; rfl
@[simp] theorem State.emit_loads (o : Out) : (s.emit o).loads = s.loads := by unfold State.emit; rfl
@[simp] theorem State.emit_moved (o : Out) : (s.emit o).moved = s.moved := by unfold State.emit; rfl
@[simp] theorem State.emit_cmds (o : Out) : (s.emit o).cmds = s.cmds := by unfold State.emit; rfl
@[simp] theorem State.emit_spent (o : Out) : (s.emit o).spent = s.spent := by unfold State.emit; rfl
@[simp] theorem State.emit_spentRun (o : Out) : (s.emit o).spentRun = s.spentRun := by unfold State.emit; rfl
@[simp] theorem State.emit_rings (o : Out) : (s.emit o).rings = s.rings := by unfold State.emit; rfl
@[simp] theorem State.emit_cqs (o : Out) : (s.emit o).cqs = s.cqs := by unfold State.emit; rfl
@[simp] theorem State.emit_arb (o : Out) : (s.emit o).arb = s.arb := by unfold State.emit; rfl
@[simp] theorem State.emit_tb (o : Out) : (s.emit o).tb = s.tb := by unfold State.emit; rfl
@[simp] theorem State.emit_halls (o : Out) : (s.emit o).halls = s.halls := by unfold State.emit; rfl
@[simp] theorem State.emit_safe (o : Out) : (s.emit o).safe = s.safe := by unfold State.emit; rfl
@[simp] theorem State.emit_rst (o : Out) : (s.emit o).rst = s.rst := by unfold State.emit; rfl
@[simp] theorem State.emit_board (o : Out) : (s.emit o).board = s.board := by unfold State.emit; rfl
@[simp] theorem State.emit_fab (o : Out) : (s.emit o).fab = s.fab := by unfold State.emit; rfl
@[simp] theorem State.emit_seed (o : Out) : (s.emit o).seed = s.seed := by unfold State.emit; rfl
@[simp] theorem State.emit_gens (o : Out) : (s.emit o).gens = s.gens := by unfold State.emit; rfl
@[simp] theorem State.emit_lastMb (o : Out) : (s.emit o).lastMb = s.lastMb := by unfold State.emit; rfl
@[simp] theorem State.emit_red (o : Out) : (s.emit o).red = s.red := by unfold State.emit; rfl
@[simp] theorem State.emit_erm (o : Out) : (s.emit o).erm = s.erm := by unfold State.emit; rfl
@[simp] theorem State.emit_ck (o : Out) : (s.emit o).ck = s.ck := by unfold State.emit; rfl

/-! ### setCqx -/

@[simp] theorem State.setCqx_pending (n : Nat) (x : CqX) : (s.setCqx n x).pending = s.pending := by unfold State.setCqx; rfl
@[simp] theorem State.setCqx_trap (n : Nat) (x : CqX) : (s.setCqx n x).trap = s.trap := by unfold State.setCqx; rfl
@[simp] theorem State.setCqx_free (n : Nat) (x : CqX) : (s.setCqx n x).free = s.free := by unfold State.setCqx; rfl
@[simp] theorem State.setCqx_out (n : Nat) (x : CqX) : (s.setCqx n x).out = s.out := by unfold State.setCqx; rfl
@[simp] theorem State.setCqx_fuses (n : Nat) (x : CqX) : (s.setCqx n x).fuses = s.fuses := by unfold State.setCqx; rfl
@[simp] theorem State.setCqx_regs (n : Nat) (x : CqX) : (s.setCqx n x).regs = s.regs := by unfold State.setCqx; rfl
@[simp] theorem State.setCqx_portRegs (n : Nat) (x : CqX) : (s.setCqx n x).portRegs = s.portRegs := by unfold State.setCqx; rfl
@[simp] theorem State.setCqx_mem (n : Nat) (x : CqX) : (s.setCqx n x).mem = s.mem := by unfold State.setCqx; rfl
@[simp] theorem State.setCqx_errs (n : Nat) (x : CqX) : (s.setCqx n x).errs = s.errs := by unfold State.setCqx; rfl
@[simp] theorem State.setCqx_zeroAt (n : Nat) (x : CqX) : (s.setCqx n x).zeroAt = s.zeroAt := by unfold State.setCqx; rfl
@[simp] theorem State.setCqx_wear (n : Nat) (x : CqX) : (s.setCqx n x).wear = s.wear := by unfold State.setCqx; rfl
@[simp] theorem State.setCqx_scrubAge (n : Nat) (x : CqX) : (s.setCqx n x).scrubAge = s.scrubAge := by unfold State.setCqx; rfl
@[simp] theorem State.setCqx_loads (n : Nat) (x : CqX) : (s.setCqx n x).loads = s.loads := by unfold State.setCqx; rfl
@[simp] theorem State.setCqx_moved (n : Nat) (x : CqX) : (s.setCqx n x).moved = s.moved := by unfold State.setCqx; rfl
@[simp] theorem State.setCqx_cmds (n : Nat) (x : CqX) : (s.setCqx n x).cmds = s.cmds := by unfold State.setCqx; rfl
@[simp] theorem State.setCqx_spent (n : Nat) (x : CqX) : (s.setCqx n x).spent = s.spent := by unfold State.setCqx; rfl
@[simp] theorem State.setCqx_spentRun (n : Nat) (x : CqX) : (s.setCqx n x).spentRun = s.spentRun := by unfold State.setCqx; rfl
@[simp] theorem State.setCqx_rings (n : Nat) (x : CqX) : (s.setCqx n x).rings = s.rings := by unfold State.setCqx; rfl
@[simp] theorem State.setCqx_cqs (n : Nat) (x : CqX) : (s.setCqx n x).cqs = Tab.put cqDefault s.cqs n x := by unfold State.setCqx; rfl
@[simp] theorem State.setCqx_arb (n : Nat) (x : CqX) : (s.setCqx n x).arb = s.arb := by unfold State.setCqx; rfl
@[simp] theorem State.setCqx_tb (n : Nat) (x : CqX) : (s.setCqx n x).tb = s.tb := by unfold State.setCqx; rfl
@[simp] theorem State.setCqx_halls (n : Nat) (x : CqX) : (s.setCqx n x).halls = s.halls := by unfold State.setCqx; rfl
@[simp] theorem State.setCqx_safe (n : Nat) (x : CqX) : (s.setCqx n x).safe = s.safe := by unfold State.setCqx; rfl
@[simp] theorem State.setCqx_rst (n : Nat) (x : CqX) : (s.setCqx n x).rst = s.rst := by unfold State.setCqx; rfl
@[simp] theorem State.setCqx_board (n : Nat) (x : CqX) : (s.setCqx n x).board = s.board := by unfold State.setCqx; rfl
@[simp] theorem State.setCqx_fab (n : Nat) (x : CqX) : (s.setCqx n x).fab = s.fab := by unfold State.setCqx; rfl
@[simp] theorem State.setCqx_seed (n : Nat) (x : CqX) : (s.setCqx n x).seed = s.seed := by unfold State.setCqx; rfl
@[simp] theorem State.setCqx_gens (n : Nat) (x : CqX) : (s.setCqx n x).gens = s.gens := by unfold State.setCqx; rfl
@[simp] theorem State.setCqx_lastMb (n : Nat) (x : CqX) : (s.setCqx n x).lastMb = s.lastMb := by unfold State.setCqx; rfl
@[simp] theorem State.setCqx_red (n : Nat) (x : CqX) : (s.setCqx n x).red = s.red := by unfold State.setCqx; rfl
@[simp] theorem State.setCqx_erm (n : Nat) (x : CqX) : (s.setCqx n x).erm = s.erm := by unfold State.setCqx; rfl
@[simp] theorem State.setCqx_ck (n : Nat) (x : CqX) : (s.setCqx n x).ck = s.ck := by unfold State.setCqx; rfl

/-! ### setRingx -/

@[simp] theorem State.setRingx_pending (n : Nat) (x : RingX) : (s.setRingx n x).pending = s.pending := by unfold State.setRingx; rfl
@[simp] theorem State.setRingx_trap (n : Nat) (x : RingX) : (s.setRingx n x).trap = s.trap := by unfold State.setRingx; rfl
@[simp] theorem State.setRingx_free (n : Nat) (x : RingX) : (s.setRingx n x).free = s.free := by unfold State.setRingx; rfl
@[simp] theorem State.setRingx_out (n : Nat) (x : RingX) : (s.setRingx n x).out = s.out := by unfold State.setRingx; rfl
@[simp] theorem State.setRingx_fuses (n : Nat) (x : RingX) : (s.setRingx n x).fuses = s.fuses := by unfold State.setRingx; rfl
@[simp] theorem State.setRingx_regs (n : Nat) (x : RingX) : (s.setRingx n x).regs = s.regs := by unfold State.setRingx; rfl
@[simp] theorem State.setRingx_portRegs (n : Nat) (x : RingX) : (s.setRingx n x).portRegs = s.portRegs := by unfold State.setRingx; rfl
@[simp] theorem State.setRingx_mem (n : Nat) (x : RingX) : (s.setRingx n x).mem = s.mem := by unfold State.setRingx; rfl
@[simp] theorem State.setRingx_errs (n : Nat) (x : RingX) : (s.setRingx n x).errs = s.errs := by unfold State.setRingx; rfl
@[simp] theorem State.setRingx_zeroAt (n : Nat) (x : RingX) : (s.setRingx n x).zeroAt = s.zeroAt := by unfold State.setRingx; rfl
@[simp] theorem State.setRingx_wear (n : Nat) (x : RingX) : (s.setRingx n x).wear = s.wear := by unfold State.setRingx; rfl
@[simp] theorem State.setRingx_scrubAge (n : Nat) (x : RingX) : (s.setRingx n x).scrubAge = s.scrubAge := by unfold State.setRingx; rfl
@[simp] theorem State.setRingx_loads (n : Nat) (x : RingX) : (s.setRingx n x).loads = s.loads := by unfold State.setRingx; rfl
@[simp] theorem State.setRingx_moved (n : Nat) (x : RingX) : (s.setRingx n x).moved = s.moved := by unfold State.setRingx; rfl
@[simp] theorem State.setRingx_cmds (n : Nat) (x : RingX) : (s.setRingx n x).cmds = s.cmds := by unfold State.setRingx; rfl
@[simp] theorem State.setRingx_spent (n : Nat) (x : RingX) : (s.setRingx n x).spent = s.spent := by unfold State.setRingx; rfl
@[simp] theorem State.setRingx_spentRun (n : Nat) (x : RingX) : (s.setRingx n x).spentRun = s.spentRun := by unfold State.setRingx; rfl
@[simp] theorem State.setRingx_rings (n : Nat) (x : RingX) : (s.setRingx n x).rings = Tab.put ringDefault s.rings n x := by unfold State.setRingx; rfl
@[simp] theorem State.setRingx_cqs (n : Nat) (x : RingX) : (s.setRingx n x).cqs = s.cqs := by unfold State.setRingx; rfl
@[simp] theorem State.setRingx_arb (n : Nat) (x : RingX) : (s.setRingx n x).arb = s.arb := by unfold State.setRingx; rfl
@[simp] theorem State.setRingx_tb (n : Nat) (x : RingX) : (s.setRingx n x).tb = s.tb := by unfold State.setRingx; rfl
@[simp] theorem State.setRingx_halls (n : Nat) (x : RingX) : (s.setRingx n x).halls = s.halls := by unfold State.setRingx; rfl
@[simp] theorem State.setRingx_safe (n : Nat) (x : RingX) : (s.setRingx n x).safe = s.safe := by unfold State.setRingx; rfl
@[simp] theorem State.setRingx_rst (n : Nat) (x : RingX) : (s.setRingx n x).rst = s.rst := by unfold State.setRingx; rfl
@[simp] theorem State.setRingx_board (n : Nat) (x : RingX) : (s.setRingx n x).board = s.board := by unfold State.setRingx; rfl
@[simp] theorem State.setRingx_fab (n : Nat) (x : RingX) : (s.setRingx n x).fab = s.fab := by unfold State.setRingx; rfl
@[simp] theorem State.setRingx_seed (n : Nat) (x : RingX) : (s.setRingx n x).seed = s.seed := by unfold State.setRingx; rfl
@[simp] theorem State.setRingx_gens (n : Nat) (x : RingX) : (s.setRingx n x).gens = s.gens := by unfold State.setRingx; rfl
@[simp] theorem State.setRingx_lastMb (n : Nat) (x : RingX) : (s.setRingx n x).lastMb = s.lastMb := by unfold State.setRingx; rfl
@[simp] theorem State.setRingx_red (n : Nat) (x : RingX) : (s.setRingx n x).red = s.red := by unfold State.setRingx; rfl
@[simp] theorem State.setRingx_erm (n : Nat) (x : RingX) : (s.setRingx n x).erm = s.erm := by unfold State.setRingx; rfl
@[simp] theorem State.setRingx_ck (n : Nat) (x : RingX) : (s.setRingx n x).ck = s.ck := by unfold State.setRingx; rfl

/-! ### mapCmd -/

@[simp] theorem State.mapCmd_pending (c : CmdId) (g : Cmd → Cmd) : (s.mapCmd c g).pending = s.pending := by unfold State.mapCmd; rfl
@[simp] theorem State.mapCmd_trap (c : CmdId) (g : Cmd → Cmd) : (s.mapCmd c g).trap = s.trap := by unfold State.mapCmd; rfl
@[simp] theorem State.mapCmd_free (c : CmdId) (g : Cmd → Cmd) : (s.mapCmd c g).free = s.free := by unfold State.mapCmd; rfl
@[simp] theorem State.mapCmd_out (c : CmdId) (g : Cmd → Cmd) : (s.mapCmd c g).out = s.out := by unfold State.mapCmd; rfl
@[simp] theorem State.mapCmd_fuses (c : CmdId) (g : Cmd → Cmd) : (s.mapCmd c g).fuses = s.fuses := by unfold State.mapCmd; rfl
@[simp] theorem State.mapCmd_regs (c : CmdId) (g : Cmd → Cmd) : (s.mapCmd c g).regs = s.regs := by unfold State.mapCmd; rfl
@[simp] theorem State.mapCmd_portRegs (c : CmdId) (g : Cmd → Cmd) : (s.mapCmd c g).portRegs = s.portRegs := by unfold State.mapCmd; rfl
@[simp] theorem State.mapCmd_mem (c : CmdId) (g : Cmd → Cmd) : (s.mapCmd c g).mem = s.mem := by unfold State.mapCmd; rfl
@[simp] theorem State.mapCmd_errs (c : CmdId) (g : Cmd → Cmd) : (s.mapCmd c g).errs = s.errs := by unfold State.mapCmd; rfl
@[simp] theorem State.mapCmd_zeroAt (c : CmdId) (g : Cmd → Cmd) : (s.mapCmd c g).zeroAt = s.zeroAt := by unfold State.mapCmd; rfl
@[simp] theorem State.mapCmd_wear (c : CmdId) (g : Cmd → Cmd) : (s.mapCmd c g).wear = s.wear := by unfold State.mapCmd; rfl
@[simp] theorem State.mapCmd_scrubAge (c : CmdId) (g : Cmd → Cmd) : (s.mapCmd c g).scrubAge = s.scrubAge := by unfold State.mapCmd; rfl
@[simp] theorem State.mapCmd_loads (c : CmdId) (g : Cmd → Cmd) : (s.mapCmd c g).loads = s.loads := by unfold State.mapCmd; rfl
@[simp] theorem State.mapCmd_moved (c : CmdId) (g : Cmd → Cmd) : (s.mapCmd c g).moved = s.moved := by unfold State.mapCmd; rfl
@[simp] theorem State.mapCmd_cmds (c : CmdId) (g : Cmd → Cmd) : (s.mapCmd c g).cmds = s.cmds.map fun m => if m.id = c then g m else m := by unfold State.mapCmd; rfl
@[simp] theorem State.mapCmd_spent (c : CmdId) (g : Cmd → Cmd) : (s.mapCmd c g).spent = s.spent := by unfold State.mapCmd; rfl
@[simp] theorem State.mapCmd_spentRun (c : CmdId) (g : Cmd → Cmd) : (s.mapCmd c g).spentRun = s.spentRun := by unfold State.mapCmd; rfl
@[simp] theorem State.mapCmd_rings (c : CmdId) (g : Cmd → Cmd) : (s.mapCmd c g).rings = s.rings := by unfold State.mapCmd; rfl
@[simp] theorem State.mapCmd_cqs (c : CmdId) (g : Cmd → Cmd) : (s.mapCmd c g).cqs = s.cqs := by unfold State.mapCmd; rfl
@[simp] theorem State.mapCmd_arb (c : CmdId) (g : Cmd → Cmd) : (s.mapCmd c g).arb = s.arb := by unfold State.mapCmd; rfl
@[simp] theorem State.mapCmd_tb (c : CmdId) (g : Cmd → Cmd) : (s.mapCmd c g).tb = s.tb := by unfold State.mapCmd; rfl
@[simp] theorem State.mapCmd_halls (c : CmdId) (g : Cmd → Cmd) : (s.mapCmd c g).halls = s.halls := by unfold State.mapCmd; rfl
@[simp] theorem State.mapCmd_safe (c : CmdId) (g : Cmd → Cmd) : (s.mapCmd c g).safe = s.safe := by unfold State.mapCmd; rfl
@[simp] theorem State.mapCmd_rst (c : CmdId) (g : Cmd → Cmd) : (s.mapCmd c g).rst = s.rst := by unfold State.mapCmd; rfl
@[simp] theorem State.mapCmd_board (c : CmdId) (g : Cmd → Cmd) : (s.mapCmd c g).board = s.board := by unfold State.mapCmd; rfl
@[simp] theorem State.mapCmd_fab (c : CmdId) (g : Cmd → Cmd) : (s.mapCmd c g).fab = s.fab := by unfold State.mapCmd; rfl
@[simp] theorem State.mapCmd_seed (c : CmdId) (g : Cmd → Cmd) : (s.mapCmd c g).seed = s.seed := by unfold State.mapCmd; rfl
@[simp] theorem State.mapCmd_gens (c : CmdId) (g : Cmd → Cmd) : (s.mapCmd c g).gens = s.gens := by unfold State.mapCmd; rfl
@[simp] theorem State.mapCmd_lastMb (c : CmdId) (g : Cmd → Cmd) : (s.mapCmd c g).lastMb = s.lastMb := by unfold State.mapCmd; rfl
@[simp] theorem State.mapCmd_red (c : CmdId) (g : Cmd → Cmd) : (s.mapCmd c g).red = s.red := by unfold State.mapCmd; rfl
@[simp] theorem State.mapCmd_erm (c : CmdId) (g : Cmd → Cmd) : (s.mapCmd c g).erm = s.erm := by unfold State.mapCmd; rfl
@[simp] theorem State.mapCmd_ck (c : CmdId) (g : Cmd → Cmd) : (s.mapCmd c g).ck = s.ck := by unfold State.mapCmd; rfl

/-! ### dropCmd -/

@[simp] theorem State.dropCmd_pending (c : CmdId) : (s.dropCmd c).pending = s.pending := by unfold State.dropCmd; rfl
@[simp] theorem State.dropCmd_trap (c : CmdId) : (s.dropCmd c).trap = s.trap := by unfold State.dropCmd; rfl
@[simp] theorem State.dropCmd_free (c : CmdId) : (s.dropCmd c).free = s.free := by unfold State.dropCmd; rfl
@[simp] theorem State.dropCmd_out (c : CmdId) : (s.dropCmd c).out = s.out := by unfold State.dropCmd; rfl
@[simp] theorem State.dropCmd_fuses (c : CmdId) : (s.dropCmd c).fuses = s.fuses := by unfold State.dropCmd; rfl
@[simp] theorem State.dropCmd_regs (c : CmdId) : (s.dropCmd c).regs = s.regs := by unfold State.dropCmd; rfl
@[simp] theorem State.dropCmd_portRegs (c : CmdId) : (s.dropCmd c).portRegs = s.portRegs := by unfold State.dropCmd; rfl
@[simp] theorem State.dropCmd_mem (c : CmdId) : (s.dropCmd c).mem = s.mem := by unfold State.dropCmd; rfl
@[simp] theorem State.dropCmd_errs (c : CmdId) : (s.dropCmd c).errs = s.errs := by unfold State.dropCmd; rfl
@[simp] theorem State.dropCmd_zeroAt (c : CmdId) : (s.dropCmd c).zeroAt = s.zeroAt := by unfold State.dropCmd; rfl
@[simp] theorem State.dropCmd_wear (c : CmdId) : (s.dropCmd c).wear = s.wear := by unfold State.dropCmd; rfl
@[simp] theorem State.dropCmd_scrubAge (c : CmdId) : (s.dropCmd c).scrubAge = s.scrubAge := by unfold State.dropCmd; rfl
@[simp] theorem State.dropCmd_loads (c : CmdId) : (s.dropCmd c).loads = s.loads := by unfold State.dropCmd; rfl
@[simp] theorem State.dropCmd_moved (c : CmdId) : (s.dropCmd c).moved = s.moved := by unfold State.dropCmd; rfl
@[simp] theorem State.dropCmd_cmds (c : CmdId) : (s.dropCmd c).cmds = s.cmds.filter fun m => decide (m.id ≠ c) := by unfold State.dropCmd; rfl
@[simp] theorem State.dropCmd_spent (c : CmdId) : (s.dropCmd c).spent = s.spent := by unfold State.dropCmd; rfl
@[simp] theorem State.dropCmd_spentRun (c : CmdId) : (s.dropCmd c).spentRun = s.spentRun := by unfold State.dropCmd; rfl
@[simp] theorem State.dropCmd_rings (c : CmdId) : (s.dropCmd c).rings = s.rings := by unfold State.dropCmd; rfl
@[simp] theorem State.dropCmd_cqs (c : CmdId) : (s.dropCmd c).cqs = s.cqs := by unfold State.dropCmd; rfl
@[simp] theorem State.dropCmd_arb (c : CmdId) : (s.dropCmd c).arb = s.arb := by unfold State.dropCmd; rfl
@[simp] theorem State.dropCmd_tb (c : CmdId) : (s.dropCmd c).tb = s.tb := by unfold State.dropCmd; rfl
@[simp] theorem State.dropCmd_halls (c : CmdId) : (s.dropCmd c).halls = s.halls := by unfold State.dropCmd; rfl
@[simp] theorem State.dropCmd_safe (c : CmdId) : (s.dropCmd c).safe = s.safe := by unfold State.dropCmd; rfl
@[simp] theorem State.dropCmd_rst (c : CmdId) : (s.dropCmd c).rst = s.rst := by unfold State.dropCmd; rfl
@[simp] theorem State.dropCmd_board (c : CmdId) : (s.dropCmd c).board = s.board := by unfold State.dropCmd; rfl
@[simp] theorem State.dropCmd_fab (c : CmdId) : (s.dropCmd c).fab = s.fab := by unfold State.dropCmd; rfl
@[simp] theorem State.dropCmd_seed (c : CmdId) : (s.dropCmd c).seed = s.seed := by unfold State.dropCmd; rfl
@[simp] theorem State.dropCmd_gens (c : CmdId) : (s.dropCmd c).gens = s.gens := by unfold State.dropCmd; rfl
@[simp] theorem State.dropCmd_lastMb (c : CmdId) : (s.dropCmd c).lastMb = s.lastMb := by unfold State.dropCmd; rfl
@[simp] theorem State.dropCmd_red (c : CmdId) : (s.dropCmd c).red = s.red := by unfold State.dropCmd; rfl
@[simp] theorem State.dropCmd_erm (c : CmdId) : (s.dropCmd c).erm = s.erm := by unfold State.dropCmd; rfl
@[simp] theorem State.dropCmd_ck (c : CmdId) : (s.dropCmd c).ck = s.ck := by unfold State.dropCmd; rfl

/-! ### poke -/

@[simp] theorem State.poke_pending (t a : Nat) (bs : List Byte) : (s.poke t a bs).pending = s.pending := by unfold State.poke; rfl
@[simp] theorem State.poke_trap (t a : Nat) (bs : List Byte) : (s.poke t a bs).trap = s.trap := by unfold State.poke; rfl
@[simp] theorem State.poke_free (t a : Nat) (bs : List Byte) : (s.poke t a bs).free = s.free := by unfold State.poke; rfl
@[simp] theorem State.poke_out (t a : Nat) (bs : List Byte) : (s.poke t a bs).out = s.out := by unfold State.poke; rfl
@[simp] theorem State.poke_fuses (t a : Nat) (bs : List Byte) : (s.poke t a bs).fuses = s.fuses := by unfold State.poke; rfl
@[simp] theorem State.poke_regs (t a : Nat) (bs : List Byte) : (s.poke t a bs).regs = s.regs := by unfold State.poke; rfl
@[simp] theorem State.poke_portRegs (t a : Nat) (bs : List Byte) : (s.poke t a bs).portRegs = s.portRegs := by unfold State.poke; rfl
@[simp] theorem State.poke_mem (t a : Nat) (bs : List Byte) : (s.poke t a bs).mem = Tab.puts memDefault s.mem (memKey t a) bs := by unfold State.poke; rfl
@[simp] theorem State.poke_errs (t a : Nat) (bs : List Byte) : (s.poke t a bs).errs = s.errs := by unfold State.poke; rfl
@[simp] theorem State.poke_zeroAt (t a : Nat) (bs : List Byte) : (s.poke t a bs).zeroAt = s.zeroAt := by unfold State.poke; rfl
@[simp] theorem State.poke_wear (t a : Nat) (bs : List Byte) : (s.poke t a bs).wear = s.wear := by unfold State.poke; rfl
@[simp] theorem State.poke_scrubAge (t a : Nat) (bs : List Byte) : (s.poke t a bs).scrubAge = s.scrubAge := by unfold State.poke; rfl
@[simp] theorem State.poke_loads (t a : Nat) (bs : List Byte) : (s.poke t a bs).loads = s.loads := by unfold State.poke; rfl
@[simp] theorem State.poke_moved (t a : Nat) (bs : List Byte) : (s.poke t a bs).moved = s.moved := by unfold State.poke; rfl
@[simp] theorem State.poke_cmds (t a : Nat) (bs : List Byte) : (s.poke t a bs).cmds = s.cmds := by unfold State.poke; rfl
@[simp] theorem State.poke_spent (t a : Nat) (bs : List Byte) : (s.poke t a bs).spent = s.spent := by unfold State.poke; rfl
@[simp] theorem State.poke_spentRun (t a : Nat) (bs : List Byte) : (s.poke t a bs).spentRun = s.spentRun := by unfold State.poke; rfl
@[simp] theorem State.poke_rings (t a : Nat) (bs : List Byte) : (s.poke t a bs).rings = s.rings := by unfold State.poke; rfl
@[simp] theorem State.poke_cqs (t a : Nat) (bs : List Byte) : (s.poke t a bs).cqs = s.cqs := by unfold State.poke; rfl
@[simp] theorem State.poke_arb (t a : Nat) (bs : List Byte) : (s.poke t a bs).arb = s.arb := by unfold State.poke; rfl
@[simp] theorem State.poke_tb (t a : Nat) (bs : List Byte) : (s.poke t a bs).tb = s.tb := by unfold State.poke; rfl
@[simp] theorem State.poke_halls (t a : Nat) (bs : List Byte) : (s.poke t a bs).halls = s.halls := by unfold State.poke; rfl
@[simp] theorem State.poke_safe (t a : Nat) (bs : List Byte) : (s.poke t a bs).safe = s.safe := by unfold State.poke; rfl
@[simp] theorem State.poke_rst (t a : Nat) (bs : List Byte) : (s.poke t a bs).rst = s.rst := by unfold State.poke; rfl
@[simp] theorem State.poke_board (t a : Nat) (bs : List Byte) : (s.poke t a bs).board = s.board := by unfold State.poke; rfl
@[simp] theorem State.poke_fab (t a : Nat) (bs : List Byte) : (s.poke t a bs).fab = s.fab := by unfold State.poke; rfl
@[simp] theorem State.poke_seed (t a : Nat) (bs : List Byte) : (s.poke t a bs).seed = s.seed := by unfold State.poke; rfl
@[simp] theorem State.poke_gens (t a : Nat) (bs : List Byte) : (s.poke t a bs).gens = s.gens := by unfold State.poke; rfl
@[simp] theorem State.poke_lastMb (t a : Nat) (bs : List Byte) : (s.poke t a bs).lastMb = s.lastMb := by unfold State.poke; rfl
@[simp] theorem State.poke_red (t a : Nat) (bs : List Byte) : (s.poke t a bs).red = s.red := by unfold State.poke; rfl
@[simp] theorem State.poke_erm (t a : Nat) (bs : List Byte) : (s.poke t a bs).erm = s.erm := by unfold State.poke; rfl
@[simp] theorem State.poke_ck (t a : Nat) (bs : List Byte) : (s.poke t a bs).ck = s.ck := by unfold State.poke; rfl

/-! ### setErr -/

@[simp] theorem State.setErr_pending (k n : Nat) : (s.setErr k n).pending = s.pending := by unfold State.setErr; rfl
@[simp] theorem State.setErr_trap (k n : Nat) : (s.setErr k n).trap = s.trap := by unfold State.setErr; rfl
@[simp] theorem State.setErr_free (k n : Nat) : (s.setErr k n).free = s.free := by unfold State.setErr; rfl
@[simp] theorem State.setErr_out (k n : Nat) : (s.setErr k n).out = s.out := by unfold State.setErr; rfl
@[simp] theorem State.setErr_fuses (k n : Nat) : (s.setErr k n).fuses = s.fuses := by unfold State.setErr; rfl
@[simp] theorem State.setErr_regs (k n : Nat) : (s.setErr k n).regs = s.regs := by unfold State.setErr; rfl
@[simp] theorem State.setErr_portRegs (k n : Nat) : (s.setErr k n).portRegs = s.portRegs := by unfold State.setErr; rfl
@[simp] theorem State.setErr_mem (k n : Nat) : (s.setErr k n).mem = s.mem := by unfold State.setErr; rfl
@[simp] theorem State.setErr_errs (k n : Nat) : (s.setErr k n).errs = Tab.put noErr s.errs k n := by unfold State.setErr; rfl
@[simp] theorem State.setErr_zeroAt (k n : Nat) : (s.setErr k n).zeroAt = s.zeroAt := by unfold State.setErr; rfl
@[simp] theorem State.setErr_wear (k n : Nat) : (s.setErr k n).wear = s.wear := by unfold State.setErr; rfl
@[simp] theorem State.setErr_scrubAge (k n : Nat) : (s.setErr k n).scrubAge = s.scrubAge := by unfold State.setErr; rfl
@[simp] theorem State.setErr_loads (k n : Nat) : (s.setErr k n).loads = s.loads := by unfold State.setErr; rfl
@[simp] theorem State.setErr_moved (k n : Nat) : (s.setErr k n).moved = s.moved := by unfold State.setErr; rfl
@[simp] theorem State.setErr_cmds (k n : Nat) : (s.setErr k n).cmds = s.cmds := by unfold State.setErr; rfl
@[simp] theorem State.setErr_spent (k n : Nat) : (s.setErr k n).spent = s.spent := by unfold State.setErr; rfl
@[simp] theorem State.setErr_spentRun (k n : Nat) : (s.setErr k n).spentRun = s.spentRun := by unfold State.setErr; rfl
@[simp] theorem State.setErr_rings (k n : Nat) : (s.setErr k n).rings = s.rings := by unfold State.setErr; rfl
@[simp] theorem State.setErr_cqs (k n : Nat) : (s.setErr k n).cqs = s.cqs := by unfold State.setErr; rfl
@[simp] theorem State.setErr_arb (k n : Nat) : (s.setErr k n).arb = s.arb := by unfold State.setErr; rfl
@[simp] theorem State.setErr_tb (k n : Nat) : (s.setErr k n).tb = s.tb := by unfold State.setErr; rfl
@[simp] theorem State.setErr_halls (k n : Nat) : (s.setErr k n).halls = s.halls := by unfold State.setErr; rfl
@[simp] theorem State.setErr_safe (k n : Nat) : (s.setErr k n).safe = s.safe := by unfold State.setErr; rfl
@[simp] theorem State.setErr_rst (k n : Nat) : (s.setErr k n).rst = s.rst := by unfold State.setErr; rfl
@[simp] theorem State.setErr_board (k n : Nat) : (s.setErr k n).board = s.board := by unfold State.setErr; rfl
@[simp] theorem State.setErr_fab (k n : Nat) : (s.setErr k n).fab = s.fab := by unfold State.setErr; rfl
@[simp] theorem State.setErr_seed (k n : Nat) : (s.setErr k n).seed = s.seed := by unfold State.setErr; rfl
@[simp] theorem State.setErr_gens (k n : Nat) : (s.setErr k n).gens = s.gens := by unfold State.setErr; rfl
@[simp] theorem State.setErr_lastMb (k n : Nat) : (s.setErr k n).lastMb = s.lastMb := by unfold State.setErr; rfl
@[simp] theorem State.setErr_red (k n : Nat) : (s.setErr k n).red = s.red := by unfold State.setErr; rfl
@[simp] theorem State.setErr_erm (k n : Nat) : (s.setErr k n).erm = s.erm := by unfold State.setErr; rfl
@[simp] theorem State.setErr_ck (k n : Nat) : (s.setErr k n).ck = s.ck := by unfold State.setErr; rfl

/-! ### noAddr -/

@[simp] theorem State.noAddr_pending (t a : Nat) : (s.noAddr t a).pending = s.pending := by unfold State.noAddr; rfl
@[simp] theorem State.noAddr_trap (t a : Nat) : (s.noAddr t a).trap = (s.trap <|> some (.noSuchAddress t a)) := by unfold State.noAddr; rfl
@[simp] theorem State.noAddr_free (t a : Nat) : (s.noAddr t a).free = s.free := by unfold State.noAddr; rfl
@[simp] theorem State.noAddr_out (t a : Nat) : (s.noAddr t a).out = s.out := by unfold State.noAddr; rfl
@[simp] theorem State.noAddr_fuses (t a : Nat) : (s.noAddr t a).fuses = s.fuses := by unfold State.noAddr; rfl
@[simp] theorem State.noAddr_regs (t a : Nat) : (s.noAddr t a).regs = s.regs := by unfold State.noAddr; rfl
@[simp] theorem State.noAddr_portRegs (t a : Nat) : (s.noAddr t a).portRegs = s.portRegs := by unfold State.noAddr; rfl
@[simp] theorem State.noAddr_mem (t a : Nat) : (s.noAddr t a).mem = s.mem := by unfold State.noAddr; rfl
@[simp] theorem State.noAddr_errs (t a : Nat) : (s.noAddr t a).errs = s.errs := by unfold State.noAddr; rfl
@[simp] theorem State.noAddr_zeroAt (t a : Nat) : (s.noAddr t a).zeroAt = s.zeroAt := by unfold State.noAddr; rfl
@[simp] theorem State.noAddr_wear (t a : Nat) : (s.noAddr t a).wear = s.wear := by unfold State.noAddr; rfl
@[simp] theorem State.noAddr_scrubAge (t a : Nat) : (s.noAddr t a).scrubAge = s.scrubAge := by unfold State.noAddr; rfl
@[simp] theorem State.noAddr_loads (t a : Nat) : (s.noAddr t a).loads = s.loads := by unfold State.noAddr; rfl
@[simp] theorem State.noAddr_moved (t a : Nat) : (s.noAddr t a).moved = s.moved := by unfold State.noAddr; rfl
@[simp] theorem State.noAddr_cmds (t a : Nat) : (s.noAddr t a).cmds = s.cmds := by unfold State.noAddr; rfl
@[simp] theorem State.noAddr_spent (t a : Nat) : (s.noAddr t a).spent = s.spent := by unfold State.noAddr; rfl
@[simp] theorem State.noAddr_spentRun (t a : Nat) : (s.noAddr t a).spentRun = s.spentRun := by unfold State.noAddr; rfl
@[simp] theorem State.noAddr_rings (t a : Nat) : (s.noAddr t a).rings = s.rings := by unfold State.noAddr; rfl
@[simp] theorem State.noAddr_cqs (t a : Nat) : (s.noAddr t a).cqs = s.cqs := by unfold State.noAddr; rfl
@[simp] theorem State.noAddr_arb (t a : Nat) : (s.noAddr t a).arb = s.arb := by unfold State.noAddr; rfl
@[simp] theorem State.noAddr_tb (t a : Nat) : (s.noAddr t a).tb = s.tb := by unfold State.noAddr; rfl
@[simp] theorem State.noAddr_halls (t a : Nat) : (s.noAddr t a).halls = s.halls := by unfold State.noAddr; rfl
@[simp] theorem State.noAddr_safe (t a : Nat) : (s.noAddr t a).safe = s.safe := by unfold State.noAddr; rfl
@[simp] theorem State.noAddr_rst (t a : Nat) : (s.noAddr t a).rst = s.rst := by unfold State.noAddr; rfl
@[simp] theorem State.noAddr_board (t a : Nat) : (s.noAddr t a).board = s.board := by unfold State.noAddr; rfl
@[simp] theorem State.noAddr_fab (t a : Nat) : (s.noAddr t a).fab = s.fab := by unfold State.noAddr; rfl
@[simp] theorem State.noAddr_seed (t a : Nat) : (s.noAddr t a).seed = s.seed := by unfold State.noAddr; rfl
@[simp] theorem State.noAddr_gens (t a : Nat) : (s.noAddr t a).gens = s.gens := by unfold State.noAddr; rfl
@[simp] theorem State.noAddr_lastMb (t a : Nat) : (s.noAddr t a).lastMb = s.lastMb := by unfold State.noAddr; rfl
@[simp] theorem State.noAddr_red (t a : Nat) : (s.noAddr t a).red = s.red := by unfold State.noAddr; rfl
@[simp] theorem State.noAddr_erm (t a : Nat) : (s.noAddr t a).erm = s.erm := by unfold State.noAddr; rfl
@[simp] theorem State.noAddr_ck (t a : Nat) : (s.noAddr t a).ck = s.ck := by unfold State.noAddr; rfl

/-! ### send -/

@[simp] theorem State.send_pending (p : Pkt) : (s.send p).pending = s.pending := by unfold State.send; rfl
@[simp] theorem State.send_trap (p : Pkt) : (s.send p).trap = s.trap := by unfold State.send; rfl
@[simp] theorem State.send_free (p : Pkt) : (s.send p).free = s.free := by unfold State.send; rfl
@[simp] theorem State.send_out (p : Pkt) : (s.send p).out = s.out := by unfold State.send; rfl
@[simp] theorem State.send_fuses (p : Pkt) : (s.send p).fuses = s.fuses := by unfold State.send; rfl
@[simp] theorem State.send_regs (p : Pkt) : (s.send p).regs = s.regs := by unfold State.send; rfl
@[simp] theorem State.send_portRegs (p : Pkt) : (s.send p).portRegs = s.portRegs := by unfold State.send; rfl
@[simp] theorem State.send_mem (p : Pkt) : (s.send p).mem = s.mem := by unfold State.send; rfl
@[simp] theorem State.send_errs (p : Pkt) : (s.send p).errs = s.errs := by unfold State.send; rfl
@[simp] theorem State.send_zeroAt (p : Pkt) : (s.send p).zeroAt = s.zeroAt := by unfold State.send; rfl
@[simp] theorem State.send_wear (p : Pkt) : (s.send p).wear = s.wear := by unfold State.send; rfl
@[simp] theorem State.send_scrubAge (p : Pkt) : (s.send p).scrubAge = s.scrubAge := by unfold State.send; rfl
@[simp] theorem State.send_loads (p : Pkt) : (s.send p).loads = s.loads := by unfold State.send; rfl
@[simp] theorem State.send_moved (p : Pkt) : (s.send p).moved = s.moved := by unfold State.send; rfl
@[simp] theorem State.send_cmds (p : Pkt) : (s.send p).cmds = s.cmds := by unfold State.send; rfl
@[simp] theorem State.send_spent (p : Pkt) : (s.send p).spent = s.spent := by unfold State.send; rfl
@[simp] theorem State.send_spentRun (p : Pkt) : (s.send p).spentRun = s.spentRun := by unfold State.send; rfl
@[simp] theorem State.send_rings (p : Pkt) : (s.send p).rings = s.rings := by unfold State.send; rfl
@[simp] theorem State.send_cqs (p : Pkt) : (s.send p).cqs = s.cqs := by unfold State.send; rfl
@[simp] theorem State.send_arb (p : Pkt) : (s.send p).arb = s.arb := by unfold State.send; rfl
@[simp] theorem State.send_tb (p : Pkt) : (s.send p).tb = s.tb := by unfold State.send; rfl
@[simp] theorem State.send_halls (p : Pkt) : (s.send p).halls = s.halls := by unfold State.send; rfl
@[simp] theorem State.send_safe (p : Pkt) : (s.send p).safe = s.safe := by unfold State.send; rfl
@[simp] theorem State.send_rst (p : Pkt) : (s.send p).rst = s.rst := by unfold State.send; rfl
@[simp] theorem State.send_board (p : Pkt) : (s.send p).board = s.board := by unfold State.send; rfl
@[simp] theorem State.send_seed (p : Pkt) : (s.send p).seed = s.seed := by unfold State.send; rfl
@[simp] theorem State.send_gens (p : Pkt) : (s.send p).gens = s.gens := by unfold State.send; rfl
@[simp] theorem State.send_lastMb (p : Pkt) : (s.send p).lastMb = s.lastMb := by unfold State.send; rfl
@[simp] theorem State.send_red (p : Pkt) : (s.send p).red = s.red := by unfold State.send; rfl
@[simp] theorem State.send_erm (p : Pkt) : (s.send p).erm = s.erm := by unfold State.send; rfl
@[simp] theorem State.send_ck (p : Pkt) : (s.send p).ck = s.ck := by unfold State.send; rfl

/-! ### sendAll -/

@[simp] theorem State.sendAll_pending (ps : List Pkt) : (s.sendAll ps).pending = s.pending := by unfold State.sendAll; rfl
@[simp] theorem State.sendAll_trap (ps : List Pkt) : (s.sendAll ps).trap = s.trap := by unfold State.sendAll; rfl
@[simp] theorem State.sendAll_free (ps : List Pkt) : (s.sendAll ps).free = s.free := by unfold State.sendAll; rfl
@[simp] theorem State.sendAll_out (ps : List Pkt) : (s.sendAll ps).out = s.out := by unfold State.sendAll; rfl
@[simp] theorem State.sendAll_fuses (ps : List Pkt) : (s.sendAll ps).fuses = s.fuses := by unfold State.sendAll; rfl
@[simp] theorem State.sendAll_regs (ps : List Pkt) : (s.sendAll ps).regs = s.regs := by unfold State.sendAll; rfl
@[simp] theorem State.sendAll_portRegs (ps : List Pkt) : (s.sendAll ps).portRegs = s.portRegs := by unfold State.sendAll; rfl
@[simp] theorem State.sendAll_mem (ps : List Pkt) : (s.sendAll ps).mem = s.mem := by unfold State.sendAll; rfl
@[simp] theorem State.sendAll_errs (ps : List Pkt) : (s.sendAll ps).errs = s.errs := by unfold State.sendAll; rfl
@[simp] theorem State.sendAll_zeroAt (ps : List Pkt) : (s.sendAll ps).zeroAt = s.zeroAt := by unfold State.sendAll; rfl
@[simp] theorem State.sendAll_wear (ps : List Pkt) : (s.sendAll ps).wear = s.wear := by unfold State.sendAll; rfl
@[simp] theorem State.sendAll_scrubAge (ps : List Pkt) : (s.sendAll ps).scrubAge = s.scrubAge := by unfold State.sendAll; rfl
@[simp] theorem State.sendAll_loads (ps : List Pkt) : (s.sendAll ps).loads = s.loads := by unfold State.sendAll; rfl
@[simp] theorem State.sendAll_moved (ps : List Pkt) : (s.sendAll ps).moved = s.moved := by unfold State.sendAll; rfl
@[simp] theorem State.sendAll_cmds (ps : List Pkt) : (s.sendAll ps).cmds = s.cmds := by unfold State.sendAll; rfl
@[simp] theorem State.sendAll_spent (ps : List Pkt) : (s.sendAll ps).spent = s.spent := by unfold State.sendAll; rfl
@[simp] theorem State.sendAll_spentRun (ps : List Pkt) : (s.sendAll ps).spentRun = s.spentRun := by unfold State.sendAll; rfl
@[simp] theorem State.sendAll_rings (ps : List Pkt) : (s.sendAll ps).rings = s.rings := by unfold State.sendAll; rfl
@[simp] theorem State.sendAll_cqs (ps : List Pkt) : (s.sendAll ps).cqs = s.cqs := by unfold State.sendAll; rfl
@[simp] theorem State.sendAll_arb (ps : List Pkt) : (s.sendAll ps).arb = s.arb := by unfold State.sendAll; rfl
@[simp] theorem State.sendAll_tb (ps : List Pkt) : (s.sendAll ps).tb = s.tb := by unfold State.sendAll; rfl
@[simp] theorem State.sendAll_halls (ps : List Pkt) : (s.sendAll ps).halls = s.halls := by unfold State.sendAll; rfl
@[simp] theorem State.sendAll_safe (ps : List Pkt) : (s.sendAll ps).safe = s.safe := by unfold State.sendAll; rfl
@[simp] theorem State.sendAll_rst (ps : List Pkt) : (s.sendAll ps).rst = s.rst := by unfold State.sendAll; rfl
@[simp] theorem State.sendAll_board (ps : List Pkt) : (s.sendAll ps).board = s.board := by unfold State.sendAll; rfl
@[simp] theorem State.sendAll_seed (ps : List Pkt) : (s.sendAll ps).seed = s.seed := by unfold State.sendAll; rfl
@[simp] theorem State.sendAll_gens (ps : List Pkt) : (s.sendAll ps).gens = s.gens := by unfold State.sendAll; rfl
@[simp] theorem State.sendAll_lastMb (ps : List Pkt) : (s.sendAll ps).lastMb = s.lastMb := by unfold State.sendAll; rfl
@[simp] theorem State.sendAll_red (ps : List Pkt) : (s.sendAll ps).red = s.red := by unfold State.sendAll; rfl
@[simp] theorem State.sendAll_erm (ps : List Pkt) : (s.sendAll ps).erm = s.erm := by unfold State.sendAll; rfl
@[simp] theorem State.sendAll_ck (ps : List Pkt) : (s.sendAll ps).ck = s.ck := by unfold State.sendAll; rfl

end Sys2Proof.Machine
end

