-- ==== Sys2Proof/Laws/Tab.lean ====
section
/-! SUPPORT. What reading and writing a sparse map do, and that writing keeps the canonical form. -/

namespace Sys2Proof.Machine

set_option linter.unusedSectionVars false

variable {α : Type} [DecidableEq α] {d : Nat → α}

theorem Tab.get_del_same (t : Tab α) (k : Nat) : Tab.get d (Tab.del t k) k = d k := by
  induction t with
  | nil => rfl
  | cons p t ih => obtain ⟨j, a⟩ := p; by_cases h : j = k <;> simp [Tab.del, Tab.get, h, ih]

theorem Tab.get_del_other (t : Tab α) {k j : Nat} (h : j ≠ k) :
    Tab.get d (Tab.del t k) j = Tab.get d t j := by
  induction t with
  | nil => rfl
  | cons p t ih =>
    obtain ⟨i, a⟩ := p
    by_cases hk : i = k
    · subst hk; simp [Tab.del, Tab.get, ih, Ne.symm h]
    · by_cases hj : i = j
      · subst hj; simp [Tab.del, Tab.get, hk]
      · simp [Tab.del, Tab.get, hk, hj, ih]

theorem Tab.get_ins_other (t : Tab α) {k j : Nat} (v : α) (h : j ≠ k) :
    Tab.get d (Tab.ins t k v) j = Tab.get d t j := by
  induction t with
  | nil => simp [Tab.ins, Tab.get, Ne.symm h]
  | cons p t ih =>
    obtain ⟨i, a⟩ := p
    by_cases hk : k < i
    · simp [Tab.ins, Tab.get, hk, Ne.symm h]
    · by_cases hj : i = j
      · subst hj; simp [Tab.ins, Tab.get, hk]
      · simp [Tab.ins, Tab.get, hk, hj, ih]

/-- No key of the list is `k`. -/
def Tab.free (t : Tab α) (k : Nat) : Prop := ∀ p ∈ t, p.1 ≠ k

theorem Tab.free_del (t : Tab α) (k : Nat) : Tab.free (Tab.del t k) k := by
  induction t with
  | nil => simp [Tab.del, Tab.free]
  | cons p t ih =>
    obtain ⟨j, a⟩ := p
    by_cases h : j = k
    · simpa [Tab.del, h] using ih
    · intro q hq; simp only [Tab.del, h, if_false, List.mem_cons] at hq
      rcases hq with rfl | hq
      · exact h
      · exact ih q hq

theorem Tab.get_ins_same (t : Tab α) (k : Nat) (v : α) (h : Tab.free t k) :
    Tab.get d (Tab.ins t k v) k = v := by
  induction t with
  | nil => simp [Tab.ins, Tab.get]
  | cons p t ih =>
    obtain ⟨i, a⟩ := p
    have hi : i ≠ k := h (i, a) (by simp)
    by_cases hk : k < i
    · simp [Tab.ins, Tab.get, hk]
    · simp [Tab.ins, Tab.get, hk, hi]
      exact ih fun q hq => h q (by simp [hq])

@[simp] theorem Tab.get_put_same (t : Tab α) (k : Nat) (v : α) : Tab.get d (Tab.put d t k v) k = v := by
  unfold Tab.put
  split
  · rw [Tab.get_del_same]; exact (by assumption : v = d k).symm
  · exact Tab.get_ins_same _ _ _ (Tab.free_del t k)

theorem Tab.get_put_other (t : Tab α) {k j : Nat} (v : α) (h : j ≠ k) :
    Tab.get d (Tab.put d t k v) j = Tab.get d t j := by
  unfold Tab.put
  split
  · exact Tab.get_del_other t h
  · rw [Tab.get_ins_other _ _ h]; exact Tab.get_del_other t h

theorem Tab.get_put (t : Tab α) (k j : Nat) (v : α) :
    Tab.get d (Tab.put d t k v) j = if j = k then v else Tab.get d t j := by
  by_cases h : j = k
  · subst h; simp
  · simp [h, Tab.get_put_other]

theorem Tab.above_mono {lo lo' : Nat} (h : lo ≤ lo') (t : Tab α) (ht : Tab.above d lo' t = true) :
    Tab.above d lo t = true := by
  cases t with
  | nil => rfl
  | cons p t =>
    obtain ⟨j, a⟩ := p
    simp only [Tab.above, Bool.and_eq_true, decide_eq_true_eq] at ht ⊢
    exact ⟨⟨by omega, ht.1.2⟩, ht.2⟩

theorem Tab.above_del (t : Tab α) (k lo : Nat) (ht : Tab.above d lo t = true) :
    Tab.above d lo (Tab.del t k) = true := by
  induction t generalizing lo with
  | nil => exact ht
  | cons p t ih =>
    obtain ⟨j, a⟩ := p
    simp only [Tab.above, Bool.and_eq_true, decide_eq_true_eq] at ht
    by_cases h : j = k
    · simp only [Tab.del, h, if_true]
      exact Tab.above_mono (by omega) _ (ih (j + 1) ht.2)
    · simp only [Tab.del, h, if_false, Tab.above, Bool.and_eq_true, decide_eq_true_eq]
      exact ⟨ht.1, ih _ ht.2⟩

theorem Tab.above_ins (t : Tab α) (k lo : Nat) (v : α) (hv : v ≠ d k) (hk : lo ≤ k) (hf : Tab.free t k)
    (ht : Tab.above d lo t = true) : Tab.above d lo (Tab.ins t k v) = true := by
  induction t generalizing lo with
  | nil => simp [Tab.ins, Tab.above, hv, hk]
  | cons p t ih =>
    obtain ⟨j, a⟩ := p
    have hj : j ≠ k := hf (j, a) (by simp)
    simp only [Tab.above, Bool.and_eq_true, decide_eq_true_eq] at ht
    by_cases h : k < j
    · simp only [Tab.ins, h, if_true, Tab.above, Bool.and_eq_true, decide_eq_true_eq]
      exact ⟨⟨hk, hv⟩, ⟨by omega, ht.1.2⟩, ht.2⟩
    · simp only [Tab.ins, h, if_false, Tab.above, Bool.and_eq_true, decide_eq_true_eq]
      exact ⟨ht.1, ih _ (by omega) (fun q hq => hf q (by simp [hq])) ht.2⟩

/-- Writing keeps the canonical form. -/
theorem Tab.wf_put (t : Tab α) (k : Nat) (v : α) (ht : Tab.wf d t = true) : Tab.wf d (Tab.put d t k v) = true := by
  unfold Tab.put
  split
  · exact Tab.above_del t k 0 ht
  · exact Tab.above_ins _ k 0 v (by assumption) (Nat.zero_le _) (Tab.free_del t k) (Tab.above_del t k 0 ht)

theorem Tab.wf_puts (vs : List α) (t : Tab α) (k : Nat) (ht : Tab.wf d t = true) :
    Tab.wf d (Tab.puts d t k vs) = true := by
  induction vs generalizing t k with
  | nil => exact ht
  | cons v vs ih => exact ih _ _ (Tab.wf_put t k v ht)

theorem Tab.get_puts_below (vs : List α) (t : Tab α) (k j : Nat) (h : j < k) :
    Tab.get d (Tab.puts d t k vs) j = Tab.get d t j := by
  induction vs generalizing t k with
  | nil => rfl
  | cons v vs ih =>
    simp only [Tab.puts]
    rw [ih _ _ (by omega), Tab.get_put_other _ _ (by omega)]

/-- What a run of writes leaves at every key. -/
theorem Tab.get_puts (vs : List α) (t : Tab α) (k j : Nat) :
    Tab.get d (Tab.puts d t k vs) j = if h : k ≤ j ∧ j < k + vs.length then vs[j - k]'(by omega) else Tab.get d t j := by
  induction vs generalizing t k with
  | nil => simp [Tab.puts]
  | cons v vs ih =>
    simp only [Tab.puts]
    by_cases hj : j = k
    · subst hj
      rw [Tab.get_puts_below _ _ _ _ (by omega)]; simp
    · rw [ih, Tab.get_put_other _ _ hj]
      by_cases h1 : k + 1 ≤ j ∧ j < k + 1 + vs.length
      · have h2 : k ≤ j ∧ j < k + (v :: vs).length := by simp; omega
        rw [dif_pos h1, dif_pos h2]
        obtain ⟨m, hm⟩ : ∃ m, j - k = m + 1 := ⟨j - k - 1, by omega⟩
        have h3 : j - (k + 1) = m := by omega
        simp only [hm, h3, List.getElem_cons_succ]
      · have h2 : ¬ (k ≤ j ∧ j < k + (v :: vs).length) := by simp; omega
        rw [dif_neg h1, dif_neg h2]

end Sys2Proof.Machine
end

