-- ==== Sys2Proof/Laws/Regs.lean ====
section
/-! SUPPORT. What reads of registers and fields give after writes. -/

namespace Sys2Proof.Machine

/-! ### Bits of a word -/

theorem bits_lt (w : W) (hi lo : Nat) : bits w hi lo < 2 ^ (hi + 1 - lo) := Nat.mod_lt _ (Nat.two_pow_pos _)

/-- The number under a replaced field stays a word. -/
theorem setBits_bound (w : W) (hi lo v : Nat) (h : lo ≤ hi) (h32 : hi < 32) :
    w.toNat / 2 ^ (hi + 1) * 2 ^ (hi + 1) + v % 2 ^ (hi + 1 - lo) * 2 ^ lo + w.toNat % 2 ^ lo < 2 ^ 32 := by
  have e : 2 ^ (hi + 1) = 2 ^ (hi + 1 - lo) * 2 ^ lo := by rw [← Nat.pow_add]; congr 1; omega
  have e2 : 2 ^ 32 = 2 ^ (31 - hi) * 2 ^ (hi + 1) := by rw [← Nat.pow_add]; congr 1; omega
  have hv : v % 2 ^ (hi + 1 - lo) < 2 ^ (hi + 1 - lo) := Nat.mod_lt _ (Nat.two_pow_pos _)
  have hw : w.toNat % 2 ^ lo < 2 ^ lo := Nat.mod_lt _ (Nat.two_pow_pos _)
  have hq : w.toNat / 2 ^ (hi + 1) < 2 ^ (31 - hi) := Nat.div_lt_of_lt_mul (by
    rw [Nat.mul_comm, ← e2]; exact w.isLt)
  have h1 : v % 2 ^ (hi + 1 - lo) * 2 ^ lo + w.toNat % 2 ^ lo < 2 ^ (hi + 1) := by
    calc v % 2 ^ (hi + 1 - lo) * 2 ^ lo + w.toNat % 2 ^ lo
        < v % 2 ^ (hi + 1 - lo) * 2 ^ lo + 2 ^ lo := by omega
      _ = (v % 2 ^ (hi + 1 - lo) + 1) * 2 ^ lo := by ring
      _ ≤ 2 ^ (hi + 1 - lo) * 2 ^ lo := Nat.mul_le_mul_right _ hv
      _ = 2 ^ (hi + 1) := e.symm
  calc w.toNat / 2 ^ (hi + 1) * 2 ^ (hi + 1) + v % 2 ^ (hi + 1 - lo) * 2 ^ lo + w.toNat % 2 ^ lo
      < w.toNat / 2 ^ (hi + 1) * 2 ^ (hi + 1) + 2 ^ (hi + 1) := by omega
    _ = (w.toNat / 2 ^ (hi + 1) + 1) * 2 ^ (hi + 1) := by ring
    _ ≤ 2 ^ (31 - hi) * 2 ^ (hi + 1) := Nat.mul_le_mul_right _ hq
    _ = 2 ^ 32 := e2.symm

theorem toNat_setBits (w : W) (hi lo v : Nat) (h : lo ≤ hi) (h32 : hi < 32) :
    (setBits w hi lo v).toNat =
      w.toNat / 2 ^ (hi + 1) * 2 ^ (hi + 1) + v % 2 ^ (hi + 1 - lo) * 2 ^ lo + w.toNat % 2 ^ lo := by
  rw [setBits, BitVec.toNat_ofNat, Nat.mod_eq_of_lt (setBits_bound w hi lo v h h32)]

/-- A field reads what was put into it. -/
theorem bits_setBits_same (w : W) (hi lo v : Nat) (h : lo ≤ hi) (h32 : hi < 32) :
    bits (setBits w hi lo v) hi lo = v % 2 ^ (hi + 1 - lo) := by
  have e : 2 ^ (hi + 1) = 2 ^ (hi + 1 - lo) * 2 ^ lo := by rw [← Nat.pow_add]; congr 1; omega
  have hw : w.toNat % 2 ^ lo < 2 ^ lo := Nat.mod_lt _ (Nat.two_pow_pos _)
  have hd : (w.toNat / 2 ^ (hi + 1) * 2 ^ (hi + 1) + v % 2 ^ (hi + 1 - lo) * 2 ^ lo + w.toNat % 2 ^ lo) / 2 ^ lo
      = w.toNat / 2 ^ (hi + 1) * 2 ^ (hi + 1 - lo) + v % 2 ^ (hi + 1 - lo) := by
    have : w.toNat / 2 ^ (hi + 1) * 2 ^ (hi + 1) + v % 2 ^ (hi + 1 - lo) * 2 ^ lo + w.toNat % 2 ^ lo
        = w.toNat % 2 ^ lo + 2 ^ lo * (w.toNat / 2 ^ (hi + 1) * 2 ^ (hi + 1 - lo) + v % 2 ^ (hi + 1 - lo)) := by
      rw [e]; ring
    rw [this, Nat.add_mul_div_left _ _ (Nat.two_pow_pos _), Nat.div_eq_of_lt hw, Nat.zero_add]
  rw [bits, toNat_setBits w hi lo v h h32, hd, Nat.add_comm, Nat.add_mul_mod_self_right, Nat.mod_mod]

theorem bits_eq_of_div (w u : W) (hi lo : Nat) (h : w.toNat / 2 ^ lo = u.toNat / 2 ^ lo) : bits w hi lo = bits u hi lo := by
  rw [bits, bits, h]

/-- A field above the replaced one stays. -/
theorem bits_setBits_above (w : W) (hi lo v a b : Nat) (h : lo ≤ hi) (h32 : hi < 32) (hb : hi < b) :
    bits (setBits w hi lo v) a b = bits w a b := by
  apply bits_eq_of_div
  have hv : v % 2 ^ (hi + 1 - lo) < 2 ^ (hi + 1 - lo) := Nat.mod_lt _ (Nat.two_pow_pos _)
  have hw : w.toNat % 2 ^ lo < 2 ^ lo := Nat.mod_lt _ (Nat.two_pow_pos _)
  have e : 2 ^ (hi + 1) = 2 ^ (hi + 1 - lo) * 2 ^ lo := by rw [← Nat.pow_add]; congr 1; omega
  have eb : 2 ^ b = 2 ^ (hi + 1) * 2 ^ (b - (hi + 1)) := by rw [← Nat.pow_add]; congr 1; omega
  have h1 : v % 2 ^ (hi + 1 - lo) * 2 ^ lo + w.toNat % 2 ^ lo < 2 ^ (hi + 1) := by
    calc v % 2 ^ (hi + 1 - lo) * 2 ^ lo + w.toNat % 2 ^ lo
        < v % 2 ^ (hi + 1 - lo) * 2 ^ lo + 2 ^ lo := by omega
      _ = (v % 2 ^ (hi + 1 - lo) + 1) * 2 ^ lo := by ring
      _ ≤ 2 ^ (hi + 1 - lo) * 2 ^ lo := Nat.mul_le_mul_right _ hv
      _ = 2 ^ (hi + 1) := e.symm
  rw [toNat_setBits w hi lo v h h32, eb, ← Nat.div_div_eq_div_mul, ← Nat.div_div_eq_div_mul]
  congr 1
  have : w.toNat / 2 ^ (hi + 1) * 2 ^ (hi + 1) + v % 2 ^ (hi + 1 - lo) * 2 ^ lo + w.toNat % 2 ^ lo
      = (v % 2 ^ (hi + 1 - lo) * 2 ^ lo + w.toNat % 2 ^ lo) + 2 ^ (hi + 1) * (w.toNat / 2 ^ (hi + 1)) := by ring
  rw [this, Nat.add_mul_div_left _ _ (Nat.two_pow_pos _), Nat.div_eq_of_lt h1, Nat.zero_add]

/-- A field below the replaced one stays. -/
theorem bits_setBits_below (w : W) (hi lo v a b : Nat) (h : lo ≤ hi) (h32 : hi < 32) (hba : b ≤ a) (ha : a < lo) :
    bits (setBits w hi lo v) a b = bits w a b := by
  have e : 2 ^ (hi + 1) = 2 ^ (hi + 1 - lo) * 2 ^ lo := by rw [← Nat.pow_add]; congr 1; omega
  have hm : (setBits w hi lo v).toNat % 2 ^ lo = w.toNat % 2 ^ lo := by
    rw [toNat_setBits w hi lo v h h32]
    have : w.toNat / 2 ^ (hi + 1) * 2 ^ (hi + 1) + v % 2 ^ (hi + 1 - lo) * 2 ^ lo + w.toNat % 2 ^ lo
        = w.toNat % 2 ^ lo + 2 ^ lo * (w.toNat / 2 ^ (hi + 1) * 2 ^ (hi + 1 - lo) + v % 2 ^ (hi + 1 - lo)) := by
      rw [e]; ring
    rw [this, Nat.add_mul_mod_self_left, Nat.mod_mod]
  have key : ∀ x : Nat, x / 2 ^ b % 2 ^ (a + 1 - b) = x % 2 ^ lo / 2 ^ b % 2 ^ (a + 1 - b) := by
    intro x
    have hp : 2 ^ lo = 2 ^ b * 2 ^ (a + 1 - b) * 2 ^ (lo - (a + 1)) := by
      rw [← Nat.pow_add, ← Nat.pow_add]; congr 1; omega
    rw [hp, Nat.mul_assoc, Nat.mod_mul_right_div_self, Nat.mod_mul_right_mod]
  rw [bits, bits, key, hm, ← key]

/-! ### Registers -/

@[simp] theorem State.reg_setReg_same (s : State) (o : Nat) (v : W) : (s.setReg o v).reg o = v := by
  simp [State.reg]

theorem State.reg_setReg_other (s : State) {o p : Nat} (v : W) (h : p ≠ o) : (s.setReg o v).reg p = s.reg p := by
  simp [State.reg, Tab.get_put_other _ _ h]

theorem State.reg_of_regs {s t : State} (h : t.regs = s.regs) (o : Nat) : t.reg o = s.reg o := by
  simp [State.reg, h]

theorem State.fld_of_regs {s t : State} (h : t.regs = s.regs) (f : Fld) : t.fld f = s.fld f := by
  simp [State.fld, State.reg_of_regs h]

theorem State.flag_of_regs {s t : State} (h : t.regs = s.regs) (f : Fld) : t.flag f = s.flag f := by
  simp [State.flag, State.fld_of_regs h]

theorem State.reg64_of_regs {s t : State} (h : t.regs = s.regs) (a b : Nat) : t.reg64 a b = s.reg64 a b := by
  simp [State.reg64, State.reg_of_regs h]

/-- A field of another register stays. -/
theorem State.fld_setReg_other (s : State) {o : Nat} (v : W) {f : Fld} (h : f.off ≠ o) : (s.setReg o v).fld f = s.fld f := by
  simp [State.fld, State.reg_setReg_other s v h]

theorem State.reg_setFld_other (s : State) {f : Fld} {p : Nat} (v : Nat) (h : p ≠ f.off) : (s.setFld f v).reg p = s.reg p :=
  State.reg_setReg_other s _ h

theorem State.fld_setFld_other (s : State) {f g : Fld} (v : Nat) (h : g.off ≠ f.off) : (s.setFld f v).fld g = s.fld g :=
  State.fld_setReg_other s _ h

theorem State.fld_setFld_same (s : State) (f : Fld) (v : Nat) (h : f.lo ≤ f.hi) (h32 : f.hi < 32) :
    (s.setFld f v).fld f = v % 2 ^ (f.hi + 1 - f.lo) := by
  simp [State.fld, State.setFld, bits_setBits_same _ _ _ _ h h32]

/-- A field of the same register beside the one written stays. -/
theorem State.fld_setFld_beside (s : State) (f g : Fld) (v : Nat) (hf : f.lo ≤ f.hi) (h32 : f.hi < 32) (hg : g.lo ≤ g.hi)
    (ho : g.off = f.off) (h : g.hi < f.lo ∨ f.hi < g.lo) : (s.setFld f v).fld g = s.fld g := by
  simp only [State.fld, State.setFld, ho, State.reg_setReg_same]
  rcases h with h | h
  · exact bits_setBits_below _ _ _ _ _ _ hf h32 hg h
  · exact bits_setBits_above _ _ _ _ _ _ hf h32 h

/-- A count that goes up: it saturates at its field's largest value. -/
theorem State.fld_bump_same (s : State) (f : Fld) (n : Nat) (h : f.lo ≤ f.hi) (h32 : f.hi < 32) :
    (s.bump f n).fld f = min (s.fld f + n) (2 ^ (f.hi + 1 - f.lo) - 1) := by
  rw [State.bump, State.fld_setFld_same s f _ h h32]
  apply Nat.mod_eq_of_lt
  have := Nat.two_pow_pos (f.hi + 1 - f.lo)
  omega

theorem State.fld_bump_other (s : State) {f g : Fld} (n : Nat) (h : g.off ≠ f.off) : (s.bump f n).fld g = s.fld g :=
  State.fld_setFld_other s _ h

theorem State.reg_bump_other (s : State) {f : Fld} {p : Nat} (n : Nat) (h : p ≠ f.off) : (s.bump f n).reg p = s.reg p :=
  State.reg_setFld_other s _ h

/-! ### Clears -/

/-- Everything a clear does: the listed registers read 0, the others stay, and so does the rest of the state. -/
theorem State.reg_clear (s : State) (l : List Nat) (o : Nat) : (s.clear l).reg o = if o ∈ l then 0 else s.reg o := by
  induction l generalizing s with
  | nil => simp [State.clear]
  | cons p l ih =>
    rw [State.clear, ih]
    by_cases h : o ∈ l
    · simp [h]
    · by_cases hp : o = p
      · subst hp; simp [h]
      · rw [if_neg h, if_neg (by simp [h, hp])]
        exact State.reg_setReg_other s _ hp

theorem State.clear_regs (s : State) (l : List Nat) : { s.clear l with regs := s.regs } = s := by
  induction l generalizing s with
  | nil => rfl
  | cons p l ih =>
    have := ih (s.setReg p 0)
    rw [State.clear]
    calc { (s.setReg p 0).clear l with regs := s.regs }
        = { ({ (s.setReg p 0).clear l with regs := (s.setReg p 0).regs } : State) with regs := s.regs } := rfl
      _ = { s.setReg p 0 with regs := s.regs } := by rw [this]
      _ = s := by simp [State.setReg]

theorem State.clear_trap (s : State) (l : List Nat) : (s.clear l).trap = s.trap := by
  simpa using congrArg State.trap (State.clear_regs s l)

end Sys2Proof.Machine
end

