-- ==== Sys2Proof/Laws/Memory.lean ====
section
/-! SUPPORT. What the memory operations do, and that each keeps the canonical form of memory. -/

namespace Sys2Proof.Machine

/-! ### The canonical form -/

theorem State.poke_memWf (s : State) (t a : Nat) (bs : List Byte) (h : memWf s.mem = true) : memWf (s.poke t a bs).mem = true :=
  Tab.wf_puts bs s.mem _ h

theorem State.countCorrected_mem (s : State) (t a : Nat) : (s.countCorrected t a).mem = s.mem := by
  unfold State.countCorrected
  dsimp only
  split <;> simp

/-- The meter changes the counts of bytes moved and nothing else. -/
theorem State.meter_eq (s : State) (t a n : Nat) (w : Bool) : ∃ mv, s.meter t a n w = { s with moved := mv } := by
  have each : ∀ (qs : List (Nat × Nat)) (u : State), ∃ mv,
      qs.foldl (fun s q => match resource t (q.1 * stackSize t) w with
        | some k => s.addMoved k (64 * q.2)
        | none => s) u = { u with moved := mv } := by
    intro qs
    induction qs with
    | nil => intro u; exact ⟨u.moved, rfl⟩
    | cons q qs ih =>
      intro u
      rw [List.foldl_cons]
      split
      · obtain ⟨mv, h⟩ := ih (u.addMoved _ _)
        exact ⟨mv, h⟩
      · exact ih u
  unfold State.meter
  split
  · exact each _ s
  · split
    · exact ⟨s.moved, rfl⟩
    · exact ⟨_, rfl⟩

@[simp] theorem State.meter_mem (s : State) (t a n : Nat) (w : Bool) : (s.meter t a n w).mem = s.mem := by
  obtain ⟨mv, h⟩ := State.meter_eq s t a n w
  rw [h]

/-- The wear counts are all that a write adds for the cells' wear. -/
theorem State.addWear_eq (s : State) (t a n : Nat) : ∃ wr, s.addWear t a n = { s with wear := wr } := by
  unfold State.addWear; split
  · exact ⟨_, rfl⟩
  · exact ⟨s.wear, rfl⟩

theorem State.clearErrs_mem (t : Nat) (us : List (Nat × Nat)) (s : State) : (s.clearErrs t us).mem = s.mem := by
  induction us generalizing s with
  | nil => rfl
  | cons u us ih => obtain ⟨a, n⟩ := u; unfold State.clearErrs; rw [ih]; simp

theorem State.addWear_mem (s : State) (t a n : Nat) : (s.addWear t a n).mem = s.mem := by
  obtain ⟨wr, h⟩ := State.addWear_eq s t a n
  rw [h]

theorem State.injectEcc_mem (s : State) (t a n : Nat) : (s.injectEcc t a n).mem = s.mem := by
  unfold State.injectEcc; dsimp only; split <;> simp

theorem State.mergeSilent_memWf (t : Nat) (us : List (Nat × Nat)) (s : State) (h : memWf s.mem = true) :
    memWf (s.mergeSilent t us).mem = true := by
  induction us generalizing s with
  | nil => exact h
  | cons u us ih => exact ih _ (State.poke_memWf _ _ _ _ h)

theorem State.store_memWf (s : State) (t a : Nat) (bs : List Byte) (h : memWf s.mem = true) :
    memWf (s.store t a bs).mem = true := by
  unfold State.store
  dsimp only
  rw [State.injectEcc_mem, State.addWear_mem]
  exact State.poke_memWf _ _ _ _ (by rw [State.clearErrs_mem]; exact State.mergeSilent_memWf _ _ _ h)

theorem State.countEach_mem (us : List (Nat × Nat)) (s : State) :
    (us.foldl (fun (s : State) u => s.countCorrected 3 u.1) s).mem = s.mem := by
  induction us generalizing s with
  | nil => rfl
  | cons u us ih => rw [List.foldl_cons, ih, State.countCorrected_mem]

@[simp] theorem State.tallyBad_mem (s : State) (t a : Nat) : (s.tallyBad t a).mem = s.mem := by
  unfold State.tallyBad
  dsimp only
  split <;> rw [State.bump_mem]

theorem State.putRecord_memWf (s : State) (a : Nat) (bs : List Byte) (h : memWf s.mem = true) :
    memWf (s.putRecord a bs).1.mem = true := by
  unfold State.putRecord
  split
  · simpa using h
  · dsimp only
    split
    · simpa using h
    · exact State.store_memWf _ _ _ _ (by rw [State.countEach_mem, State.meter_mem]; exact h)

theorem State.putEvents_memWf (k : Nat) (s : State) (cls index code detail : Nat) (extra : List W)
    (h : memWf s.mem = true) : memWf (State.putEvents k s cls index code detail extra).mem = true := by
  induction k generalizing s cls index code detail extra with
  | zero => exact h
  | succ k ih =>
    rw [State.putEvents]
    by_cases hf : 2 ^ (s.fld F.logSize - 5) ≤ (s.reg Reg.hmLogProd - s.reg Reg.hmLogCons).toNat
    · rw [if_pos hf]; simpa using h
    · rw [if_neg hf]
      have hr := fun a bs => State.putRecord_memWf (s.setReg Reg.hmLogProd (s.reg Reg.hmLogProd + 1)) a bs (by simpa using h)
      dsimp only
      split
      · exact hr _ _
      · exact ih _ _ _ _ _ _ (hr _ _)

/-- A record of the log changes memory only by writes of 32 bytes. -/
theorem State.event_memWf (s : State) (cls index code detail : Nat) (extra : List W) (h : memWf s.mem = true) :
    memWf (s.event cls index code detail extra).mem = true := by
  unfold State.event
  split
  · exact h
  · exact State.putEvents_memWf _ _ _ _ _ _ _ h

theorem State.countUncorrectable_memWf (s : State) (t a : Nat) (h : memWf s.mem = true) :
    memWf (s.countUncorrectable t a).mem = true := by
  unfold State.countUncorrectable
  dsimp only
  split <;> exact State.event_memWf _ _ _ _ _ _ (by simpa using h)

theorem State.checkUnits_memWf (t : Nat) (us : List (Nat × Nat)) (s : State) (h : memWf s.mem = true) :
    memWf (s.checkUnits t us).1.mem = true := by
  induction us generalizing s with
  | nil => exact h
  | cons u us ih =>
    obtain ⟨a, n⟩ := u
    unfold State.checkUnits
    split
    · exact ih _ (by rw [State.countCorrected_mem]; exact h)
    · exact ih _ (State.countUncorrectable_memWf _ _ _ h)
    · exact ih _ h

theorem State.touch_memWf (s : State) (t a n : Nat) (h : memWf s.mem = true) : memWf (s.touch t a n).1.mem = true := by
  unfold State.touch
  split
  · exact State.checkUnits_memWf _ _ _ (by simpa using h)
  · simpa using h

/-- Every write of the device keeps the canonical form. -/
theorem State.write_memWf (s : State) (t a : Nat) (bs : List Byte) (h : memWf s.mem = true) :
    memWf (s.write t a bs).1.mem = true := by
  unfold State.write
  dsimp only
  split
  · exact h
  · split
    · simpa using h
    · have hc := fun us => State.checkUnits_memWf t us (s.meter t a bs.length true) (by simpa using h)
      split
      · exact hc _
      · exact State.store_memWf _ _ _ _ (hc _)

theorem State.put_memWf (s : State) (t a : Nat) (bs : List Byte) (h : memWf s.mem = true) : memWf (s.put t a bs).mem = true :=
  State.write_memWf s t a bs h

theorem State.writes_memWf (t : Nat) (ws : List (Nat × List Byte)) (s : State) (h : memWf s.mem = true) :
    memWf (s.writes t ws).1.mem = true := by
  induction ws generalizing s with
  | nil => exact h
  | cons w ws ih =>
    obtain ⟨a, bs⟩ := w
    exact ih _ (State.write_memWf _ _ _ _ h)

theorem State.touches_memWf (rs : List (Nat × Nat × Nat)) (s : State) (h : memWf s.mem = true) :
    memWf (s.touches rs).1.mem = true := by
  induction rs generalizing s with
  | nil => exact h
  | cons r rs ih =>
    obtain ⟨t, a, n⟩ := r
    exact ih _ (State.touch_memWf _ _ _ _ h)

/-! ### Reads and writes with no unit in error -/

theorem State.errUnits_nil (s : State) (t a n : Nat) (h : s.errs = []) : s.errUnits t a n = [] := by
  simp [State.errUnits, h]

theorem State.peek_clean (s : State) (t a n : Nat) (h : s.errs = []) : s.peek t a n = s.bytes t a n := by
  simp [State.peek, State.errUnits_nil s t a n h]

/-- The whole effect of a write where no unit is in error and no injection is armed: the bytes, and the counts of bytes
moved and worn. -/
theorem State.write_clean (s : State) (t a : Nat) (bs : List Byte) (he : s.errs = []) (hi : s.flag F.eccArm = false)
    (hr : s.hasRange t a bs.length = true) :
    ∃ mv wr, s.write t a bs =
      ({ s with mem := Tab.puts memDefault s.mem (memKey t a) bs, moved := mv, wear := wr }, none) := by
  unfold State.write
  dsimp only
  by_cases h0 : bs.length = 0
  · rw [if_pos h0, List.length_eq_zero_iff.mp h0]
    exact ⟨s.moved, s.wear, rfl⟩
  · rw [if_neg h0, State.errUnits_nil s _ _ _ he, hr]
    simp only [Bool.not_true, Bool.false_eq_true, if_false, List.filter_nil, State.checkUnits]
    have inj : ∀ u : State, u.flag F.eccArm = false → u.injectEcc t a bs.length = u := by
      intro u hu; simp [State.injectEcc, hu]
    obtain ⟨mv, hm⟩ := State.meter_eq s t a bs.length true
    rw [hm]
    unfold State.store
    rw [State.errUnits_nil _ _ _ _ (by exact he)]
    simp only [List.filter_nil, State.mergeSilent, List.foldl_nil, State.clearErrs]
    obtain ⟨wr, hw⟩ : ∃ wr, (({ s with moved := mv } : State).poke t a bs).addWear t a bs.length =
        { s with mem := Tab.puts memDefault s.mem (memKey t a) bs, moved := mv, wear := wr } :=
      State.addWear_eq _ _ _ _
    rw [hw, inj _ (by simpa [State.flag, State.fld, State.reg] using hi)]
    exact ⟨mv, wr, rfl⟩

theorem State.put_clean (s : State) (t a : Nat) (bs : List Byte) (he : s.errs = []) (hi : s.flag F.eccArm = false)
    (hr : s.hasRange t a bs.length = true) :
    ∃ mv wr, s.put t a bs = { s with mem := Tab.puts memDefault s.mem (memKey t a) bs, moved := mv, wear := wr } := by
  obtain ⟨mv, wr, h⟩ := State.write_clean s t a bs he hi hr
  exact ⟨mv, wr, by rw [State.put, h]⟩

/-- A read where no unit is in error only counts the bytes it moves. -/
theorem State.touch_clean (s : State) (t a n : Nat) (he : s.errs = []) (hr : s.hasRange t a n = true) :
    ∃ mv, s.touch t a n = ({ s with moved := mv }, none) := by
  unfold State.touch
  rw [if_pos hr, State.errUnits_nil s _ _ _ he]
  obtain ⟨mv, h⟩ := State.meter_eq s t a n false
  exact ⟨mv, by rw [h]; rfl⟩

/-! ### What reads give after writes -/

theorem Tab.gets_length {α : Type} (d : Nat → α) (t : Tab α) (k n : Nat) : (Tab.gets d t k n).length = n := by
  induction n generalizing k with
  | zero => rfl
  | succ n ih => simp [Tab.gets, ih]

theorem Tab.getElem_gets {α : Type} (d : Nat → α) (t : Tab α) (k n i : Nat) (h : i < (Tab.gets d t k n).length) :
    (Tab.gets d t k n)[i] = Tab.get d t (k + i) := by
  induction n generalizing k i with
  | zero => simp [Tab.gets] at h
  | succ n ih =>
    cases i with
    | zero => rfl
    | succ i =>
      have e : k + (i + 1) = k + 1 + i := by omega
      simp only [Tab.gets, List.getElem_cons_succ, e]
      exact ih _ _ (by simpa [Tab.gets] using h)

/-- A range reads what was written to it. -/
theorem Tab.gets_puts_same {α : Type} [DecidableEq α] (d : Nat → α) (t : Tab α) (k : Nat) (vs : List α) :
    Tab.gets d (Tab.puts d t k vs) k vs.length = vs := by
  apply List.ext_getElem
  · rw [Tab.gets_length]
  · intro i h1 h2
    rw [Tab.getElem_gets, Tab.get_puts, dif_pos ⟨by omega, by omega⟩]
    congr 1; omega

/-- A range apart from the one written reads as before. -/
theorem Tab.gets_puts_apart {α : Type} [DecidableEq α] (d : Nat → α) (t : Tab α) (k j n : Nat) (vs : List α)
    (h : j + n ≤ k ∨ k + vs.length ≤ j) : Tab.gets d (Tab.puts d t k vs) j n = Tab.gets d t j n := by
  apply List.ext_getElem
  · rw [Tab.gets_length, Tab.gets_length]
  · intro i h1 h2
    rw [Tab.gets_length] at h2
    rw [Tab.getElem_gets, Tab.getElem_gets, Tab.get_puts, dif_neg (by omega)]

theorem wordBytes_length (ws : List W) : (wordBytes ws).length = 4 * ws.length := by
  induction ws with
  | nil => rfl
  | cons w ws ih => simp [wordBytes, leBytes, ih]; omega

end Sys2Proof.Machine
end

