-- ==== Sys2Proof/Laws/Ops.lean ====
section
/-! SUPPORT. What beginning and ending a command do. -/

namespace Sys2Proof.Machine

/-! ### What depends on few fields -/

theorem State.hasRange_of_fuses {s t : State} (h : t.fuses = s.fuses) (k a n : Nat) : t.hasRange k a n = s.hasRange k a n := by
  simp only [State.hasRange, State.hasAddr, State.validTile, State.galleries, h]
  rfl

theorem State.hasRange_below (s : State) {k a n : Nat} (h : s.hasRange k a n = true) (hk : k < 6) (hn : n ≠ 0) :
    a + n ≤ 2 ^ 64 := by
  unfold State.hasRange at h
  have h0 : (n == 0) = false := by simpa using hn
  rw [h0, Bool.false_or, Bool.and_eq_true, Bool.and_eq_true] at h
  have h2 := h.1.2
  have bound : a + n - 1 < 2 ^ 64 := by
    unfold State.hasAddr at h2
    have ce : cellarEnd ≤ 2 ^ 64 := by decide
    have de : deepEnd ≤ 2 ^ 64 := by decide
    match k, hk with
    | 0, _ | 1, _ | 2, _ => simp only [Bool.and_eq_true, decide_eq_true_eq] at h2; omega
    | 3, _ | 4, _ | 5, _ => simp only [decide_eq_true_eq] at h2; omega
  omega

theorem State.replyTier_or (s : State) (r : Nat) : s.replyTier r = 3 ∨ s.replyTier r = 5 := by
  unfold State.replyTier
  split
  · exact .inl rfl
  · exact .inr rfl

theorem State.cqx_of_cqs {s t : State} (h : t.cqs = s.cqs) (q : Nat) : t.cqx q = s.cqx q := by simp [State.cqx, h]

theorem State.ledgerAddr_of_regs {s t : State} (h : t.regs = s.regs) (r q : Nat) : t.ledgerAddr r q = s.ledgerAddr r q := by
  simp [State.ledgerAddr, State.fld_of_regs h]

/-- Everything about replies and the Ledger stays with the registers, completion rings, fuses and errors. -/
theorem State.CanEnd.of_eq {s t : State} {c : CmdId} (h : s.CanEnd c) (hr : t.regs = s.regs) (hc : t.cqs = s.cqs)
    (hf : t.fuses = s.fuses) (he : t.errs = s.errs) (ht : t.trap = s.trap) (hp : t.spentRun = s.spentRun)
    (hb : t.EndsBare c) : t.CanEnd c := by
  obtain ⟨h1, -, h2⟩ := h
  refine ⟨?_, hb, ?_⟩
  · simpa only [State.Sound, State.flag, State.fld_of_regs hr, he, ht, hp] using h1
  simp only [State.replyOpen, State.replyTier, State.replyAt, State.cqOpen, State.cqSlot,
    State.ledgerAddr, State.flag, State.fld_of_regs hr, State.reg64_of_regs hr, State.cqx_of_cqs hc,
    State.hasRange_of_fuses hf] at h2 ⊢
  exact h2

theorem State.findCmd_of_cmds {s t : State} (h : t.cmds = s.cmds) (c : CmdId) : t.findCmd c = s.findCmd c := by
  simp [State.findCmd, h]

theorem State.findCmd_id {s : State} {c : CmdId} {m : Cmd} (h : s.findCmd c = some m) : m.id = c := by
  have := List.find?_some h
  simpa using this

theorem State.findCmd_dropCmd (s : State) (c : CmdId) : (s.dropCmd c).findCmd c = none := by
  simp [State.findCmd]

theorem State.findCmd_mapCmd (s : State) (c : CmdId) (g : Cmd → Cmd) (hg : ∀ m, m.id = c → (g m).id = c) :
    (s.mapCmd c g).findCmd c = (s.findCmd c).map g := by
  simp only [State.findCmd, State.mapCmd_cmds]
  induction s.cmds with
  | nil => rfl
  | cons m l ih =>
    by_cases h : m.id = c
    · simp [h, hg m h]
    · simp [h, ih]

/-! ### The parts of an ending -/

theorem State.raise_frame (s : State) (p v : Nat) :
    (s.raise p v).trap = s.trap ∧ (s.raise p v).cmds = s.cmds ∧ (s.raise p v).mem = s.mem ∧ (s.raise p v).regs = s.regs ∧
      (s.raise p v).errs = s.errs ∧ (s.raise p v).fuses = s.fuses ∧ (s.raise p v).safe = s.safe := by
  unfold State.raise
  generalize (if s.board.linkUp.getD p false then p else 1 - p) = p'
  dsimp only
  split <;> simp

theorem State.raise_if_frame (b : Prop) [Decidable b] (s : State) (p v : Nat) :
    (if b then s.raise p v else s).trap = s.trap ∧ (if b then s.raise p v else s).cmds = s.cmds ∧
      (if b then s.raise p v else s).mem = s.mem ∧ (if b then s.raise p v else s).safe = s.safe := by
  obtain ⟨h1, h2, h3, -, -, -, h4⟩ := State.raise_frame s p v
  by_cases h : b <;> simp [h, h1, h2, h3, h4]

/-- A routing bank's lock changes its field of FAB.RT_STATUS and nothing else but the lock. -/
theorem State.setLock_only (s : State) (b : Nat) (on : Bool) :
    ∃ l v, s.setLock b on = ({ s with fab := { s.fab with locks := l } }).setFld F.rtLock v := ⟨_, _, rfl⟩

theorem State.unlockBank_only (s : State) (m : Cmd) :
    s.unlockBank m = s ∨ ∃ l v, s.unlockBank m = ({ s with fab := { s.fab with locks := l } }).setFld F.rtLock v := by
  unfold State.unlockBank
  split
  · exact .inr (State.setLock_only s _ _)
  · exact .inl rfl

theorem State.letGo_frame (s : State) (m : Cmd) :
    (s.letGo m).trap = s.trap ∧ (s.letGo m).cmds = s.cmds ∧ (s.letGo m).mem = s.mem ∧ (s.letGo m).errs = s.errs ∧
      (s.letGo m).cqs = s.cqs ∧ (s.letGo m).fuses = s.fuses ∧ (s.letGo m).tb = s.tb ∧ (s.letGo m).safe = s.safe := by
  unfold State.letGo
  dsimp only
  rcases State.unlockBank_only s m with h | ⟨l, v, h⟩ <;> rw [h] <;> simp

/-- Of the registers, an ending lets go of one field alone. -/
theorem State.letGo_reg (s : State) (m : Cmd) {o : Nat} (h : o ≠ Reg.fab 0x10) : (s.letGo m).reg o = s.reg o := by
  have e : (s.letGo m).reg o = (s.unlockBank m).reg o := rfl
  rw [e]
  rcases State.unlockBank_only s m with h' | ⟨l, v, h'⟩ <;> rw [h']
  exact State.reg_setFld_other _ v h

theorem State.letGo_fld (s : State) (m : Cmd) {f : Fld} (h : f.off ≠ Reg.fab 0x10) : (s.letGo m).fld f = s.fld f := by
  simp only [State.fld, State.letGo_reg s m h]

theorem State.setDev_frame (s : State) (v : Nat) :
    (s.setDev v).trap = s.trap ∧ (s.setDev v).cmds = s.cmds ∧ (s.setDev v).mem = s.mem ∧ (s.setDev v).errs = s.errs ∧
      (s.setDev v).safe = s.safe := by
  unfold State.setDev
  split <;> simp

/-- A reply into an open ring: its bytes, and nothing else of memory. -/
theorem State.postReply_open (s : State) (q ring seq opcode arith progress : Nat) (st : Status) (irq : Bool)
    (hs : s.Sound) (ho : s.cqOpen q = true)
    (hr : s.hasRange (if s.fld (F.cqTier q) = 1 then 3 else 5) (s.cqSlot q) 32 = true) :
    let t := s.postReply q ring seq opcode arith progress st irq
    t.trap = none ∧ t.cmds = s.cmds ∧ t.safe = s.safe ∧
      t.mem = Tab.puts memDefault s.mem (memKey (if s.fld (F.cqTier q) = 1 then 3 else 5) (s.cqSlot q))
        (wordBytes (replyWords s ring seq opcode arith progress st
          (1 - (s.cqx q).prod.toNat / 2 ^ s.fld (F.cqLog2 q) % 2))) := by
  obtain ⟨ht, -, he, hi⟩ := hs
  dsimp only
  unfold State.postReply
  rw [if_neg (by simp [ho])]
  dsimp only
  set bs := wordBytes (replyWords s ring seq opcode arith progress st
    (1 - (s.cqx q).prod.toNat / 2 ^ s.fld (F.cqLog2 q) % 2)) with hbs
  have hl : bs.length = 32 := by rw [hbs, wordBytes_length]; rfl
  obtain ⟨mv, wr, hp⟩ := State.put_clean s (if s.fld (F.cqTier q) = 1 then 3 else 5) (s.cqSlot q) bs he hi (by rw [hl]; exact hr)
  rw [hp]
  set t1 : State := State.setCqx _ _ _ with ht1
  obtain ⟨h1, h2, h3, h4⟩ := State.raise_if_frame ((irq && t1.flag (F.cqIrqEn q)) = true) t1 (t1.fld (F.cqPort q)) (t1.fld (F.cqVector q))
  exact ⟨h1.trans (by simpa [ht1] using ht), h2.trans (by simp [ht1]), h4.trans (by simp [ht1]), h3.trans (by simp [ht1])⟩

theorem State.postReply_closed (s : State) (q ring seq opcode arith progress : Nat) (st : Status) (irq : Bool)
    (ho : s.cqOpen q = false) :
    let t := s.postReply q ring seq opcode arith progress st irq
    t.trap = s.trap ∧ t.cmds = s.cmds ∧ t.safe = s.safe ∧ t.mem = s.mem := by
  dsimp only
  unfold State.postReply
  rw [if_pos (by simp [ho])]
  simp

/-! ### Ending a command -/

theorem memKey_lt {a b : Nat} {t : Nat} (h : a < b) : memKey t a < memKey t b := by unfold memKey; omega

/-- A reply that meets no line in error is not blocked. -/
theorem State.replyBlocked_clean (s : State) (m : Cmd) (st : Status) (he : s.errs = []) : s.replyBlocked m st = none := by
  unfold State.replyBlocked State.blocked
  simp [State.errUnits_nil s _ _ _ he]

/-- Of a command that has ended, only the operations that run are kept. -/
theorem State.retire_only (s : State) (m : Cmd) : ∃ l, s.retire m = { s with spent := l } := by
  unfold State.retire
  dsimp only
  split
  · exact ⟨_, rfl⟩
  · exact ⟨s.spent, rfl⟩

theorem State.afterCommit_bare (s : State) (m : Cmd) (h : m.opcode = 0x60 → m.aux.getD 1 0 = 0 ∧ s.safe.ckptReq = false) :
    s.afterCommit m = s := by
  unfold State.afterCommit
  split
  · rfl
  · next hn =>
    obtain ⟨ha, hc⟩ := h (not_not.mp hn)
    dsimp only
    rw [if_pos ha, if_neg (by simp [hc])]

/-- Everything an ending does to the command, its Ledger entry, its reply and memory. -/
theorem State.complete_ended (s : State) (m : Cmd) (st : Status) (hm : s.findCmd m.id = some m) (hs : s.CanEnd m.id) :
    (s.complete m.id st).trap = none ∧ Ended s (s.complete m.id st) m st := by
  obtain ⟨⟨ht, hsp, he, hi⟩, hbare, hl, hq⟩ := hs
  unfold State.complete
  rw [if_neg (by rw [hsp]; simp), hm]
  dsimp only
  rw [State.replyBlocked_clean s m st he, show ledgerStatusOf st none = st from rfl]
  -- the Ledger entry
  have hfin : (if st.code = St.ok ∨ st.code / 2 ^ 12 = 1 then { m with done := m.total } else m) = m.final st := rfl
  rw [hfin]
  have hid : (m.final st).id = m.id := by unfold Cmd.final; split <;> rfl
  have hquiet : (m.final st).quiet = m.quiet := by unfold Cmd.final; split <;> rfl
  have hframe : (m.final st).frame = m.frame := by unfold Cmd.final; split <;> rfl
  have hop : (m.final st).opcode = m.opcode := by unfold Cmd.final; split <;> rfl
  have har : (m.final st).arith = m.arith := by unfold Cmd.final; split <;> rfl
  set L := wordBytes (ledgerWords (m.final st) st.code s.tb.stime) with hL
  have hLl : L.length = 32 := by rw [hL, wordBytes_length]; rfl
  obtain ⟨mv, wr, hj⟩ := State.write_clean s 3 (s.ledgerAddr m.id.ring m.id.seq) L he hi (by rw [hLl]; exact hl)
  have hjournal : s.journalled (m.final st) st.code s.tb.stime =
      ({ s with mem := Tab.puts memDefault s.mem (memKey 3 (s.ledgerAddr m.id.ring m.id.seq)) L, moved := mv, wear := wr },
        none) := by
    unfold State.journalled; rw [hid]; exact hj
  rw [show (s.journalled (m.final st) st.code s.tb.stime).2 = none by rw [hjournal],
    show (s.journalled (m.final st) st.code s.tb.stime).1 = _ by rw [hjournal], show ledgerStatusOf st none = st from rfl]
  set s1 : State := { s with
    mem := Tab.puts memDefault s.mem (memKey 3 (s.ledgerAddr m.id.ring m.id.seq)) L, moved := mv, wear := wr } with hs1
  -- the command goes
  obtain ⟨sp, hret⟩ := State.retire_only (s1.dropCmd m.id) (m.final st)
  rw [hret]
  set s1d : State := { s1.dropCmd m.id with spent := sp } with hs1d
  obtain ⟨g1, g2, g3, g4, g5, g6, g7, g8⟩ := State.letGo_frame s1d (m.final st)
  set s2 := s1d.letGo (m.final st) with hs2
  set s4 := s2.setRingx m.id.ring { s2.ringx m.id.ring with lastDone := some m.id.seq } with hs4
  have t4 : s4.trap = none := by rw [hs4, State.setRingx_trap, g1]; simpa [hs1d] using ht
  have c4 : s4.cmds = s.cmds.filter fun o => decide (o.id ≠ m.id) := by rw [hs4, State.setRingx_cmds, g2]; simp [hs1d, hs1]
  have m4 : s4.mem = Tab.puts memDefault s.mem (memKey 3 (s.ledgerAddr m.id.ring m.id.seq)) L := by
    rw [hs4, State.setRingx_mem, g3]; simp [hs1d, hs1]
  have e4 : s4.errs = [] := by rw [hs4, State.setRingx_errs, g4]; simpa [hs1d] using he
  have q4 : s4.cqs = s.cqs := by rw [hs4, State.setRingx_cqs, g5]; simp [hs1d, hs1]
  have f4 : s4.fuses = s.fuses := by rw [hs4, State.setRingx_fuses, g6]; simp [hs1d, hs1]
  have b4 : s4.tb = s.tb := by rw [hs4, State.setRingx_tb, g7]; simp [hs1d, hs1]
  have p4 : s4.spentRun = none := by
    have : s2.spentRun = s1d.spentRun := by
      rw [hs2]
      show (s1d.unlockBank _).spentRun = _
      rcases State.unlockBank_only s1d (m.final st) with h | ⟨l, v, h⟩ <;> rw [h] <;> simp
    rw [hs4, State.setRingx_spentRun, this]; simpa [hs1d, hs1] using hsp
  have k4 : s4.safe = s.safe := by rw [hs4, State.setRingx_safe, g8]; simp [hs1d, hs1]
  have r4 : ∀ o, o ≠ Reg.fab 0x10 → s4.reg o = s.reg o := by
    intro o h
    have : s4.reg o = s2.reg o := by simp [State.reg, hs4]
    rw [this, hs2, State.letGo_reg _ _ h]
    simp [State.reg, hs1d, hs1]
  have d4 : ∀ f : Fld, f.off ≠ Reg.fab 0x10 → s4.fld f = s.fld f := by
    intro f h; simp only [State.fld, r4 _ h]
  have ring_ne : ∀ n, Reg.ring n + 8 ≠ Reg.fab 0x10 := by intro n; simp only [Reg.ring, Reg.fab]; omega
  have cq_ne : ∀ n k, Reg.cq n + k ≠ Reg.fab 0x10 := by intro n k; simp only [Reg.cq, Reg.fab]; omega
  have ringCq4 : s4.fld (F.ringCq m.id.ring) = s.fld (F.ringCq m.id.ring) := d4 _ (ring_ne _)
  -- the reply
  set s5 := (if (m.final st).quiet && st.code == St.ok then s4
    else s4.answer m.id.ring m.id.seq (m.final st).opcode (m.final st).arith.bits (m.final st).done st (m.final st).irq
      (m.final st).frame) with hs5
  have key5 : s5.trap = none ∧ s5.cmds = s4.cmds ∧ s5.safe = s4.safe ∧
      (m.answered st = true → s.replyOpen m.id.ring = true →
        s5.mem = Tab.puts memDefault s4.mem (memKey (s.replyTier m.id.ring) (s.replyAt m.id.ring))
          (wordBytes (replyWords s m.id.ring m.id.seq m.opcode m.arith.bits (m.final st).done st (s.replyPhase m.id.ring)))) ∧
      (¬ (m.answered st = true ∧ s.replyOpen m.id.ring = true) → s5.mem = s4.mem) := by
    rw [hs5, hquiet, hframe, hop, har]
    by_cases hQ : (m.quiet && st.code == St.ok) = true
    · rw [if_pos hQ]
      refine ⟨t4, rfl, rfl, ?_, fun _ => rfl⟩
      intro ha; simp [Cmd.answered, hQ] at ha
    · rw [if_neg hQ]
      unfold State.answer
      cases hF : m.frame with
      | some d =>
        refine ⟨by simpa using t4, by simp, by simp, ?_, fun _ => by simp⟩
        intro ha; simp [Cmd.answered, hF] at ha
      | none =>
        dsimp only
        rw [ringCq4]
        set q := s.fld (F.ringCq m.id.ring) with hqdef
        have tier : s4.fld (F.cqTier q) = s.fld (F.cqTier q) := d4 (F.cqTier q) (cq_ne q 8)
        have log : s4.fld (F.cqLog2 q) = s.fld (F.cqLog2 q) := d4 (F.cqLog2 q) (cq_ne q 8)
        have en : s4.fld (F.cqEnable q) = s.fld (F.cqEnable q) := d4 (F.cqEnable q) (cq_ne q 8)
        have opn : s4.cqOpen q = s.cqOpen q := by
          simp only [State.cqOpen, State.flag, State.cqx_of_cqs q4, en, log]
        have slot : s4.cqSlot q = s.cqSlot q := by
          have a0 : s4.reg (Reg.cq q) = s.reg (Reg.cq q) := r4 _ (cq_ne q 0)
          have a4 : s4.reg (Reg.cq q + 4) = s.reg (Reg.cq q + 4) := r4 _ (cq_ne q 4)
          simp only [State.cqSlot, State.reg64, a0, a4, State.cqx_of_cqs q4, log]
        have ecc4 : s4.flag F.eccArm = false := by
          simp only [State.flag] at hi ⊢
          rw [d4 _ (by decide)]; exact hi
        have ans : m.answered st = true := by
          rw [Cmd.answered, hF, Bool.eq_false_iff.mpr hQ]; rfl
        by_cases hO : s.cqOpen q = true
        · obtain ⟨hr, -⟩ := hq hO
          obtain ⟨p1, p2, p5, p3⟩ := State.postReply_open s4 q m.id.ring m.id.seq m.opcode m.arith.bits (m.final st).done st
            (m.final st).irq ⟨t4, p4, e4, ecc4⟩ (opn.trans hO)
            (by rw [tier, slot, State.hasRange_of_fuses f4]; exact hr)
          refine ⟨p1, p2, p5, fun _ _ => ?_, fun h => absurd ⟨ans, hO⟩ h⟩
          rw [p3, tier, slot, log, State.cqx_of_cqs q4]
          have : replyWords s4 m.id.ring m.id.seq m.opcode m.arith.bits (m.final st).done st =
              replyWords s m.id.ring m.id.seq m.opcode m.arith.bits (m.final st).done st := by
            funext ph; simp only [replyWords, b4]
          rw [this]; rfl
        · have hO' : s.cqOpen q = false := by simpa using hO
          obtain ⟨p1, p2, p5, p3⟩ := State.postReply_closed s4 q m.id.ring m.id.seq m.opcode m.arith.bits (m.final st).done st
            (m.final st).irq (opn.trans hO')
          exact ⟨p1.trans t4, p2, p5, fun _ h => absurd h (by simp [State.replyOpen, ← hqdef, hO']), fun _ => p3⟩
  obtain ⟨t5, c5, k5, mo5, mc5⟩ := key5
  -- the device state
  have t6 : ∀ u : State, u = (if s5.cmds.isEmpty && s5.fld F.devState == Dev.running then s5.setDev Dev.ready else s5) →
      u.trap = s5.trap ∧ u.cmds = s5.cmds ∧ u.mem = s5.mem ∧ u.safe = s5.safe := by
    intro u hu
    rw [hu]
    split
    · obtain ⟨a, b, c, -, d⟩ := State.setDev_frame s5 Dev.ready; exact ⟨a, b, c, d⟩
    · exact ⟨rfl, rfl, rfl, rfl⟩
  obtain ⟨t6, c6, m6, k6⟩ := t6 _ rfl
  have haux : (m.final st).aux = m.aux := by unfold Cmd.final; split <;> rfl
  rw [State.afterCommit_bare _ _ (by rw [hop, haux, k6, k5, k4]; exact hbare m hm)]
  refine ⟨t6.trans t5, ?_, ?_, ?_, ?_⟩
  · rw [State.findCmd, c6, c5, c4]; simp
  · -- the Ledger entry stays under the reply
    rw [State.bytes, m6]
    by_cases hA : m.answered st = true ∧ s.replyOpen m.id.ring = true
    · obtain ⟨-, hap⟩ := hq hA.2
      rw [mo5 hA.1 hA.2, Tab.gets_puts_apart _ _ _ _ _ _ ?_, m4, ← hLl]
      · exact Tab.gets_puts_same _ _ _ _
      · have h8 : (replyWords s m.id.ring m.id.seq m.opcode m.arith.bits (m.final st).done st (s.replyPhase m.id.ring)).length = 8 := rfl
        rw [wordBytes_length, h8]
        have hlt : s.ledgerAddr m.id.ring m.id.seq + 32 ≤ 2 ^ 64 := by
          exact State.hasRange_below s hl (by decide) (by decide)
        by_cases hT : s.replyTier m.id.ring = 3
        · rw [hT]; unfold memKey; rcases hap hT with h | h <;> omega
        · have hT5 := (s.replyTier_or m.id.ring).resolve_left hT
          rw [hT5]; unfold memKey; omega
    · rw [mc5 hA, m4, ← hLl]; exact Tab.gets_puts_same _ _ _ _
  · intro hA hO
    rw [State.bytes, m6, mo5 hA hO]
    have : (wordBytes (replyWords s m.id.ring m.id.seq m.opcode m.arith.bits (m.final st).done st (s.replyPhase m.id.ring))).length = 32 := by
      rw [wordBytes_length]; rfl
    rw [← this]; exact Tab.gets_puts_same _ _ _ _
  · intro k hk hR
    rw [m6]
    have base : Tab.get memDefault s4.mem k = Tab.get memDefault s.mem k := by
      rw [m4, Tab.get_puts, dif_neg]
      intro h; exact hk ⟨h.1, by rw [hLl] at h; exact h.2⟩
    by_cases hA : m.answered st = true ∧ s.replyOpen m.id.ring = true
    · rw [mo5 hA.1 hA.2, Tab.get_puts, dif_neg]
      · exact base
      · intro h
        have hw : (wordBytes (replyWords s m.id.ring m.id.seq m.opcode m.arith.bits (m.final st).done st (s.replyPhase m.id.ring))).length = 32 := by
          rw [wordBytes_length]; rfl
        exact hR hA.1 ⟨hA.2, h.1, by rw [hw] at h; exact h.2⟩
    · rw [mc5 hA]; exact base

end Sys2Proof.Machine
end

