-- ==== Sys2Proof/Laws/Ends.lean ====
section
/-! SUPPORT. What a row that runs a command at once does: the command begins, and ends or is refused. -/

namespace Sys2Proof.Machine

/-! ### Beginning -/

theorem Cmd.begun_id (m : Cmd) (s : State) : (m.begun s).id = m.id := by unfold Cmd.begun; split <;> rfl

/-- A Ledger entry is written, and nothing else of memory. -/
theorem State.journal_clean (s : State) (m : Cmd) (status endAt : Nat) (he : s.errs = []) (hi : s.flag F.eccArm = false)
    (hl : s.hasRange 3 (s.ledgerAddr m.id.ring m.id.seq) 32 = true) :
    ∃ mem moved wear, s.journal m status endAt = { s with mem := mem, moved := moved, wear := wear } ∧
      ∀ k, ¬ s.inLedger m.id k → Tab.get memDefault mem k = Tab.get memDefault s.mem k := by
  have hlen : (wordBytes (ledgerWords m status endAt)).length = 32 := by rw [wordBytes_length]; rfl
  obtain ⟨mv, wr, hp⟩ := State.put_clean s 3 (s.ledgerAddr m.id.ring m.id.seq) (wordBytes (ledgerWords m status endAt)) he hi
    (by rw [hlen]; exact hl)
  refine ⟨_, mv, wr, hp, fun k hk => ?_⟩
  rw [Tab.get_puts, dif_neg]
  intro hh; exact hk ⟨hh.1, by rw [hlen] at hh; exact hh.2⟩

theorem filter_mapped (l : List Cmd) (c : CmdId) (g : Cmd → Cmd) (hg : ∀ o, o.id = c → (g o).id = c) :
    (l.map fun o => if o.id = c then g o else o).filter (fun o => decide (o.id ≠ c)) = l.filter fun o => decide (o.id ≠ c) := by
  induction l with
  | nil => rfl
  | cons o l ih =>
    by_cases ho : o.id = c
    · simp [ho, hg o ho] at ih ⊢; exact ih
    · simp [ho] at ih ⊢; exact ih

theorem State.begin_eq (s : State) (m : Cmd) (hm : s.findCmd m.id = some m) :
    s.begin m.id = if m.start ≠ 0 then s else (s.mapCmd m.id fun _ => m.begun s).journal (m.begun s) 0xFFFF 0 := by
  unfold State.begin
  rw [hm]
  by_cases h : m.start = 0 <;> simp [Cmd.begun, h]

/-- Everything a beginning does: the command shows its start, its Ledger entry is written, and the state can still end it. -/
theorem State.begin_spec (s : State) (m : Cmd) (hm : s.findCmd m.id = some m) (hs : s.CanEnd m.id) :
    (s.begin m.id).findCmd m.id = some (m.begun s) ∧ (s.begin m.id).CanEnd m.id ∧
      (s.begin m.id).cmds.filter (fun o => decide (o.id ≠ m.id)) = s.cmds.filter (fun o => decide (o.id ≠ m.id)) ∧
      { s.begin m.id with cmds := s.cmds, mem := s.mem, moved := s.moved, wear := s.wear } = s ∧
      ∀ k, ¬ s.inLedger m.id k → Tab.get memDefault (s.begin m.id).mem k = Tab.get memDefault s.mem k := by
  rw [State.begin_eq s m hm]
  by_cases h : m.start = 0
  swap
  · have hbe : m.begun s = m := by unfold Cmd.begun; rw [if_pos h]
    rw [if_pos h, hbe]
    exact ⟨hm, hs, rfl, rfl, fun k _ => rfl⟩
  rw [if_neg (by simp [h])]
  have hid : (m.begun s).id = m.id := Cmd.begun_id m s
  have hop : (m.begun s).opcode = m.opcode := by unfold Cmd.begun; split <;> rfl
  have hax : (m.begun s).aux = m.aux := by unfold Cmd.begun; split <;> rfl
  generalize m.begun s = b at hid hop hax ⊢
  have huc : (s.mapCmd m.id fun _ => b).findCmd m.id = some b := by
    rw [State.findCmd_mapCmd _ _ _ (fun _ _ => hid), hm]; rfl
  have huf : (s.mapCmd m.id fun _ => b).cmds.filter (fun o => decide (o.id ≠ m.id)) =
      s.cmds.filter (fun o => decide (o.id ≠ m.id)) := filter_mapped _ _ _ fun _ _ => hid
  have hul : (s.mapCmd m.id fun _ => b).ledgerAddr b.id.ring b.id.seq = s.ledgerAddr m.id.ring m.id.seq := by rw [hid]; rfl
  have huk : ∀ k, (s.mapCmd m.id fun _ => b).inLedger b.id k ↔ s.inLedger m.id k := by
    intro k; rw [hid]; exact Iff.rfl
  have hu : { s.mapCmd m.id (fun _ => b) with cmds := s.cmds } = s := rfl
  obtain ⟨M, mv, wr, hj, hk⟩ := State.journal_clean (s.mapCmd m.id fun _ => b) b 0xFFFF 0 hs.1.2.2.1 hs.1.2.2.2
    (by rw [hul]; exact hs.2.2.1)
  rw [hj]
  generalize s.mapCmd m.id (fun _ => b) = u at huc huf huk hu hk
  have e : u = { s with cmds := u.cmds } := by rw [← hu]
  refine ⟨huc, ?_, huf, ?_, fun k h => ?_⟩
  · rw [e]
    refine State.CanEnd.of_eq hs rfl rfl rfl rfl rfl rfl fun q hq h6 => ?_
    have hq' : u.findCmd m.id = some q := hq
    rw [huc] at hq'
    cases hq'
    rw [hop] at h6
    rw [hax]
    exact hs.2.1 m hm h6
  · rw [e]
  · show Tab.get memDefault M k = _
    rw [hk k (fun x => h ((huk k).mp x)), e]

/-! ### Ending -/

theorem State.setPortReg_eq (s : State) (p o : Nat) (v : W) : ∃ x, s.setPortReg p o v = { s with portRegs := x } := ⟨_, rfl⟩

theorem State.setCqx_eq (s : State) (q : Nat) (x : CqX) : ∃ y, s.setCqx q x = { s with cqs := y } := ⟨_, rfl⟩

theorem State.raise_only (s : State) (p v : Nat) :
    ∃ pr ou, s.raise p v = { s with portRegs := pr, out := ou } := by
  unfold State.raise
  generalize (if s.board.linkUp.getD p false then p else 1 - p) = p'
  dsimp only
  split
  · obtain ⟨x, h⟩ := State.setPortReg_eq s p' (0x108000 + v / 32 * 4)
      (s.portReg p' (0x108000 + v / 32 * 4) ||| BitVec.ofNat 32 (2 ^ (v % 32)))
    rw [h]
    exact ⟨x, s.out, rfl⟩
  · unfold State.emit
    exact ⟨s.portRegs, _, rfl⟩

theorem State.setDev_only (s : State) (v : Nat) :
    { s.setDev v with regs := s.regs, out := s.out } = s ∧ ∀ o, o ≠ F.devState.off → (s.setDev v).reg o = s.reg o := by
  unfold State.setDev
  split
  · exact ⟨rfl, fun _ _ => rfl⟩
  · exact ⟨rfl, fun o h => by
      show (s.setFld F.devState v).reg o = _
      exact State.reg_setFld_other s v h⟩

theorem State.letGo_only (s : State) (m : Cmd) :
    { s.letGo m with
      regs := s.regs, erm := s.erm, ck := s.ck
      fab := { (s.letGo m).fab with locks := s.fab.locks, pieces := s.fab.pieces } } = s ∧
      ∀ o, o ≠ F.rtLock.off → (s.letGo m).reg o = s.reg o := by
  refine ⟨?_, fun o h => State.letGo_reg s m h⟩
  unfold State.letGo
  dsimp only
  rcases State.unlockBank_only s m with h | ⟨l, v, h⟩ <;> rw [h] <;> rfl

theorem State.put_only (s : State) (k a : Nat) (bs : List Byte) (he : s.errs = []) (hi : s.flag F.eccArm = false)
    (hr : s.hasRange k a bs.length = true) :
    ∃ mem moved wear, s.put k a bs = { s with mem := mem, moved := moved, wear := wear } := by
  obtain ⟨mv, wr, hp⟩ := State.put_clean s k a bs he hi hr
  exact ⟨_, mv, wr, hp⟩

/-- A reply touches memory, its ring, its overflow and lost counts, and what is sent out. -/
theorem State.postReply_only (s : State) (q ring seq opcode arith progress : Nat) (st : Status) (irq : Bool)
    (he : s.errs = []) (hi : s.flag F.eccArm = false)
    (hr : s.cqOpen q = true → s.hasRange (if s.fld (F.cqTier q) = 1 then 3 else 5) (s.cqSlot q) 32 = true) :
    (∃ mem moved wear cqs pr ou, s.postReply q ring seq opcode arith progress st irq =
      { s with mem := mem, moved := moved, wear := wear, cqs := cqs, portRegs := pr, out := ou }) ∨
    s.postReply q ring seq opcode arith progress st irq = (s.setFld (F.cqOverflow q) 1).bump (F.cqLost q) := by
  unfold State.postReply
  by_cases ho : s.cqOpen q = true
  · left
    rw [if_neg (by simp [ho])]
    dsimp only
    generalize hb : wordBytes (replyWords s ring seq opcode arith progress st
      (1 - (s.cqx q).prod.toNat / 2 ^ s.fld (F.cqLog2 q) % 2)) = bs
    have hl : bs.length = 32 := by rw [← hb, wordBytes_length]; rfl
    obtain ⟨M, mv, wr, hp⟩ := State.put_only s (if s.fld (F.cqTier q) = 1 then 3 else 5) (s.cqSlot q) bs he hi
      (by rw [hl]; exact hr ho)
    rw [hp]
    obtain ⟨y, hy⟩ := State.setCqx_eq { s with mem := M, moved := mv, wear := wr } q
      { prod := (s.cqx q).prod + 1, cons := (s.cqx q).cons }
    rw [hy]
    generalize hu : ({ s with mem := M, moved := mv, wear := wr, cqs := y } : State) = u
    split
    · obtain ⟨pr, ou, h⟩ := State.raise_only u (u.fld (F.cqPort q)) (u.fld (F.cqVector q))
      rw [h, ← hu]
      exact ⟨M, mv, wr, y, pr, ou, rfl⟩
    · rw [← hu]
      exact ⟨M, mv, wr, y, s.portRegs, s.out, rfl⟩
  · right
    rw [if_pos (by simp [ho])]

end Sys2Proof.Machine
end

