-- ==== Sys2Proof/Laws/Operands.lean ====
section
/-! SUPPORT. Which tensors have an address of its own for each element. -/

namespace Sys2Proof.Machine

theorem State.plain_iff (s : State) (t : Tensor) : s.plain t ↔
    ∀ i, i < t.count → ∀ j, j < t.count → i ≠ j → s.elemAddr t (t.coord i) ≠ s.elemAddr t (t.coord j) :=
  ⟨fun h i hi j hj => h i j hi hj, fun h i j hi hj => h i hi j hj⟩

/-- A line of elements of whole bytes, one after another. -/
theorem State.plain_of_line (s : State) (t : Tensor) (hn : t.ndim = 1) (hs : t.spread = false) (hm : isMx t.fmt = false)
    (hh : 2 ≤ t.halves) (hd : 0 < t.stride 0) : s.plain t := by
  have hb : 0 < t.halves / 2 := Nat.div_pos hh (by decide)
  have hc : t.count = t.size 0 := by simp [Tensor.count, hn, List.range_succ]
  have ha : ∀ k, k < t.count → s.elemAddr t (t.coord k) = t.base + k * t.stride 0 * (t.halves / 2) := by
    intro k hk
    have hk' : k % max 1 (t.size 0) = k := Nat.mod_eq_of_lt (by omega)
    simp [State.elemAddr, State.place, Tensor.coord, hn, hs, hm, List.range_succ, coords, hk']
  intro i j hi hj hij h
  rw [ha i hi, ha j hj] at h
  have h2 : i * t.stride 0 = j * t.stride 0 := Nat.eq_of_mul_eq_mul_right hb (Nat.add_left_cancel h)
  exact hij (Nat.eq_of_mul_eq_mul_right hd h2)

end Sys2Proof.Machine
end

