-- ==== Sys2Proof/WellFormed.lean ====
section
/-! DEFINITION. Which commands are well formed: every number the outside names lies in the range the spec gives it. -/

namespace Sys2Proof

def okRing (n : Nat) : Bool := decide (n < 4096)
def okCmd (c : CmdId) : Bool := okRing c.ring && decide (c.seq < 65536)
def okHall (h : Nat) : Bool := decide (h < 16)
def okPort (p : Nat) : Bool := decide (p < 48)
def okHostPort (p : Nat) : Bool := decide (p < 2)
def okInPort : Option Nat → Bool
  | none => true
  | some p => okPort p
def okSource : RouteSource → Bool
  | .arrives p => okPort p
  | .waits p => okPort p
  | .injected l => decide (l < 320)
def okOff (o : Nat) : Bool := decide (o < 2 ^ 26)

/-- The header fields of R429 fit their widths. -/
def okPkt (p : Pkt) : Bool :=
  decide (p.cls < 4) && decide (p.phase < 2) && decide (p.epoch < 2) && decide (p.len < 4096) &&
    decide (p.dst < 65536) && decide (p.src < 65536) && decide (p.via < 65536) && decide (p.hops < 16) &&
    decide (p.job < 65536) && okRing p.ring && decide (p.seq < 65536) && decide (p.group < 65536) && decide (p.sink < 16) &&
    decide (p.resv.w0 < 2 ^ 11) && decide (p.resv.w2 < 2 ^ 8) && decide (p.resv.w3 < 2 ^ 4) && decide (p.resv.w14 < 2 ^ 32)

/-- A command of the block is well formed. -/
def Instr.wf : Instr → Bool
  | .commandRingDoorbell n a => okRing n && decide (a.off < 4096)
  | .completionRingDoorbell n a => okRing n && decide (a.off < 4096)
  | .packetDecode _ e => (match e with | some a => decide (a < 2 ^ 64) | none => true)
  | .ledgerProgressUpdate n => okRing n
  | .nop c => okCmd c
  | .waitRing c => okCmd c
  | .waitRingSatisfied c => okCmd c
  | .waitRingTimeout c => okCmd c
  | .abortRing c => okCmd c
  | .timeLoad c => okCmd c
  | .copy c => okCmd c
  | .fill c => okCmd c
  | .sample c => okCmd c
  | .graphVerify c => okCmd c
  | .samplerJobStart c _ => okCmd c
  | .samplerJobEnd c _ => okCmd c
  | .tableOpen c => okCmd c
  | .tableClose c => okCmd c
  | .tableCloseComplete c => okCmd c
  | .gatherRun c => okCmd c
  | .tierPass c => okCmd c
  | .logMerge c => okCmd c
  | .logMergeAutoStart => true
  | .rowWriteLogResume => true
  | .migrate c => okCmd c
  | .migrateSwitch c => okCmd c
  | .migrationWindowClose _ => true
  | .remoteRowRequest p => okPkt p
  | .remoteRequestStampRelease => true
  | .remoteRowResponse p => okPkt p
  | .nearMemoryAdd c a _ vals _ => okCmd c && a % 64 == 0 && vals.length == 16
  | .ermLoadWindow => true
  | .tableWrite c => okCmd c
  | .tableStage c => okCmd c
  | .tableRebuild c => okCmd c
  | .tableSwitch c => okCmd c
  | .tableSwitchLockPoint c => okCmd c
  | .tableVersionRetire c => okCmd c
  | .rebuildMeterWindow => true
  | .programRun c => okCmd c
  | .matmul c => okCmd c
  | .encode c => okCmd c
  | .sparseVerify c => okCmd c
  | .chainRun c => okCmd c
  | .genLoad c => okCmd c
  | .genSave c => okCmd c
  | .operationIssue c _ _ _ => okCmd c
  | .operationComplete c _ f => okCmd c && (match f with | some x => decide (x.unit < 6) | none => true)
  | .weightTileFetch c h _ _ _ => okCmd c && decide (h < 16)
  | .predictorRowBlock c _ _ => okCmd c
  | .slotLaunch c => okCmd c
  | .commit c => okCmd c.of
  | .poison c => okCmd c
  | .contributionPacket p => okPkt p.of
  | .commitLockPoint c => okCmd c
  | .twinTrialPassEnd c _ => okCmd c
  | .twinDigestPacket p => okPkt p
  | .launchTimerFire => true
  | .applySegment h d => okHall h && decide (d < 3)
  | .efUpdate => true
  | .parameterSegment p => okPkt p
  | .commitCompletion c => okCmd c
  | .timePpsInEdge => true
  | .timePpsOutPulse => true
  | .timeTransferTick p => okPort p
  | .timeTransferWord p ws => okPort p && ws.length == 5
  | .ptpMessage _ => true
  | .tbReferenceLoss => true
  | .holdoverLimitExpiry => true
  | .tbCopyCompare _ _ _ => true
  | .tbCfgWrite _ _ => true
  | .tbStimeLoRead _ => true
  | .ppCtlWrite _ h _ => okHall h
  | .supplySlewDone h => okHall h
  | .thermalHoldEntry h => okHall h
  | .thermalHoldExit h => okHall h
  | .rateMonitorWindow h rates => okHall h && rates.length == 20 && rates.all fun r => decide (r < 65536)
  | .rateCtlClrMin _ h _ => okHall h
  | .scrubLine t _ _ _ => t == 3 || t == 4
  | .cellarZeroingLine k => decide (k < 12)
  | .ringCfgWrite _ n _ => okRing n
  | .cqCfgWrite _ n _ => okRing n
  | .cqStatusWrite _ n _ => okRing n
  | .hsStallCtlClr _ h _ => okHall h
  | .smpCtlClr _ h _ => okHall h
  | .ermLogCfgWrite _ _ => true
  | .ermCtlClr _ _ => true
  | .poolCfgWrite _ n _ => decide (n < 16)
  | .poolDisableComplete n => decide (n < 16)
  | .ermVerCtlClr _ _ => true
  | .chkCtlClr _ h _ => okHall h
  | .sprCtlClr _ h _ => okHall h
  | .veCtlClr _ h _ => okHall h
  | .redCtlClr _ _ => true
  | .fabCtlClr _ _ => true
  | .ckptCtlClr _ _ => true
  | .hallCtlClrTemp _ h _ => okHall h
  | .hallCtlClrEcc _ h _ => okHall h
  | .memCtlClr _ _ => true
  | .fabIdWrite _ _ => true
  | .portCfgWrite _ p _ => okPort p
  | .hmLogCfgWrite _ _ => true
  | .rstCtlWarm _ _ => true
  | .testUnlockWrite _ _ => true
  | .testUnlockTimeout => true
  | .testHallDelayWrite _ h _ => okHall h
  | .testBpWrite _ _ => true
  | .testLaneErrWrite _ _ => true
  | .testEccInjWrite _ _ => true
  | .testChkInjWrite _ _ => true
  | .testTbOffsetWrite _ _ => true
  | .fwCtlGo _ _ g => decide (g.svn < 256)
  | .firmwareProgramDone _ => true
  | .fwCtlRaiseSvn _ _ => true
  | .registerWrite _ o _ => okOff o && o % 4 == 0
  | .bar0BadAccess o _ => okOff o
  | .bar4Access p _ w bs n => okHostPort p && (if w then decide (0 < bs.length) else bs.isEmpty && decide (0 < n))
  | .configRequestInBoot q => okHostPort q.port && decide (q.off < 4096) && q.off % 4 == 0
  | .perstAssert p => okHostPort p
  | .functionLevelReset p => okHostPort p
  | .routeLoad c => okCmd c
  | .routeBankLoaded b => decide (b < 2)
  | .routeSwitch c => okCmd c
  | .routeSwitchLockPoint c => okCmd c
  | .routeBankIdle b => decide (b < 2)
  | .quench c => okCmd c
  | .xferSend c => okCmd c
  | .xferRecv c => okCmd c
  | .xferRequestPacket p => okPkt p
  | .xferReplyPacket p => okPkt p
  | .xferBusyRetry c => okCmd c
  | .xferWritePacket p => okPkt p
  | .cmapRead c => okCmd c
  | .cmapRequestPacket p => okPkt p
  | .cmapWindow g => decide (g.returned.length ≤ 384)
  | .portFence c => okCmd c
  | .packetRoute p q g => okPkt p && okSource q && decide (g.returned.length ≤ 384)
  | .ackPacket p => okPkt p
  | .ackTimer d => decide (d < 65536)
  | .stepNotice p q => okPkt p && okInPort q
  | .tableVetoNotice p q => okPkt p && okInPort q
  | .routeVetoNotice p q => okPkt p && okInPort q
  | .jobAbortNotice p q => okPkt p && okInPort q
  | .quenchNotice p q => okPkt p && okInPort q
  | .pruneNotice p => okPkt p
  | .unreachableNotice p => okPkt p
  | .deliveryErrorNotice p => okPkt p
  | .fecUncorrectableCodeword p _ => okPort p
  | .flitReplayRequest p _ => okPort p
  | .linkErrorWindow p _ _ _ => okPort p
  | .opticalSignalChange p _ => okPort p
  | .portTrainingDone p _ peer q => okPort p && decide (peer < 4096) && decide (q < 64)
  | .portTrainingTimeout p => okPort p
  | .peerFenceSignal p _ => okPort p
  | .modeSet c => okCmd c
  | .twinSet c => okCmd c
  | .hmSnapshot c => okCmd c
  | .perturb c => okCmd c
  | .healthMonitorEvaluation => true
  | .buddySet c => okCmd c
  | .ckptPlan c => okCmd c
  | .ckptStart c => okCmd c
  | .ckptSegmentSend => true
  | .ckptSegmentReceive p => okPkt p
  | .ckptGenerationCommit p => okPkt p
  | .restore c => okCmd c
  | .pkgReset c => okCmd c
  | .readmit c => okCmd c
  | .quiesce c => okCmd c
  | .resume c => okCmd c
  | .abortJob c => okCmd c
  | .quiesceTimeout => true
  | .modResetNAssert _ => true
  | .warmResetActionsDone => true
  | .watchdogExpiry => true
  | .bootComplete lost => lost.all fun q => decide (q.1 < 2) && decide (q.2 < 2)
  | .operatingSecondTick => true
  | .aux3v3InRange => true
  | .auxPgAssert => true
  | .main48vAccept _ => true
  | .modPgRelease => true
  | .main48vLoss => true
  | .aux3v3Loss => true
  | .thermalTrip n => decide (n < 44)
  | .thermalTripClear => true
  | .overcurrentLatch => true
  | .telemetryRefresh v a w _ l => decide (v < 65536) && decide (a < 65536) && decide (w < 65536) && l.length == 44
  | .i3cDynamicAddress _ => true
  | .i3cPrivateWrite o _ => decide (o < 65536)
  | .i3cPrivateRead _ => true
  | .i3cIndirectGo _ => true
  | .jtagInstruction d c _ => decide (d < 2) && decide (c < 256)
  | .noleugFrame _ ps => !ps.isEmpty && ps.all fun p => p.length == 16
  | .arpRequest _ _ => true
  | .mgmtFrameDrop => true
  | .slotTriggerTimeout c => okCmd c
  | .buddyQueryRequest p => okPkt p
  | .buddyQueryResponse p => okPkt p
  | .restoreSegmentRequest p => okPkt p
  | .restoreSegmentResponse p => okPkt p
  | .cmapResponsePacket p => okPkt p
  | .remoteRowWrite p => okPkt p
  | .gatherRowFetchDone c _ _ => okCmd c
  | .tileMoveDone c h _ _ _ => okCmd c && decide (h < 16)
  | .railOutOfRange => true
  | .faultNRelease => true
  | .perstDeassert p => okHostPort p

end Sys2Proof
end

