-- ==== Sys2Proof/Tests/Slice0.lean ====
section
/-! SUPPORT. Tests: ill-formed commands are refused, the manual's worked examples, a few single commands, and for every
statement the states and operands that meet its hypotheses, clause by clause. -/

section

set_option Elab.async false
set_option maxRecDepth 100000
set_option synthInstance.maxSize 4096
set_option synthInstance.maxHeartbeats 400000
set_option linter.unusedTactic false
set_option linter.unreachableTactic false
set_option linter.unusedSimpArgs false

namespace Sys2Proof.Tests
open Sys2Proof Sys2Proof.Machine

/-! ### Small states and commands -/

/-- A state with the listed fields set. -/
def put (s : State) (l : List (Fld × Nat)) : State := l.foldl (fun s x => s.setFld x.1 x.2) s

/-- READY, with command ring 0 of 64 entries, its Ledger at 0x1000 of the Cellar and completion ring 0 in host memory. -/
def up : State := put State.reset
  [(F.devState, 3), (F.ringEnable 0, 1), (F.ringLog2 0, 6), (F.ledgerLog2 0, 6), (F.ledgerBase 0, 1), (F.cqEnable 0, 1),
   (F.cqLog2 0, 6)]

/-- The command 5 of ring 0. -/
abbrev c0 : CmdId := ⟨0, 5⟩

/-- An accepted command with the operand words from word 4 on. -/
def cmd (op : Nat) (ws : List W) : Cmd := { id := c0, opcode := op, words := [0, 0, 0, 0] ++ ws }

/-- `up` with one accepted command. -/
def one (m : Cmd) : State := { up with cmds := [m] }

/-- A descriptor pointer to the Cellar. -/
def ptr (addr : Nat) : List W := [BitVec.ofNat 32 addr, 0x40000000]

/-- A tensor descriptor: format, tier, base, sizes with strides. -/
def tens (fmt tier base : Nat) (dims : List (Nat × Nat)) : List W :=
  let d := dims.flatMap fun x => [BitVec.ofNat 32 x.1, BitVec.ofNat 32 x.2]
  let ws := [BitVec.ofNat 32 (0x10000000 + fmt * 2 ^ 24 + dims.length * 2 ^ 21 + tier * 2 ^ 18), BitVec.ofNat 32 base, 0] ++ d
  ws ++ List.replicate (16 - ws.length) 0

/-- A command with the descriptors that its acceptance captured. -/
def caps (m : Cmd) (l : List (Nat × List W)) : Cmd :=
  { m with cap := l.map fun x => { tier := 3, addr := x.1, bytes := wordBytes x.2 } }

/-- Words placed in memory. -/
def place (s : State) (tier addr : Nat) (ws : List W) : State :=
  { s with mem := Tab.puts memDefault s.mem (memKey tier addr) (wordBytes ws) }

/-- A two-dimensional tensor of whole tiles. -/
def mat (fmt tier base cols rows : Nat) : List W :=
  match tens fmt tier base [(cols, 1), (rows, cols)] with
  | w :: ws => (w + 0x3FF) :: ws
  | [] => []

/-- A layer's words: op class, walk bits, tensors x w y saved dy dx dw path, and the words from word 6 on. -/
def layer (op walk : Nat) (t : List Nat) (rest : List W) : List W :=
  let two := fun (i : Nat) => BitVec.ofNat 32 (t.getD i 0xFFFF * 2 ^ 16 + t.getD (i + 1) 0xFFFF)
  let ws := [BitVec.ofNat 32 (2 * 2 ^ 28 + op * 2 ^ 24 + walk * 2 ^ 20), two 0, two 2, two 4, two 6, 1] ++ rest
  ws ++ List.replicate (16 - ws.length) 0

/-- A command with a program of one layer at 0x400 and its tensor table at 0x800. -/
def prog (m : Cmd) (l : List W) (ts : List (List W)) : Cmd :=
  caps m [(0x400, [0x30000001, 0x800, 0x40000000, BitVec.ofNat 32 ts.length] ++ List.replicate 12 0 ++ l), (0x800, ts.flatten)]

/-- A table descriptor: 4 elements a row, one threshold for the class FP32, version. -/
def tab (rows dir : Nat) (version : W) : List W :=
  [0x70003000, BitVec.ofNat 32 rows, 0, BitVec.ofNat 32 rows, 0, 0, 0, BitVec.ofNat 32 dir, 0, 0, 0, 0, 0, 0x80000000, version, 0]

/-- The words of a directory entry. -/
def ent (loc fmt dual heat addr16 : Nat) : List W :=
  [BitVec.ofNat 32 addr16, BitVec.ofNat 32 (loc * 2 ^ 29 + fmt * 2 ^ 27 + dual * 2 ^ 26 + heat * 2 ^ 16)]

/-- `up` with handle 0 of a table of two rows whose directory lies at 0x30000. -/
def tbl (e0 e1 : List W) : State :=
  place { up with erm := { handles := [{ n := 0, desc := tab 2 0x30000 0 }] } } 3 0x30000 (e0 ++ e1)
def withCmds (s : State) (l : List Cmd) : State := { s with cmds := l }
def at_ (s : State) (t : Nat) : State := { s with tb := { s.tb with stime := t } }

/-- The next state. -/
def out (o : Host.Outcome State Fault Refusal) : State := match o with
  | .next s => s
  | _ => State.reset

/-! ### Ill-formed commands are refused -/

/-- A packet with every header field in its range. -/
def pkt : Pkt := { type := .write, cls := 3, dst := 1, src := 2, body := .ack 0 }

theorem test_wf_command_numbers : (Instr.commandRingDoorbell 4096 ⟨0, none⟩).wf = false ∧ (Instr.commandRingDoorbell 0 ⟨4096, none⟩).wf = false ∧ (Instr.nop ⟨4096, 0⟩).wf = false ∧
    (Instr.nop ⟨0, 65536⟩).wf = false ∧ (Instr.nop ⟨4095, 65535⟩).wf = true ∧
    (Instr.packetDecode none (some (2 ^ 64))).wf = false ∧ (Instr.ringCfgWrite .portA 4096 0).wf = false := by decide

theorem test_wf_places : (Instr.supplySlewDone 16).wf = false ∧ (Instr.portFence ⟨4096, 0⟩).wf = false ∧
    (Instr.timeTransferTick 48).wf = false ∧ (Instr.perstAssert 2).wf = false ∧ (Instr.stepNotice pkt (some 48)).wf = false ∧
    (Instr.stepNotice pkt none).wf = true ∧ (Instr.poolCfgWrite .portA 16 0).wf = false ∧ (Instr.cellarZeroingLine 12).wf = false ∧
    (Instr.scrubLine 2 0 false false).wf = false ∧ (Instr.routeBankLoaded 2).wf = false := by decide

theorem test_wf_packet_header : (Instr.ackPacket pkt).wf = true ∧ (Instr.ackPacket { pkt with cls := 4 }).wf = false ∧
    (Instr.ackPacket { pkt with phase := 3 }).wf = false ∧ (Instr.ackPacket { pkt with epoch := 2 }).wf = false ∧
    (Instr.ackPacket { pkt with len := 8192 }).wf = false ∧ (Instr.ackPacket { pkt with dst := 65536 }).wf = false ∧
    (Instr.ackPacket { pkt with src := 65536 }).wf = false ∧ (Instr.ackPacket { pkt with via := 65536 }).wf = false ∧
    (Instr.ackPacket { pkt with hops := 16 }).wf = false ∧ (Instr.ackPacket { pkt with job := 65536 }).wf = false ∧
    (Instr.ackPacket { pkt with ring := 4096 }).wf = false ∧ (Instr.ackPacket { pkt with seq := 65536 }).wf = false ∧
    (Instr.ackPacket { pkt with group := 65536 }).wf = false ∧ (Instr.ackPacket { pkt with sink := 16 }).wf = false := by decide

theorem test_wf_registers : (Instr.registerWrite .portA (2 ^ 26) 0).wf = false ∧ (Instr.registerWrite .portA 2 0).wf = false ∧
    (Instr.bar0BadAccess (2 ^ 26) true).wf = false ∧ (Instr.fwCtlGo .portA 0 ⟨0, true, 256⟩).wf = false ∧
    (Instr.bootComplete [(2, 0)]).wf = false ∧ (Instr.bootComplete [(0, 2)]).wf = false ∧ (Instr.bootComplete [(1, 1)]).wf = true ∧
    (Instr.bar4Access 0 0 true [] 0).wf = false ∧ (Instr.bar4Access 0 0 false [1] 4).wf = false ∧
    (Instr.bar4Access 0 0 false [] 0).wf = false := by decide

theorem test_wf_observations : (Instr.timeTransferWord 0 [0]).wf = false ∧
    (Instr.rateMonitorWindow 0 []).wf = false ∧ (Instr.rateMonitorWindow 0 (65536 :: List.replicate 19 0)).wf = false ∧
    (Instr.cmapWindow ⟨List.replicate 385 0⟩).wf = false ∧ (Instr.packetRoute pkt (.injected 320) ⟨[]⟩).wf = false ∧
    (Instr.packetRoute pkt (.arrives 48) ⟨[]⟩).wf = false ∧ (Instr.packetRoute { pkt with resv := { w0 := 2048 } } (.waits 0) ⟨[]⟩).wf = false ∧ (Instr.ackTimer 65536).wf = false ∧
    (Instr.portTrainingDone 0 0xFF 4096 0).wf = false ∧ (Instr.portTrainingDone 0 0xFF 0 64).wf = false ∧
    (Instr.thermalTrip 44).wf = false ∧ (Instr.telemetryRefresh 65536 0 0 0 (List.replicate 44 0)).wf = false ∧
    (Instr.telemetryRefresh 0 65536 0 0 (List.replicate 44 0)).wf = false ∧
    (Instr.telemetryRefresh 0 0 65536 0 (List.replicate 44 0)).wf = false ∧ (Instr.telemetryRefresh 0 0 0 0 []).wf = false ∧
    (Instr.i3cPrivateWrite 65536 []).wf = false ∧ (Instr.jtagInstruction 2 0 []).wf = false ∧ (Instr.jtagInstruction 0 256 []).wf = false ∧
    (Instr.noleugFrame ⟨0, 0, false⟩ []).wf = false ∧ (Instr.noleugFrame ⟨0, 0, false⟩ [[]]).wf = false := by decide

theorem test_wf_operands : (Instr.nearMemoryAdd c0 32 false (List.replicate 16 0) .good).wf = false ∧
    (Instr.nearMemoryAdd c0 64 false [0] .good).wf = false ∧ (Instr.applySegment 16 0).wf = false ∧
    (Instr.applySegment 0 3).wf = false ∧ (Instr.operationComplete c0 0 (some ⟨6, false, false, 0, 0⟩)).wf = false ∧
    (Instr.tileMoveDone c0 16 3 0 (0, 0)).wf = false := by decide

/-! ### The manual's worked examples -/

/-- The 1.1 of the worked conversions of chapter 2, Number Formats. -/
def v11 : Val := Fp.of32 0x3F8CCCCD

/-- Worked conversions of 1.1 (chapter 2). -/
theorem test_convert_11 : (Fp.convert 1 .nearest v11).1 = 0x3F8D ∧ (Fp.convert 1 (.stoch 13107) v11).1 = 0x3F8D ∧
    (Fp.convert 1 (.stoch 13106) v11).1 = 0x3F8C ∧ (Fp.convert 3 .nearest v11).1 = 0x39 ∧ (Fp.convert 4 .nearest v11).1 = 0x3C := by
  decide +kernel

/-- Worked conversions of 500.0, 0.0156, 0.005, +∞ and −∞ with their flags (chapter 2). -/
theorem test_convert_edges : Fp.convert 3 .nearest (.fin false 500 0) = (0x7E, { saturate := true }) ∧
    (Fp.convert 4 .nearest (.fin false 500 0)).1 = 0x60 ∧ (Fp.convert 3 .nearest (Fp.of32 0x3C7F9724)).1 = 0x08 ∧
    Fp.convert 3 .nearest (Fp.of32 0x3BA3D70A) = (0, { flush := true }) ∧
    Fp.convert 3 .nearest (.inf false) = (0x7F, { invalid := true }) ∧
    Fp.convert 6 .nearest (.inf true) = (0x80, { nonFinite := true }) := by decide +kernel

/-- The MXFP4 block of chapter 2: 5.0, −2.6, 0.3, 0.0, and its variant with 14.0. -/
theorem test_mx_block :
    (let r := Fp.toMxBlock ([.fin false 5 0, Fp.of32 0xC0266666, Fp.of32 0x3E99999A, .fin false 0 0].map fun v => (v, .nearest))
     r.1 = [6, 0xD, 1, 0] ∧ r.2.1 = 0x7F) ∧
    (let r := Fp.toMxBlock [(.fin false 14 0, .nearest)]
     r.1 = [7] ∧ r.2.1 = 0x80 ∧ r.2.2.saturate = true) := by decide +kernel

/-- The fused Hall of chapter 1: Hall 6 without physical gallery 7. -/
theorem test_gallery_map : ({ State.reset with fuses := { galleryEnable := List.replicate 16 0x1FFF7F } } : State).galleryMap 6 =
    20 * 2 ^ 27 + 0x1FFF7F := by decide

/-- The worked transfer of chapter 3: t1 = 5,000,000, t4 = 5,000,520, offset +37. -/
theorem test_transfer_offset : (at_ State.reset 5000520).wordOffset 0 [0, 5000497, 0, 41, 400] 5000000 = 37 := by decide +kernel

/-- Ring 0 after its first packet, as ring 17 of chapter 4's worked sequence, with the number that it expects. -/
def ringAt (expected : Nat) : State := { put up [(F.ringExpected 0, expected)] with rings := [(0, { expSet := true })] }

/-- The worked sequence of chapter 4: 103 where 102 is expected is a gap, 104 passes, 103 after it is a duplicate. -/
theorem test_sequence_numbers : (ringAt 102).checkPacket 0 [0x00000067, 0] = (some ⟨St.seqGap, 102, 0⟩, some 104) ∧
    ((ringAt 104).checkPacket 0 [0x00030068, 0]).2 = some 105 ∧
    (ringAt 105).checkPacket 0 [0x00000067, 0] = (some ⟨St.seqDup, 105, 0⟩, none) := by decide +kernel

/-- The tensor descriptor of chapter 5's worked layer. -/
theorem test_descriptor : (let t := tensorOf [0x114C03FF, 0, 0x60, 1024, 1, 1024, 1024, 0, 0, 0, 0, 0, 0, 0, 0, 0] 0
    (t.fmt, t.ndim, t.tier, t.base, t.tr, t.tc, t.count)) = (1, 2, 3, 0x6000000000, 31, 31, 1024 * 1024) := by decide +kernel

/-- The bag of chapter 7: 0.1, 1.25 and 0.375 have the mean 0x3F133333, which BF16 holds as 0x3F13. -/
theorem test_mean_bag : (let r := pooled 2 1 [[Fp.of32 0x3DCCCCCD], [Fp.decode 3 0x3A 0], [Fp.unpackMx 3 0x7D]]
    r.1.map fun v => (Fp.bits32 v, (Fp.convert 1 .nearest v).1)) = [(0x3F133333, 0x3F13)] := by decide +kernel

/-- The Pair group word of chapter 10 that its check refuses. -/
theorem test_pair_group : badGroup 0xC0D9 = true ∧ badGroup 0x80D9 = false := by decide

/-- The registers of chapter 17's worked example. -/
theorem test_register_offsets : Reg.hall 9 0x20C = 0x0109020C ∧ Reg.hall 9 (0x100 + 4 * 19) = 0x0109014C ∧
    Reg.port 38 + 8 = 0x000A14C8 ∧ Reg.ring 17 + 8 = 0x00200228 ∧ Reg.cq 17 + 12 = 0x0022011C ∧
    Reg.erm (0x400 + 4 * 2) = 0x00080408 ∧ Reg.memBlock 6 + 4 = 0x00070184 := by decide

/-- The shard descriptor of chapter 12's worked commit: ctype 1, rule 1, rank 32, 64 contributions. -/
theorem test_shard_word : (let d : List W := [0x95A00040]
    (sCtype d, sRule d, sRlog d, sN d)) = (1, 1, 5, 64) := by decide

/-! ### Single commands -/

/-- R90: a read of STIME_LO latches the high half. -/
theorem test_stime_latch : (match exec (.tbStimeLoRead .portA) (at_ up (7 * 2 ^ 32 + 5)) with
    | .next t => (t.reg 0x1000C, t.out) | _ => (0, [])) = (7, [.readData 5]) := by decide +kernel

/-- R569: a write of 1 to a clr field clears the counters. -/
theorem test_clear : (match exec (.memCtlClr .portA 1) ((up.setReg (Reg.memBlock 0 + 4) 9).setReg (Reg.memBlock 6 + 4) 3) with
    | .next t => (t.reg (Reg.memBlock 0 + 4), t.reg (Reg.memBlock 6 + 4)) | _ => (1, 1)) = (0, 0) := by decide +kernel

/-- R96: a NOP completes with OK and leaves the list of accepted commands. -/
theorem test_nop : (match exec (.nop c0) (one (cmd 0 [])) with
    | .next t => t.cmds.length | _ => 9) = 0 := by decide +kernel

/-- R94: a doorbell of a ring that is not enabled sets no producer. -/
theorem test_no_bell : (match exec (.commandRingDoorbell 1 ⟨0, some 5⟩) up with
    | .next t => decide (t.rings = up.rings) | _ => false) = true := by decide +kernel

/-- A word spells no command: the table gives no bits. -/
theorem test_no_words : decodeTableWord 32 0x5A = none := by decide

end Sys2Proof.Tests

/-! ### Clears, power points, doorbells, rings -/

namespace Sys2Proof.Tests.W1
open Sys2Proof Sys2Proof.Machine Sys2Proof.Tests

def s1 : State := { State.reset with pending := [.aux3v3InRange] }
def hold : State := put up [(F.thermalHold 15, 1), (F.slewing 15, 1)]
def smpS : State := { put up [(⟨Reg.hall 3 0x308, 31, 0⟩, 7), (⟨Reg.hall 3 0x31C, 31, 0⟩, 9)] with halls := State.reset.halls.modify 3 fun x => { x with edgeRem := 1000 } }

theorem witness_IdleStepAdvancesTime :
  -- the clause at h
  (State.reset.pending = [] ∧
    State.reset.trap = none ∧
    State.reset.tb.hold = none ∧
    State.reset.tb.slew = 0 ∧
    State.reset.tb.skew = 0 ∧
    State.reset.tb.pull = 0 ∧
    State.reset.cmds = [] ∧
    State.reset.rst.held = [] ∧
    State.reset.tb.stime + 1 < 2 ^ 64) := by
  decide +kernel

theorem witness_ClearsActOnTheirCounters :
  -- the clause at h.1.1
  (clearsOf (Instr.ermCtlClr Path.portA 1) = some (1, Reg.erm 28, regRun (Reg.erm 128) 8) ∧
    up.trap = none ∧
    up.reaches (Reg.erm 28) = true ∧
    bits 1 0 0 = 1) ∧
  -- the clause at h.1.1
  (clearsOf (Instr.chkCtlClr Path.portA 15 1) = some (1, Reg.hall 15 1028, regRun (Reg.hall 15 1032) 5) ∧
    up.trap = none ∧
    up.reaches (Reg.hall 15 1028) = true ∧
    bits 1 0 0 = 1) ∧
  -- the clause at h.2.1
  ((Instr.hallCtlClrTemp Path.portA 15 3 = Instr.hallCtlClrTemp Path.portA 15 3 ∨ Instr.hallCtlClrTemp Path.portA 15 3 =
      Instr.hallCtlClrEcc Path.portA 15 3) ∧
    15 < 16 ∧
    up.trap = none ∧
    up.bar0Open = true) ∧
  -- the clause at h.2.1
  ((Instr.hallCtlClrEcc Path.portA 0 3 = Instr.hallCtlClrTemp Path.portA 0 3 ∨ Instr.hallCtlClrEcc Path.portA 0 3 =
      Instr.hallCtlClrEcc Path.portA 0 3) ∧
    0 < 16 ∧
    up.trap = none ∧
    up.bar0Open = true) ∧
  -- the clause at h.2.2
  (15 < 16 ∧
    up.trap = none ∧
    up.bar0Open = true ∧
    bits 1 0 0 = 1) ∧
  -- the clause at h.1.2
  (3 < 16 ∧
    smpS.trap = none ∧
    smpS.reaches (Reg.hall 3 772) = true ∧
    bits 1 0 0 = 1 ∧
    bits 0 0 0 = 0) := by
  refine ⟨?_, ?_, ?_, ?_, ?_, ?_⟩ <;> decide +kernel

theorem witness_PpCtlWriteTakesTarget :
  -- the clause at h
  (15 < 16 ∧
    up.trap = none ∧
    up.bar0Open = true) := by
  decide +kernel

theorem witness_ThermalHoldAndSupplyMoveTheHall :
  -- the clause at h.1.1
  (15 < 16 ∧
    up.trap = none) ∧
  -- the clause at h.1.2
  (15 < 16 ∧
    hold.trap = none ∧
    hold.flag (F.thermalHold 15) = true) ∧
  -- the clause at h.2.1
  (15 < 16 ∧
    15 < hold.halls.length ∧
    hold.trap = none ∧
    hold.flag (F.slewing 15) = true) ∧
  -- the clause at h.2.2
  (15 < 16 ∧
    up.trap = none ∧
    (∀ r ∈ [65535, 0], r < 2 ^ 16)) := by
  refine ⟨?_, ?_, ?_, ?_⟩ <;> decide +kernel

theorem witness_CommandDoorbellSetsProducer :
  -- the clause at h.2
  (4095 < 4096 ∧
    up.trap = none ∧
    up.takesBells = true ∧
    up.flag (F.ringEnable 4095) = false ∧
    0 < 4096 ∧
    up.flag (F.ringEnable 0) = true ∧
    up.fld (F.ringSource 0) ≠ 2 ∧
    BitVec.toNat (1 - (up.ringx 0).prod) ≤ 2 ^ 31 ∧
    BitVec.toNat (1 - up.reg (Reg.ring 0 + 16)) ≤ 2 ^ up.fld (F.ringLog2 0) ∧
    BitVec.toNat (65 - (up.ringx 0).prod) ≤ 2 ^ 31 ∧
    2 ^ up.fld (F.ringLog2 0) < BitVec.toNat (65 - up.reg (Reg.ring 0 + 16)) ∧
    up.Sound ∧
    (up.replyOpen 0 = true → up.hasRange (up.replyTier 0) (up.replyAt 0) 32 = true) ∧
    up.replyOpen 0 = true ∧
    2 ^ 31 < BitVec.toNat (4294967295 - (up.ringx 0).prod)) ∧
  -- the clause at h.1
  (up.trap = none ∧
    8 ≠ 0 ∧
    8 ≠ 4 ∧
    4 ≠ 0) ∧
  -- the clause at h.2
  (0 < 4096 ∧
    (put up [(F.ringSource 0, 2), (F.ringEnable 0, 1)]).trap = none ∧
    (put up [(F.ringSource 0, 2), (F.ringEnable 0, 1)]).takesBells = true ∧
    (put up [(F.ringSource 0, 2), (F.ringEnable 0, 1)]).flag (F.ringEnable 0) = true ∧
    (put up [(F.ringSource 0, 2), (F.ringEnable 0, 1)]).fld (F.ringSource 0) = 2 ∧
    (put up [(F.ringEnable 0, 0)]).trap = none ∧
    (put up [(F.ringEnable 0, 0)]).takesBells = true ∧
    (put up [(F.ringEnable 0, 0)]).flag (F.ringEnable 0) = false) := by
  refine ⟨?_, ?_, ?_⟩ <;> first
    | decide +kernel
    | (simp only [State.Sound]
       decide +kernel)

theorem witness_CompletionDoorbellSetsConsumer :
  -- the clause at h.2
  (4095 < 4096 ∧
    up.trap = none ∧
    up.takesBells = true ∧
    up.flag (F.cqEnable 4095) = false ∧
    0 < 4096 ∧
    up.flag (F.cqEnable 0) = true ∧
    BitVec.toNat (1 - (up.cqx 0).cons) ≤ 2 ^ 31 ∧
    2 ^ 31 < BitVec.toNat ((up.cqx 0).prod - 1) ∧
    BitVec.toNat (0 - (up.cqx 0).cons) ≤ 2 ^ 31 ∧
    BitVec.toNat ((up.cqx 0).prod - 0) ≤ 2 ^ 31 ∧
    2 ^ 31 < BitVec.toNat (4294967295 - (up.cqx 0).cons)) ∧
  -- the clause at h.1
  (up.trap = none ∧
    4 ≠ 0) := by
  refine ⟨?_, ?_⟩ <;> decide +kernel

theorem witness_RingRegistersByTheirRules :
  -- the clause at h.1
  (0 < 4096 ∧
    up.trap = none ∧
    up.bar0Open = true ∧
    up.flag (F.ringEnable 0) = true ∧
    1 < 4096 ∧
    up.flag (F.ringEnable 1) = false ∧
    bits 2160459777 31 31 = 1 ∧
    (¬(bits (merge 4294905855 (up.reg (Reg.ring 1 + 8)) 2160459777) 25 21 < 6 ∨ 16 < bits (merge 4294905855 (up.reg
      (Reg.ring 1 + 8)) 2160459777) 25 21 ∨ bits (merge 4294905855 (up.reg (Reg.ring 1 + 8)) 2160459777) 20 16 < 6 ∨
      16 < bits (merge 4294905855 (up.reg (Reg.ring 1 + 8)) 2160459777) 20 16 ∨ bits (merge 4294905855 (up.reg
      (Reg.ring 1 + 8)) 2160459777) 27 26 = 3 ∨ bits (merge 4294905855 (up.reg (Reg.ring 1 + 8)) 2160459777) 27 26 = 1
      ∧ 1649267441664 < up.reg64 (Reg.ring 1) (Reg.ring 1 + 4) + 64 * 2 ^ bits (merge 4294905855 (up.reg (Reg.ring 1 +
      8)) 2160459777) 25 21 ∨ 1649267441664 < up.fld (F.ledgerBase 1) * 4096 + 32 * 2 ^ bits (merge 4294905855 (up.reg
      (Reg.ring 1 + 8)) 2160459777) 20 16)) ∧
    bits 2147876865 31 31 = 1 ∧
    (bits (merge 4294905855 (up.reg (Reg.ring 1 + 8)) 2147876865) 25 21 < 6 ∨ 16 < bits (merge 4294905855 (up.reg
      (Reg.ring 1 + 8)) 2147876865) 25 21 ∨ bits (merge 4294905855 (up.reg (Reg.ring 1 + 8)) 2147876865) 20 16 < 6 ∨
      16 < bits (merge 4294905855 (up.reg (Reg.ring 1 + 8)) 2147876865) 20 16 ∨ bits (merge 4294905855 (up.reg
      (Reg.ring 1 + 8)) 2147876865) 27 26 = 3 ∨ bits (merge 4294905855 (up.reg (Reg.ring 1 + 8)) 2147876865) 27 26 = 1
      ∧ 1649267441664 < up.reg64 (Reg.ring 1) (Reg.ring 1 + 4) + 64 * 2 ^ bits (merge 4294905855 (up.reg (Reg.ring 1 +
      8)) 2147876865) 25 21 ∨ 1649267441664 < up.fld (F.ledgerBase 1) * 4096 + 32 * 2 ^ bits (merge 4294905855 (up.reg
      (Reg.ring 1 + 8)) 2147876865) 20 16) ∧
    bits 393217 31 31 = 0) ∧
  -- the clause at h.2.1
  (0 < 4096 ∧
    up.trap = none ∧
    up.bar0Open = true ∧
    up.flag (F.cqEnable 0) = true ∧
    1 < 4096 ∧
    up.flag (F.cqEnable 1) = false ∧
    bits 2550136833 31 31 = 1 ∧
    (¬(bits (merge 4286582783 (up.reg (Reg.cq 1 + 8)) 2550136833) 30 26 < 6 ∨ 16 < bits (merge 4286582783 (up.reg (Reg.cq
      1 + 8)) 2550136833) 30 26 ∨ 2 ≤ bits (merge 4286582783 (up.reg (Reg.cq 1 + 8)) 2550136833) 25 24 ∨ bits (merge
      4286582783 (up.reg (Reg.cq 1 + 8)) 2550136833) 25 24 = 1 ∧ 1649267441664 < up.reg64 (Reg.cq 1) (Reg.cq 1 + 4) +
      32 * 2 ^ bits (merge 4286582783 (up.reg (Reg.cq 1 + 8)) 2550136833) 30 26)) ∧
    bits 2147483649 31 31 = 1 ∧
    (bits (merge 4286582783 (up.reg (Reg.cq 1 + 8)) 2147483649) 30 26 < 6 ∨ 16 < bits (merge 4286582783 (up.reg (Reg.cq 1
      + 8)) 2147483649) 30 26 ∨ 2 ≤ bits (merge 4286582783 (up.reg (Reg.cq 1 + 8)) 2147483649) 25 24 ∨ bits (merge
      4286582783 (up.reg (Reg.cq 1 + 8)) 2147483649) 25 24 = 1 ∧ 1649267441664 < up.reg64 (Reg.cq 1) (Reg.cq 1 + 4) +
      32 * 2 ^ bits (merge 4286582783 (up.reg (Reg.cq 1 + 8)) 2147483649) 30 26) ∧
    bits 1 31 31 = 0) ∧
  -- the clause at h.2.2
  (0 < 4096 ∧
    (put up [(F.cqOverflow 0, 1), (F.cqLost 0, 7), (F.cqCfgErr 0, 1), (F.cqBadDoorbell 0, 1)]).trap = none ∧
    (put up [(F.cqOverflow 0, 1), (F.cqLost 0, 7), (F.cqCfgErr 0, 1), (F.cqBadDoorbell 0, 1)]).bar0Open = true) := by
  refine ⟨?_, ?_, ?_⟩ <;> decide +kernel

end Sys2Proof.Tests.W1

/-! ### Configuration, ports, records, tests, firmware, host ports -/

namespace Sys2Proof.Tests.W2
open Sys2Proof Sys2Proof.Machine Sys2Proof.Tests

def logged (s : State) (n : Nat) : State := { s with erm := { s.erm with logCount := n } }
def pool1 : State := put up [(F.poolEnable 15, 1)]
def v1 := { pool1 with erm := { pool1.erm with closing := [15] } }
def att : State := put up [(F.attested, 1)]
def v2 := one { cmd 0 [] with flags := 4 }
def v3 := { up with tb := { up.tb with stime := 2^64-1 } }
def port (n st : Nat) : State := put up [(F.package, 3), (F.portEnable n, 1), (F.portState n, st)]
def sig (s : State) (x : PortX) : State := { s with fab := { s.fab with ports := s.fab.ports.set 47 x } }
def v4 := put (port 47 2) [(F.tbUpstream, 47), (F.tbState, 2), (F.tbHoldover, 5)]
def v5 := sig (put (port 47 7) [(F.portState 47, Port.fenced), (F.portLanes 47, 255)]) { signal := true, peerFenced := true }
def v6 := sig (put (port 47 2) [(F.portState 47, Port.fenced)]) { replays := [(9,7)], kept := [⟨8, { type := .ack, cls := 3, dst := 1, src := 2, body := .ack 0 }, 0⟩, ⟨9, { type := .ack, cls := 3, dst := 1, src := 2, body := .ack 0 }, 0⟩] }
def lane (n : Nat) (s : State) : State := put s [(F.portLanes 47, 255), (⟨Reg.testLaneErr, 31, 0⟩, 47 + n * 65536)]
def log : State := put up [(F.logEnable, 1), (F.logSize, 12)]
def logFull : State := log.setReg Reg.hmLogProd 128
def stage (n : Nat) : State := { put up [(F.unlockStage, n)] with safe := { unlockPath := some .portA } }
def unl : State := put up [(F.unlocked, 1)]
def v7 := { stage 2 with tb := { stime := 1000001 } }
def fw (n : W) : State := up.setReg Reg.fwLen n
def fimg : FlashImage := ⟨⟨0, true, 2⟩, 5⟩
def staged : State := { put up [(F.fwBusy, 1)] with board := { up.board with staged := some (fimg, 1) } }
def high : State := up.setPortReg 1 Reg.bar4Base 1535
def v8 := { up with board := { up.board with configOk := true } }

theorem witness_ConfigurationRegistersAndTbCfg :
  -- the clause at h.1.1.1
  (up.trap = none ∧
    up.bar0Open = true ∧
    up.erm.logCount = 0 ∧
    (logged up 1).trap = none ∧
    (logged up 1).bar0Open = true ∧
    (logged up 1).erm.logCount ≠ 0) ∧
  -- the clause at h.1.1.2.1
  (15 < 16 ∧
    up.trap = none ∧
    up.bar0Open = true ∧
    up.flag (F.poolEnable 15) = false ∧
    pool1.trap = none ∧
    pool1.bar0Open = true ∧
    pool1.flag (F.poolEnable 15) = true ∧
    bits 0 31 31 = 0 ∧
    pool1.poolNamed 15 = false ∧
    bits 2147483648 31 31 = 1) ∧
  -- the clause at h.1.1.2.2
  (15 < 16 ∧
    v1.trap = none ∧
    15 ∈ v1.erm.closing ∧
    v1.poolNamed 15 = false) ∧
  -- the clause at h.1.2
  (up.trap = none ∧
    up.bar0Open = true ∧
    4096 ≤ bits 4096 15 0 ∧
    bits 4096 15 0 ≠ 65535 ∧
    (bits 4095 15 0 < 4096 ∨ bits 4095 15 0 = 65535) ∧
    (∀ p < 48, up.flag (F.portEnable p) = false)) ∧
  -- the clause at h.1.2
  (up.trap = none ∧
    up.bar0Open = true ∧
    4096 ≤ bits 65535 15 0 ∧
    (bits 65535 15 0 < 4096 ∨ bits 65535 15 0 = 65535) ∧
    (∀ p < 48, up.flag (F.portEnable p) = false)) ∧
  -- the clause at h.2.1
  (att.trap = none ∧
    att.bar0Open = true ∧
    att.attested = true ∧
    att.flag F.logEnable = false) ∧
  -- the clause at h.2.2.1
  (v2.trap = none ∧
    v2.bar0Open = true ∧
    v2.attested = false ∧
    (v2.timers ≠ 0 ∨ 4 ≤ bits 1310721 2 0)) ∧
  -- the clause at h.2.2.2
  ((put up [(F.tbState, 1)]).trap = none ∧
    (put up [(F.tbState, 1)]).bar0Open = true ∧
    (put up [(F.tbState, 1)]).attested = false ∧
    (put up [(F.tbState, 1)]).timers = 0 ∧
    bits 1310738 2 0 ≠ (put up [(F.tbState, 1)]).fld F.tbRole ∧
    bits 1310738 2 0 = 2 ∧
    (put up [(F.tbState, 1)]).fld F.tbState = TbSt.acquiring) := by
  refine ⟨?_, ?_, ?_, ?_, ?_, ?_, ?_, ?_⟩ <;> decide +kernel

theorem witness_StimeReadLatchesHighHalf :
  -- the clause at h.1
  (v3.trap = none ∧
    v3.bar0Open = true) ∧
  -- the clause at h.2
  ((65544 = 65544 ∨ 65544 = 65548) ∧
    up.trap = none ∧
    up.bar0Open = true ∧
    (65548 = 65544 ∨ 65548 = 65548)) := by
  refine ⟨?_, ?_⟩ <;> decide +kernel

theorem witness_PortsAndLinksByTheirEvents :
  -- the clause at h.1
  (47 < 48 ∧
    up.trap = none ∧
    up.bar0Open = true ∧
    up.linkFree 47 ∧
    up.fld F.tbUpstream ≠ 47 ∧
    bits 0 31 31 = 0 ∧
    v4.trap = none ∧
    v4.bar0Open = true ∧
    v4.linkFree 47 ∧
    v4.fld F.tbUpstream = 47 ∧
    v4.fld F.tbRole = 0 ∧
    v4.timeLink 47 = true ∧
    (sig (port 47 0) { signal := true }).trap = none ∧
    (sig (port 47 0) { signal := true }).bar0Open = true ∧
    (sig (port 47 0) { signal := true }).linkFree 47 ∧
    (sig (port 47 0) { signal := true }).fld F.tbUpstream ≠ 47 ∧
    bits 2147550208 31 31 = 1 ∧
    (sig (port 47 0) { signal := true }).fld (F.portState 47) = Port.down ∧
    (sig (port 47 0) { signal := true }).fld F.package ≠ 65535 ∧
    ((sig (port 47 0) { signal := true }).portX 47).signal = true ∧
    (put up [(F.portState 47, 5)]).trap = none ∧
    (put up [(F.portState 47, 5)]).bar0Open = true ∧
    (put up [(F.portState 47, 5)]).linkFree 47 ∧
    (put up [(F.portState 47, 5)]).fld F.tbUpstream ≠ 47 ∧
    (port 47 2).trap = none ∧
    (port 47 2).bar0Open = true ∧
    (port 47 2).linkFree 47 ∧
    (port 47 2).fld F.tbUpstream ≠ 47 ∧
    bits 3221292032 31 31 = 1 ∧
    bits 3221292032 30 30 = 1 ∧
    (port 47 2).flag (F.portFence 47) = false ∧
    (port 47 2).fld (F.portState 47) = Port.up) ∧
  -- the clause at h.2.1.1
  (47 < 48 ∧
    47 < (port 47 2).fab.ports.length ∧
    (port 47 2).trap = none ∧
    (port 47 2).linkFree 47) ∧
  -- the clause at h.2.1.2.1
  (47 < 48 ∧
    47 < (port 47 0).fab.ports.length ∧
    (port 47 0).trap = none ∧
    (port 47 0).fld (F.portState 47) = Port.down ∧
    (port 47 0).flag (F.portEnable 47) = true ∧
    (port 47 0).fld F.package ≠ 65535) ∧
  -- the clause at h.2.1.2.2.1
  (47 < 48 ∧
    (port 47 1).trap = none ∧
    ((port 47 1).fld (F.portState 47) = Port.training ∨ (port 47 1).fld (F.portState 47) = Port.retrain) ∧
    0 = (port 47 1).fld (F.portPeer 47) ∧
    0 = (port 47 1).fld (F.portPeerPort 47) ∧
    255 ≠ 0 ∧
    (port 47 1).fencesPort 47 = false ∧
    1 ≠ 0) ∧
  -- the clause at h.2.1.2.2.2.1
  (47 < 48 ∧
    (port 47 1).Calm ∧
    ((port 47 1).fld (F.portState 47) = Port.training ∨ (port 47 1).fld (F.portState 47) = Port.retrain) ∧
    4095 ≠ (port 47 1).fld (F.portPeer 47) ∧
    4095 < 4096 ∧
    63 < 64 ∧
    1 ≠ 0) ∧
  -- the clause at h.2.1.2.2.2.2.1
  (47 < 48 ∧
    (port 47 1).trap = none ∧
    (port 47 1).linkFree 47 ∧
    (port 47 1).fld (F.portState 47) = Port.training) ∧
  -- the clause at h.2.1.2.2.2.2.2.1
  (47 < 48 ∧
    (port 47 7).trap = none ∧
    (port 47 7).fld (F.portState 47) ≠ Port.training) ∧
  -- the clause at h.2.1.2.2.2.2.2.2.1
  (47 < 48 ∧
    47 < (port 47 2).fab.ports.length ∧
    (port 47 2).trap = none ∧
    (port 47 2).portLive 47 = true) ∧
  -- the clause at h.2.1.2.2.2.2.2.2.2
  (47 < 48 ∧
    47 < v5.fab.ports.length ∧
    v5.trap = none ∧
    v5.linkFree 47 ∧
    v5.fld (F.portState 47) = Port.fenced ∧
    v5.flag (F.portFence 47) = false ∧
    v5.fab.selfFence = false) ∧
  -- the clause at h.2.1.2.2.1
  (47 < 48 ∧
    (put (port 47 1) [(F.portState 47, Port.retrain)]).trap = none ∧
    ((put (port 47 1) [(F.portState 47, Port.retrain)]).fld (F.portState 47) = Port.training ∨ (put (port 47 1)
      [(F.portState 47, Port.retrain)]).fld (F.portState 47) = Port.retrain) ∧
    0 = (put (port 47 1) [(F.portState 47, Port.retrain)]).fld (F.portPeer 47) ∧
    0 = (put (port 47 1) [(F.portState 47, Port.retrain)]).fld (F.portPeerPort 47) ∧
    255 ≠ 0 ∧
    (put (port 47 1) [(F.portState 47, Port.retrain)]).fencesPort 47 = false) ∧
  -- the clause at h.2.2.1
  (47 < 48 ∧
    (port 47 2).trap = none ∧
    (port 47 2).linkLive 47 = true ∧
    (put (port 47 2) [(F.portState 47, Port.fenced)]).trap = none ∧
    (put (port 47 2) [(F.portState 47, Port.fenced)]).linkLive 47 = true) ∧
  -- the clause at h.2.2.2.1
  (47 < 48 ∧
    47 < (sig (port 47 2) { replays := [(9, 6)] }).fab.ports.length ∧
    (sig (port 47 2) { replays := [(9, 6)] }).trap = none ∧
    (sig (port 47 2) { replays := [(9, 6)] }).linkLive 47 = true ∧
    ((sig (port 47 2) { replays := [(9, 6)] }).portX 47).replays = [(9, 6)] ∧
    (6 < 7 ∨ (sig (port 47 2) { replays := [(9, 6)] }).fld (F.portState 47) = Port.fenced) ∧
    47 < v6.fab.ports.length ∧
    v6.trap = none ∧
    v6.linkLive 47 = true ∧
    (v6.portX 47).replays = [(9, 7)] ∧
    (7 < 7 ∨ v6.fld (F.portState 47) = Port.fenced)) ∧
  -- the clause at h.2.2.2.2.1
  (47 < 48 ∧
    47 < (sig (port 47 2) { replays := [(9, 7)] }).fab.ports.length ∧
    (sig (port 47 2) { replays := [(9, 7)] }).trap = none ∧
    (sig (port 47 2) { replays := [(9, 7)] }).portLive 47 = true ∧
    ((sig (port 47 2) { replays := [(9, 7)] }).portX 47).replays = [(9, 7)] ∧
    ((sig (port 47 2) { replays := [(9, 7)] }).portX 47).retrains = [] ∧
    (sig (port 47 2) { replays := [(9, 7)] }).linkFree 47) ∧
  -- the clause at h.2.2.2.2.2
  (47 < 48 ∧
    47 < (sig (port 47 2) { fecCorr := 1023 }).fab.ports.length ∧
    (sig (port 47 2) { fecCorr := 1023 }).trap = none ∧
    ((sig (port 47 2) { fecCorr := 1023 }).portLive 47 = false ∨ (1 + if decide (15 < bits ((sig (port 47 2) { fecCorr := 1023 }).reg Reg.testLaneErr) 20 16) = true then (sig (port 47 2) { fecCorr := 1023 }).laneErrors 47 1000000000 else 0) * 1000000000 ≤ 1000000000) ∧
    (sig (port 47 2) { fecCorr := 1023 }).portLive 47 = true ∧
    47 < (sig (lane 3 (port 47 2)) { fecCorr := 1023 }).fab.ports.length ∧
    (sig (lane 3 (port 47 2)) { fecCorr := 1023 }).trap = none ∧
    ((sig (lane 3 (port 47 2)) { fecCorr := 1023 }).portLive 47 = false ∨ (0 + if decide (15 < bits ((sig (lane 3 (port 47 2)) { fecCorr := 1023 }).reg Reg.testLaneErr) 20 16) = true then (sig (lane 3 (port 47 2)) { fecCorr := 1023 }).laneErrors 47 4096 else 0) * 1000000000 ≤ 4096) ∧
    (sig (lane 3 (port 47 2)) { fecCorr := 1023 }).portLive 47 = true ∧
    47 < (sig (lane 16 (port 47 2)) { fecCorr := 1023 }).fab.ports.length ∧
    (sig (lane 16 (port 47 2)) { fecCorr := 1023 }).trap = none ∧
    (sig (lane 16 (port 47 2)) { fecCorr := 1023 }).portLive 47 = true ∧
    16 < (0 + if decide (15 < bits ((sig (lane 16 (port 47 2)) { fecCorr := 1023 }).reg Reg.testLaneErr) 20 16) = true then (sig (lane 16 (port 47 2)) { fecCorr := 1023 }).laneErrors 47 16 else 0) * 1000000000 ∧
    ((sig (lane 16 (port 47 2)) { fecCorr := 1023 }).portX 47).retrains = [] ∧
    (sig (lane 16 (port 47 2)) { fecCorr := 1023 }).linkFree 47 ∧
    1000000000 < (2 + if decide (15 < bits ((sig (port 47 2) { fecCorr := 1023 }).reg Reg.testLaneErr) 20 16) = true then (sig (port 47 2) { fecCorr := 1023 }).laneErrors 47 1000000000 else 0) * 1000000000 ∧
    ((sig (port 47 2) { fecCorr := 1023 }).portX 47).retrains = [] ∧
    (sig (port 47 2) { fecCorr := 1023 }).linkFree 47) := by
  refine ⟨?_, ?_, ?_, ?_, ?_, ?_, ?_, ?_, ?_, ?_, ?_, ?_, ?_, ?_⟩ <;> first
    | decide +kernel
    | (simp only [State.Calm, State.LogIn, State.linkFree]
       decide +kernel)

theorem witness_EventRecordsAndTheLog :
  -- the clause at h.1
  (up.flag F.logEnable = false ∧
    up.Calm ∧
    up.Sound ∧
    log.Calm ∧
    log.Sound ∧
    log.flag F.logEnable = true ∧
    log.eventRoom = true ∧
    logFull.Calm ∧
    logFull.Sound ∧
    logFull.flag F.logEnable = true ∧
    logFull.eventRoom = false) ∧
  -- the clause at h.2.1
  (up.trap = none ∧
    up.bar0Open = true ∧
    up.flag F.logEnable = false ∧
    log.trap = none ∧
    log.bar0Open = true ∧
    log.flag F.logEnable = true) ∧
  -- the clause at h.2.2
  (up.trap = none ∧
    up.bar0Open = true ∧
    bits 1 0 0 = 1 ∧
    up.cmds = []) := by
  refine ⟨?_, ?_, ?_⟩ <;> first
    | decide +kernel
    | (simp only [State.Sound, State.Calm, State.LogIn]
       decide +kernel)

theorem witness_TestRegistersObeyTheirLock :
  -- the clause at h.1.1
  (up.trap = none ∧
    up.bar0Open = true ∧
    up.attested = false ∧
    up.fld F.unlockStage = 0) ∧
  -- the clause at h.1.2.1
  ((stage 1).trap = none ∧
    (stage 1).bar0Open = true ∧
    (stage 1).attested = false ∧
    (stage 1).fld F.unlockStage = 1 ∧
    (stage 1).inSequence Path.portA = true) ∧
  -- the clause at h.1.2.2.1
  ((stage 2).Calm ∧
    (stage 2).bar0Open = true ∧
    (stage 2).attested = false ∧
    (stage 2).fld F.unlockStage = 2 ∧
    (stage 2).inSequence Path.portA = true ∧
    (stage 2).flag F.unlocked = false) ∧
  -- the clause at h.1.2.2.2.1
  (att.trap = none ∧
    att.bar0Open = true ∧
    att.attested = true) ∧
  -- the clause at h.1.2.2.2.2.1
  (unl.Calm ∧
    unl.bar0Open = true ∧
    unl.attested = false) ∧
  -- the clause at h.1.2.2.2.2.2
  (v7.trap = none ∧
    v7.fld F.unlockStage ≠ 0 ∧
    v7.safe.unlockAt + 1000000 < v7.tb.stime) ∧
  -- the clause at h.2
  (testOf (Instr.testTbOffsetWrite Path.portA 4294967291) = some (Reg.testTbOffset, 4294967291, 4294967291, 4294967295) ∧
    up.bar0Open = true ∧
    up.trap = none ∧
    up.flag F.unlocked = false ∧
    up.Calm ∧
    testOf (Instr.testEccInjWrite Path.portA 2147483648) = some (Reg.testEccInj, 2147483648, 0, 4278190080) ∧
    unl.bar0Open = true ∧
    unl.trap = none ∧
    unl.Calm ∧
    unl.flag F.unlocked = true ∧
    testOf (Instr.testHallDelayWrite Path.portA 15 255) = some (Reg.testHallDelay 15, 255, 255, 255)) := by
  refine ⟨?_, ?_, ?_, ?_, ?_, ?_, ?_⟩ <;> first
    | decide +kernel
    | (simp only [State.Calm, State.LogIn]
       decide +kernel)

theorem witness_RwlFieldsKeepTheirValuesInAttestedMode :
  -- the clause at h.1
  (regSpec Reg.tbCfg = some ((regSpec Reg.tbCfg).getD { off := 0 }) ∧
    ((regSpec Reg.tbCfg).getD { off := 0 }).rwl ≠ 0 ∧
    att.Calm ∧
    att.bar0Open = true ∧
    att.attested = true ∧
    att.Sound ∧
    (put att [(F.logEnable, 1), (F.logSize, 12)]).Calm ∧
    (put att [(F.logEnable, 1), (F.logSize, 12)]).bar0Open = true ∧
    (put att [(F.logEnable, 1), (F.logSize, 12)]).attested = true ∧
    (put att [(F.logEnable, 1), (F.logSize, 12)]).Sound ∧
    (put att [(F.logEnable, 1), (F.logSize, 12)]).flag F.logEnable = true ∧
    (put att [(F.logEnable, 1), (F.logSize, 12)]).eventRoom = true) ∧
  -- the clause at h.2
  ((Instr.fwCtlRaiseSvn Path.portA 1073741824 = Instr.fwCtlGo Path.portA 1073741824 (⟨0, true, 1⟩ : FwImage) ∨
      Instr.fwCtlRaiseSvn Path.portA 1073741824 = Instr.fwCtlRaiseSvn Path.portA 1073741824 ∨ Instr.fwCtlRaiseSvn
      Path.portA 1073741824 = Instr.registerWrite Path.portA Reg.fwCtl 1073741824) ∧
    att.Calm ∧
    att.bar0Open = true ∧
    att.attested = true ∧
    (Instr.fwCtlGo Path.portA 2147483648 (⟨0, true, 1⟩ : FwImage) = Instr.fwCtlGo Path.portA 2147483648 (⟨0, true, 1⟩ :
      FwImage) ∨ Instr.fwCtlGo Path.portA 2147483648 (⟨0, true, 1⟩ : FwImage) = Instr.fwCtlRaiseSvn Path.portA
      2147483648 ∨ Instr.fwCtlGo Path.portA 2147483648 (⟨0, true, 1⟩ : FwImage) = Instr.registerWrite Path.portA
      Reg.fwCtl 2147483648)) := by
  refine ⟨?_, ?_⟩ <;> first
    | decide +kernel
    | (simp only [State.Sound, State.Calm, State.LogIn]
       decide +kernel)

theorem witness_RegisterAccessesByTheirType :
  -- the clause at h.1.1
  (plainOff Reg.rstWindow = true ∧
    regSpec Reg.rstWindow = some ((regSpec Reg.rstWindow).getD { off := 0 }) ∧
    perPort Reg.rstWindow = false ∧
    up.trap = none ∧
    up.reaches Reg.rstWindow = true ∧
    (up.attested = false ∨ ((regSpec Reg.rstWindow).getD { off := 0 }).rwl = 0)) ∧
  -- the clause at h.1.2.1
  (plainOff 1048572 = true ∧
    regSpec 1048572 = none ∧
    up.trap = none) ∧
  -- the clause at h.1.2.2
  (plainOff Reg.rstWindow = true ∧
    Reg.rstWindow / 65536 ≠ 5 ∧
    State.reset.trap = none ∧
    State.reset.bar0Open = false) ∧
  -- the clause at h.2
  (up.trap = none ∧
    up.bar0Open = true ∧
    2 ^ 26 - 1 < 2 ^ 26) := by
  refine ⟨?_, ?_, ?_, ?_⟩ <;> decide +kernel

theorem witness_FirmwareLoadByItsSteps :
  -- the clause at h.1
  (up.trap = none ∧
    up.bar0Open = true ∧
    up.attested = false ∧
    bits 2147483648 31 31 = 1 ∧
    bits 2147483648 30 30 = 0 ∧
    up.flag F.fwBusy = false ∧
    (BitVec.toNat (up.reg Reg.fwLen) = 0 ∨ 33554432 < BitVec.toNat (up.reg Reg.fwLen)) ∧
    (put up [(F.fwBusy, 1)]).trap = none ∧
    (put up [(F.fwBusy, 1)]).bar0Open = true ∧
    (put up [(F.fwBusy, 1)]).attested = false ∧
    (put up [(F.fwBusy, 1)]).flag F.fwBusy = true ∧
    (fw 70).trap = none ∧
    (fw 70).bar0Open = true ∧
    (fw 70).attested = false ∧
    (fw 70).flag F.fwBusy = false ∧
    1 ≤ BitVec.toNat ((fw 70).reg Reg.fwLen) ∧
    BitVec.toNat ((fw 70).reg Reg.fwLen) ≤ 33554432 ∧
    (⟨0, true, 1⟩ : FwImage).key = (fw 70).fuses.keyHash ∧
    (⟨0, true, 1⟩ : FwImage).sigOk = true ∧
    (fw 70).fuses.minSvn ≤ (⟨0, true, 1⟩ : FwImage).svn ∧
    (fw 33554433).trap = none ∧
    (fw 33554433).bar0Open = true ∧
    (fw 33554433).attested = false ∧
    (fw 33554433).flag F.fwBusy = false ∧
    (BitVec.toNat ((fw 33554433).reg Reg.fwLen) = 0 ∨ 33554432 < BitVec.toNat ((fw 33554433).reg Reg.fwLen)) ∧
    1 ≤ BitVec.toNat ((fw 33554433).reg Reg.fwLen) ∧
    (fw 1).trap = none ∧
    (fw 1).bar0Open = true ∧
    (fw 1).attested = false ∧
    (fw 1).flag F.fwBusy = false ∧
    1 ≤ BitVec.toNat ((fw 1).reg Reg.fwLen) ∧
    BitVec.toNat ((fw 1).reg Reg.fwLen) ≤ 33554432 ∧
    ((⟨0, false, 1⟩ : FwImage).key ≠ (fw 1).fuses.keyHash ∨ (⟨0, false, 1⟩ : FwImage).sigOk = false ∨ (⟨0, false, 1⟩ :
      FwImage).svn < (fw 1).fuses.minSvn) ∧
    (⟨0, false, 1⟩ : FwImage).key = (fw 1).fuses.keyHash) ∧
  -- the clause at h.2.1
  (staged.trap = none ∧
    staged.board.staged = some (fimg, 1) ∧
    staged.board.romServes = false) ∧
  -- the clause at h.2.2
  (up.trap = none ∧
    up.bar0Open = true ∧
    up.attested = false ∧
    bits 1073741824 30 30 = 1) := by
  refine ⟨?_, ?_, ?_⟩ <;> decide +kernel

theorem witness_Bar4AndHostPortEvents :
  -- the clause at h.1
  (up.Sound ∧
    up.bar0Open = true ∧
    up.board.linkUp.getD 1 false = true ∧
    bits (up.portReg 1 Reg.bar4Base) 10 0 / 2 ^ min 6 (bits (up.config 1 336) 13 8 - 10) * 2 ^ min 6 (bits (up.config 1
      336) 13 8 - 10) * 2 ^ 30 + (2 ^ 30 - 2) + [7, 8].length ≤ cellarEnd ∧
    2 ^ 30 - 2 + [7, 8].length ≤ 2 ^ (30 + min 6 (bits (up.config 1 336) 13 8 - 10)) ∧
    bits (up.portReg 1 Reg.bar4Base) 10 0 / 2 ^ min 6 (bits (up.config 1 336) 13 8 - 10) * 2 ^ min 6 (bits (up.config 1
      336) 13 8 - 10) * 2 ^ 30 + (2 ^ 30 - 2) + 2 ≤ cellarEnd ∧
    2 ^ 30 - 2 + 2 ≤ 2 ^ (30 + min 6 (bits (up.config 1 336) 13 8 - 10)) ∧
    high.Sound ∧
    high.bar0Open = true ∧
    high.board.linkUp.getD 1 false = true ∧
    bits (high.portReg 1 Reg.bar4Base) 10 0 / 2 ^ min 6 (bits (high.config 1 336) 13 8 - 10) * 2 ^ min 6 (bits
      (high.config 1 336) 13 8 - 10) * 2 ^ 30 + (2 ^ 30 - 2) + [7, 8].length ≤ cellarEnd ∧
    2 ^ 30 - 2 + [7, 8].length ≤ 2 ^ (30 + min 6 (bits (high.config 1 336) 13 8 - 10)) ∧
    bits (high.portReg 1 Reg.bar4Base) 10 0 / 2 ^ min 6 (bits (high.config 1 336) 13 8 - 10) * 2 ^ min 6 (bits
      (high.config 1 336) 13 8 - 10) * 2 ^ 30 + (2 ^ 30 - 2) + 2 ≤ cellarEnd ∧
    2 ^ 30 - 2 + 2 ≤ 2 ^ (30 + min 6 (bits (high.config 1 336) 13 8 - 10)) ∧
    (cellarEnd < bits (high.portReg 1 Reg.bar4Base) 10 0 / 2 ^ min 6 (bits (high.config 1 336) 13 8 - 10) * 2 ^ min 6
      (bits (high.config 1 336) 13 8 - 10) * 2 ^ 30 + (2 ^ 30 - 2) + [7, 8, 9].length ∨ 2 ^ (30 + min 6 (bits
      (high.config 1 336) 13 8 - 10)) < 2 ^ 30 - 2 + [7, 8, 9].length)) ∧
  -- the clause at h.2.1
  ((put State.reset []).trap = none ∧
    (put State.reset []).powered = true ∧
    (put State.reset []).board.linkUp.getD 1 false = true ∧
    v8.trap = none ∧
    v8.powered = true ∧
    v8.board.linkUp.getD 1 false = true) ∧
  -- the clause at h.2.2.1
  (State.reset.trap = none ∧
    State.reset.powered = true ∧
    State.reset.board.linkUp.getD 1 false = true ∧
    State.reset.board.configOk = false ∧
    State.reset.board.romServes = false) ∧
  -- the clause at h.2.2.2.1
  ((Instr.perstAssert 1 = Instr.perstAssert 1 ∨ Instr.perstAssert 1 = Instr.functionLevelReset 1) ∧
    1 < 2 ∧
    high.trap = none ∧
    Tab.wf portReset high.portRegs = true ∧
    (Instr.functionLevelReset 1 = Instr.perstAssert 1 ∨ Instr.functionLevelReset 1 = Instr.functionLevelReset 1)) ∧
  -- the clause at h.2.2.2.2
  (1 < up.board.linkUp.length ∧
    1 < up.board.perst.length ∧
    up.trap = none ∧
    up.powered = true) := by
  refine ⟨?_, ?_, ?_, ?_, ?_⟩ <;> first
    | decide +kernel
    | (simp only [State.Sound]
       decide +kernel)

end Sys2Proof.Tests.W2

/-! ### Power, telemetry, management, time -/

namespace Sys2Proof.Tests.W3
open Sys2Proof Sys2Proof.Machine Sys2Proof.Tests

def dev (n : Nat) : State := put State.reset [(F.devState, n)]
def v1 := { dev 1 with board := { accepted := false } }
def dirtyMem (s : State) : State := { s with mem := [⟨3*2^64+4096, 7⟩, ⟨4*2^64, 9⟩] }
def off (s : State) : State := { s with board := { s.board with telem := [(0x101, 4)] } }
def v2 := { up with board := { up.board with telem := [(0x100, 1), (0x101, 4)] } }
def mg : State := put up [(F.mgmtEnable, 1), (F.mgmtPtp, 1), (F.ringSource 0, 2)]
def hd (d : BitVec 48) (t : Bool) : FrameHead := ⟨d, 9, t⟩
def link (st role : Nat) : State := put up [(F.portState 47, 2), (F.tbState, st), (F.tbRole, role), (F.tbUpstream, 47)]
def sent (s : State) : State := { s with tb := { s.tb with ports := s.tb.ports.set 47 { sent := [(7, 90)] } } }
def word (a : W) : List W := [0x5AE00007, a, 0, 0x00070000, 2]
def v3 := sent { at_ (link 2 0) 100 with tb := { (link 2 0).tb with stime := 100, bad := 15 } }
def ptp (t : Nat) : State := { put mg [(F.tbRole, 2), (F.tbState, 1)] with tb := { stime := t, bStime := t, epoch := true, ptp := { t1 := some 1000, t2 := t, t3 := some t } } }
def tl : Cmd := cmd 0x03 [7, 1]
def role (n : Nat) : State := put (one tl) [(F.tbRole, n)]
def v4 := { put (role 1) [(F.tbState, 1)] with tb := { (role 1).tb with loaded := some 8 } }
def v5 := { role 1 with tb := { (role 1).tb with loaded := some 8 } }
def sn (ph : Phase) : Cmd := { cmd 0 [] with flags := 4, t := 100, phase := ph }
def wr : Cmd := { id := ⟨0, 4⟩, opcode := 0x01, words := [0,0,0,0,0,6,1], phase := .running }
def fsn : Cmd := { sn .armed with flags := 12, order := 1 }
def v6 := { at_ up 100 with cmds := [wr, fsn] }

theorem witness_PowerSequenceAndSupplyLoss :
  -- the clause at h.1.1
  ((dev 0).trap = none ∧
    (dev 0).fld F.devState = Dev.off) ∧
  -- the clause at h.1.2.1
  ((dev 1).trap = none ∧
    (dev 1).board.auxOk = true) ∧
  -- the clause at h.1.2.2.1
  (v1.trap = none) ∧
  -- the clause at h.1.2.2.2.1
  (v1.trap = none ∧
    (v1.board.auxPg = false ∨ v1.board.accepted = false ∨ v1.board.trip = true ∨ v1.rst.hallsOff = true) ∧
    (dirtyMem (dev 1)).Inv ∧
    (dirtyMem (dev 1)).board.auxPg = true ∧
    (dirtyMem (dev 1)).board.accepted = true ∧
    (dirtyMem (dev 1)).board.trip = false ∧
    (dirtyMem (dev 1)).rst.hallsOff = false ∧
    (dirtyMem (dev 1)).fld F.devState = Dev.standby) ∧
  -- the clause at h.2.1
  ((dirtyMem up).Inv ∧
    (dirtyMem up).bar0Open = true ∧
    (dirtyMem up).board.accepted = true) ∧
  -- the clause at h.2.2.1
  ((dirtyMem up).Inv ∧
    (dirtyMem up).bar0Open = true ∧
    (dirtyMem up).board.accepted = true ∧
    (dirtyMem up).board.faultN = false) ∧
  -- the clause at h.2.2.2.1
  ((dirtyMem up).Inv ∧
    (dirtyMem up).bar0Open = true ∧
    41 < 42 ∧
    (dirtyMem up).board.trip = false) ∧
  -- the clause at h.2.2.2.2.1
  (v1.trap = none ∧
    v1.fld F.devState = Dev.standby ∧
    v1.board.accepted = false) ∧
  -- the clause at h.2.2.2.2.2.1
  (up.trap = none) ∧
  -- the clause at h.2.2.2.2.2.2.1
  (up.trap = none) ∧
  -- the clause at h.2.2.2.2.2.2.2
  (up.trap = none) := by
  refine ⟨?_, ?_, ?_, ?_, ?_, ?_, ?_, ?_, ?_, ?_, ?_⟩ <;> first
    | decide +kernel
    | (simp only [State.Inv]
       decide +kernel)

theorem witness_TelemetryI3cAndJtag :
  -- the clause at h.1.1
  (up.trap = none ∧
    up.powered = true ∧
    (List.replicate 44 1600).length = 44 ∧
    (∀ x ∈ List.replicate 44 1600, -32768 < x ∧ x < 32768) ∧
    up.board.hot = false ∧
    1600 ≤ List.foldl max (-32768) (List.take 16 (List.replicate 44 1600)) ∧
    (List.replicate 44 (-5)).length = 44 ∧
    (∀ x ∈ List.replicate 44 (-5), -32768 < x ∧ x < 32768) ∧
    List.foldl max (-32768) (List.take 16 (List.replicate 44 (-5))) < 1600) ∧
  -- the clause at h.1.2.1
  ((I3cAssign.entdaa 85 = I3cAssign.entdaa 85 ∨ I3cAssign.entdaa 85 = I3cAssign.setdasa 42 85) ∧
    up.trap = none ∧
    up.board.auxOk = true ∧
    (I3cAssign.setdasa 42 85 = I3cAssign.entdaa 85 ∨ I3cAssign.setdasa 42 85 = I3cAssign.setdasa 42 85)) ∧
  -- the clause at h.1.2.2.1
  (43 ≠ 42 ∧
    up.trap = none) ∧
  -- the clause at h.1.2.2.2.1
  (up.trap = none ∧
    up.board.auxOk = true ∧
    [1, 2, 3, 4].length = 4) ∧
  -- the clause at h.1.2.2.2.2.1
  (up.trap = none ∧
    up.board.auxOk = true) ∧
  -- the clause at h.1.2.2.2.2.2.1
  ((off up).trap = none ∧
    (off up).board.auxOk = true ∧
    (off up).bar0Open = true ∧
    ofLe (Tab.gets telemDefault (off up).board.telem 256 4) = 1024 ∧
    1024 % 4 = 0 ∧
    1024 ≠ 65544) ∧
  -- the clause at h.1.2.2.2.2.2.2.1
  (v2.trap = none ∧
    v2.board.auxOk = true ∧
    v2.bar0Open = true ∧
    ofLe (Tab.gets telemDefault v2.board.telem 256 4) = 1025 ∧
    1025 % 4 ≠ 0) ∧
  -- the clause at h.1.2.2.2.2.2.2.2
  ((dev 1).trap = none ∧
    (dev 1).board.auxOk = true ∧
    (dev 1).bar0Open = false) ∧
  -- the clause at h.2.1
  (up.trap = none ∧
    up.board.modPg = true ∧
    1 < 2) ∧
  -- the clause at h.2.2.1
  ((dev 2).trap = none ∧
    (dev 2).board.modPg = true ∧
    1 < 2 ∧
    (((dev 2).fld F.devState = Dev.boot ∨ (dev 2).fld F.devState = Dev.quiesced ∨ (dev 2).fld F.devState = Dev.retired) ∧
      (dev 2).attested = false) ∧
    up.trap = none ∧
    up.board.modPg = true ∧
    (¬((up.fld F.devState = Dev.boot ∨ up.fld F.devState = Dev.quiesced ∨ up.fld F.devState = Dev.retired) ∧ up.attested =
      false))) ∧
  -- the clause at h.2.2.2.1
  (up.trap = none ∧
    up.board.modPg = true ∧
    1 < 2) ∧
  -- the clause at h.2.2.2.2
  (up.trap = none ∧
    up.board.modPg = true ∧
    1 < 2 ∧
    6 ≤ 6 ∧
    up.flag F.unlocked = false ∧
    (put up [(F.unlocked, 1)]).trap = none ∧
    (put up [(F.unlocked, 1)]).board.modPg = true ∧
    (put up [(F.unlocked, 1)]).flag F.unlocked = true) := by
  refine ⟨?_, ?_, ?_, ?_, ?_, ?_, ?_, ?_, ?_, ?_, ?_, ?_⟩ <;> decide +kernel

theorem witness_ManagementPortTakesItsFrames :
  -- the clause at h.1
  (mg.trap = none ∧
    mg.mgmtLive = true ∧
    mg.takesBells = true ∧
    mg.flag (F.ringEnable (wbits [0, 0] 1 11 0)) = true ∧
    mg.fld (F.ringSource (wbits [0, 0] 1 11 0)) = 2 ∧
    mg.pendingCount (wbits [0, 0] 1 11 0) < 2 ^ mg.fld (F.ringLog2 (wbits [0, 0] 1 11 0))) ∧
  -- the clause at h.2.1
  (mg.trap = none ∧
    mg.mgmtLive = true ∧
    ((hd 0 true).tagged = true ∨ (hd 0 true).dst ≠ mg.fuses.mac) ∧
    ((hd 5 false).tagged = true ∨ (hd 5 false).dst ≠ mg.fuses.mac)) ∧
  -- the clause at h.2.2.1
  ((mg.setReg Reg.mgmtIp 7).trap = none ∧
    (mg.setReg Reg.mgmtIp 7).mgmtLive = true ∧
    (hd 0 false).tagged = false ∧
    ((hd 0 false).dst = (mg.setReg Reg.mgmtIp 7).fuses.mac ∨ (hd 0 false).dst = 281474976710655) ∧
    7 ≠ 0 ∧
    (mg.setReg Reg.mgmtIp 7).reg Reg.mgmtIp = 7 ∧
    ((hd 0 true).tagged = true ∨ (hd 0 true).dst ≠ (mg.setReg Reg.mgmtIp 7).fuses.mac ∧ (hd 0 true).dst ≠ 281474976710655
      ∨ 7 = 0 ∨ (mg.setReg Reg.mgmtIp 7).reg Reg.mgmtIp ≠ 7) ∧
    mg.trap = none ∧
    mg.mgmtLive = true ∧
    ((hd 0 false).dst = mg.fuses.mac ∨ (hd 0 false).dst = 281474976710655) ∧
    ((hd 0 false).tagged = true ∨ (hd 0 false).dst ≠ mg.fuses.mac ∧ (hd 0 false).dst ≠ 281474976710655 ∨ 7 = 0 ∨ mg.reg
      Reg.mgmtIp ≠ 7)) ∧
  -- the clause at h.2.2.2
  (mg.trap = none ∧
    mg.mgmtLive = true) := by
  refine ⟨?_, ?_, ?_, ?_⟩ <;> decide +kernel

theorem witness_TimeBaseFollowsItsReference :
  -- the clause at h.1
  (47 < (at_ (link 2 0) 100).tb.ports.length ∧
    (at_ (link 2 0) 100).trap = none ∧
    (at_ (link 2 0) 100).timeLink 47 = true ∧
    ((at_ (link 2 0) 100).timePort 47).txSeq < 2 ^ 16) ∧
  -- the clause at h.2.1
  (47 < 48 ∧
    47 < (sent (at_ (link 2 0) 100)).tb.ports.length ∧
    (sent (at_ (link 2 0) 100)).trap = none ∧
    (sent (at_ (link 2 0) 100)).timeLink 47 = true ∧
    (sent (at_ (link 2 0) 100)).fld F.tbRole = 0 ∧
    (sent (at_ (link 2 0) 100)).fld F.tbUpstream = 47 ∧
    (sent (at_ (link 2 0) 100)).fld F.tbState = TbSt.locked ∧
    (word 100).length = 5 ∧
    wbits (word 100) 0 31 24 = 90 ∧
    wbits (word 100) 0 23 20 < 15 ∧
    List.find? (fun (e : ℕ × ℕ) => e.1 == wbits (word 100) 3 31 16) ((sent (at_ (link 2 0) 100)).timePort 47).sent = some
      (wbits (word 100) 3 31 16, 90) ∧
    47 < v3.tb.ports.length ∧
    v3.trap = none ∧
    v3.timeLink 47 = true ∧
    v3.fld F.tbRole = 0 ∧
    v3.fld F.tbUpstream = 47 ∧
    v3.fld F.tbState = TbSt.locked ∧
    (word 1000).length = 5 ∧
    wbits (word 1000) 0 31 24 = 90 ∧
    wbits (word 1000) 0 23 20 < 15 ∧
    List.find? (fun (e : ℕ × ℕ) => e.1 == wbits (word 1000) 3 31 16) (v3.timePort 47).sent = some (wbits (word 1000) 3 31
      16, 90)) := by
  refine ⟨?_, ?_⟩ <;> decide +kernel

end Sys2Proof.Tests.W3

/-! ### Resets, device commands, scrubbing, packets, administration -/

namespace Sys2Proof.Tests.W4
open Sys2Proof Sys2Proof.Machine Sys2Proof.Tests

def dev (n : Nat) : State := put State.reset [(F.devState, n)]
def v1 := { dev 6 with rst := { wdB := true, wdDue := 2 } }
def v2 := { dev 6 with rst := { wdB := true } }
def v3 := { dev 2 with rst := { wdA := true } }
def fi (ok : Bool) (v : Nat) : FlashImage := ⟨⟨0, ok, v⟩, 5⟩
def fi6 : FlashImage := ⟨⟨0, true, 255⟩, 6⟩
def slots2 (a b x y : FlashImage) : State := { State.reset with board := { flash := [[some a, some b], [some x, some y]] } }
def v4 := { slots2 (fi true 7) (fi true 255) (fi true 7) (fi true 255) with rst := { State.reset.rst with retired := true } }
def v5 := slots2 (fi false 7) (fi true 255) (fi false 7) (fi true 254)
def v6 := { up with rst := { opsec := 59 } }
def run (s : State) (m : Cmd) : State := { s with cmds := [m] }
def quiet1 : State := put up [(F.devState, 4), (F.package, 3), (F.portState 47, 2)]
def qs : State := { put up [(F.devState, 5), (F.qcause, 1)] with rst := { stopped := true, ownQuench := true }, fab := { quench0 := true, selfFence := true } }
def busyQ : State := { at_ qs 10000000 with fab := { qs.fab with outq := [{ type := .write, cls := 3, dst := 1, src := 3, body := .ack 1 }] } }
def ret : State := put up [(F.devState, 7), (F.package, 3)]
def jobs (n : Nat) (s : State) : State := { s with rst := { s.rst with jobs := (List.range n).map fun i => ⟨100 + i, 3, 0⟩ } }
def note (job : Nat) (w0 w1 w2 : W) : Pkt := { type := .notice, cls := 0, dst := 0xFFFF, src := 7, job := job, seq := 2, sink := 4, body := .notice w0 w1 w2 0 }
def v7 := { cmd 0x10 [] with job := 9 }
def v8 := run (put quiet1 [(F.portState 46, 2)]) { cmd 0x10 [] with job := 9 }
def errs (n : Nat) : State := { up with errs := if n = 0 then [] else [(memKey 3 64, n)] }
def v9 := { put up [(F.zeroing 11, 1), (F.bootZeroing, 1)] with zeroAt := [(11, 2^31-1)] }
def rung (ws : List W) (set : Bool) : State := { place (put up [(F.ringSource 0, 1), (F.ringExpected 0, 5)]) 3 0 ws with rings := [(0, { prod := 1, expSet := set })] }
def nopW : List W := [0x00030005, 0, 0, 0]
def wsOf (s : State) : List W := s.peekWords (s.packetAt 0).1 (s.packetAt 0).2 16
def wt (r q : W) : Cmd := cmd 1 [r, q, 3]
def entry (w : W) : State := place (one (wt 0 6)) 3 (0x1000 + 6 * 32) [w]
def wtr : Cmd := { wt 0 6 with phase := .running, start := 10 }
def entryR (w : W) : State := { entry w with cmds := [wtr] }
def ab : Cmd := cmd 2 [0]
def vic : Cmd := { cmd 0x10 [] with id := ⟨0, 4⟩ }
def noReply (s : State) : State := put s [(F.cqEnable 0, 0)]
def v10 := { noReply up with cmds := [vic, ab] }
def v11 := { ab with phase := .running }
def v12 := one { ab with phase := .running }

theorem witness_ResetAndBootByTheirEvents :
  -- the clause at h.1
  (999 < 1000) ∧
  -- the clause at h.2.1
  (up.trap = none) ∧
  -- the clause at h.2.2.1
  ((ResetPin.pulse 1000 = ResetPin.held ∨ ResetPin.pulse 1000 = ResetPin.pulse 1000) ∧
    1000 ≤ 1000 ∧
    up.trap = none ∧
    up.cmds = [] ∧
    (up.ck.stream = none ∨ up.flag F.logEnable = false) ∧
    up.canReset = true ∧
    (ResetPin.held = ResetPin.held ∨ ResetPin.held = ResetPin.pulse 1000) ∧
    State.reset.trap = none ∧
    State.reset.cmds = [] ∧
    (State.reset.ck.stream = none ∨ State.reset.flag F.logEnable = false) ∧
    State.reset.canReset = false) ∧
  -- the clause at h.2.2.2.1
  ((place (place (dev 6) 3 4096 [7]) 0 0 [9]).Inv ∧
    (place (place (dev 6) 3 4096 [7]) 0 0 [9]).fld F.devState = Dev.resetting) ∧
  -- the clause at h.2.2.2.2.1
  (v1.trap = none ∧
    v1.cmds = [] ∧
    (v1.fld F.devState = Dev.resetting ∨ v1.fld F.devState = Dev.boot) ∧
    v1.rst.opsec + 1 < v1.rst.wdDue ∧
    v2.trap = none ∧
    v2.cmds = [] ∧
    (v2.fld F.devState = Dev.resetting ∨ v2.fld F.devState = Dev.boot) ∧
    v2.rst.wdDue ≤ v2.rst.opsec + 1 ∧
    v2.rst.wdB = true ∧
    v3.trap = none ∧
    v3.cmds = [] ∧
    (v3.fld F.devState = Dev.resetting ∨ v3.fld F.devState = Dev.boot) ∧
    v3.rst.wdDue ≤ v3.rst.opsec + 1 ∧
    v3.rst.wdB = false ∧
    v3.rst.wdA = true ∧
    (dev 2).trap = none ∧
    (dev 2).cmds = [] ∧
    ((dev 2).fld F.devState = Dev.resetting ∨ (dev 2).fld F.devState = Dev.boot) ∧
    (dev 2).rst.wdDue ≤ (dev 2).rst.opsec + 1 ∧
    (dev 2).rst.wdB = false ∧
    (dev 2).rst.wdA = false) ∧
  -- the clause at h.2.2.2.2.2.1
  ((slots2 (fi true 7) (fi true 255) (fi true 7) (fi true 255)).trap = none ∧
    (slots2 (fi true 7) (fi true 255) (fi true 7) (fi true 255)).fld F.devState = Dev.boot ∧
    (slots2 (fi true 7) (fi true 255) (fi true 7) (fi true 255)).rst.warmBoot = false ∧
    (slots2 (fi true 7) (fi true 255) (fi true 7) (fi true 255)).board.flash = [[some (fi true 7), some (fi true 255)],
      [some (fi true 7), some (fi true 255)]] ∧
    (fi true 7).image.key = (slots2 (fi true 7) (fi true 255) (fi true 7) (fi true 255)).fuses.keyHash ∧ (fi true
      7).image.sigOk = true ∧ (slots2 (fi true 7) (fi true 255) (fi true 7) (fi true 255)).fuses.minSvn ≤ (fi true
      7).image.svn ∧
    (fi true 255).image.key = (slots2 (fi true 7) (fi true 255) (fi true 7) (fi true 255)).fuses.keyHash ∧ (fi true
      255).image.sigOk = true ∧ (slots2 (fi true 7) (fi true 255) (fi true 7) (fi true 255)).fuses.minSvn ≤ (fi true
      255).image.svn ∧
    max (fi true 7).image.svn (fi true 255).image.svn < 2 ^ 8 ∧
    v4.trap = none ∧
    v4.fld F.devState = Dev.boot ∧
    v4.rst.warmBoot = false ∧
    v4.board.flash = [[some (fi true 7), some (fi true 255)], [some (fi true 7), some (fi true 255)]] ∧
    (fi true 7).image.key = v4.fuses.keyHash ∧ (fi true 7).image.sigOk = true ∧ v4.fuses.minSvn ≤ (fi true 7).image.svn ∧
    (fi true 255).image.key = v4.fuses.keyHash ∧ (fi true 255).image.sigOk = true ∧ v4.fuses.minSvn ≤ (fi true
      255).image.svn ∧
    v4.mustRetire = true ∧
    (slots2 (fi true 7) (fi true 7) (fi true 7) (fi true 7)).trap = none ∧
    (slots2 (fi true 7) (fi true 7) (fi true 7) (fi true 7)).fld F.devState = Dev.boot ∧
    (slots2 (fi true 7) (fi true 7) (fi true 7) (fi true 7)).rst.warmBoot = false ∧
    (slots2 (fi true 7) (fi true 7) (fi true 7) (fi true 7)).board.flash = [[some (fi true 7), some (fi true 7)], [some
      (fi true 7), some (fi true 7)]] ∧
    (fi true 7).image.key = (slots2 (fi true 7) (fi true 7) (fi true 7) (fi true 7)).fuses.keyHash ∧ (fi true
      7).image.sigOk = true ∧ (slots2 (fi true 7) (fi true 7) (fi true 7) (fi true 7)).fuses.minSvn ≤ (fi true
      7).image.svn ∧
    max (fi true 7).image.svn (fi true 7).image.svn < 2 ^ 8 ∧
    v5.trap = none ∧
    v5.fld F.devState = Dev.boot ∧
    v5.rst.warmBoot = false ∧
    v5.board.flash = [[some (fi false 7), some (fi true 255)], [some (fi false 7), some (fi true 254)]] ∧
    (¬((fi false 7).image.key = v5.fuses.keyHash ∧ (fi false 7).image.sigOk = true ∧ v5.fuses.minSvn ≤ (fi false
      7).image.svn) ∨ ¬((fi false 7).image.key = v5.fuses.keyHash ∧ (fi false 7).image.sigOk = true ∧ v5.fuses.minSvn
      ≤ (fi false 7).image.svn) ∨ (fi false 7).digest ≠ (fi false 7).digest) ∧
    (slots2 (fi false 7) (fi true 255) (fi false 7) fi6).trap = none ∧
    (slots2 (fi false 7) (fi true 255) (fi false 7) fi6).fld F.devState = Dev.boot ∧
    (slots2 (fi false 7) (fi true 255) (fi false 7) fi6).rst.warmBoot = false ∧
    (slots2 (fi false 7) (fi true 255) (fi false 7) fi6).board.flash = [[some (fi false 7), some (fi true 255)], [some (fi
      false 7), some fi6]] ∧
    (¬((fi false 7).image.key = (slots2 (fi false 7) (fi true 255) (fi false 7) fi6).fuses.keyHash ∧ (fi false
      7).image.sigOk = true ∧ (slots2 (fi false 7) (fi true 255) (fi false 7) fi6).fuses.minSvn ≤ (fi false
      7).image.svn) ∨ ¬((fi false 7).image.key = (slots2 (fi false 7) (fi true 255) (fi false 7) fi6).fuses.keyHash ∧
      (fi false 7).image.sigOk = true ∧ (slots2 (fi false 7) (fi true 255) (fi false 7) fi6).fuses.minSvn ≤ (fi false
      7).image.svn) ∨ (fi false 7).digest ≠ (fi false 7).digest) ∧
    (¬((fi true 255).image.key = (slots2 (fi false 7) (fi true 255) (fi false 7) fi6).fuses.keyHash ∧ (fi true
      255).image.sigOk = true ∧ (slots2 (fi false 7) (fi true 255) (fi false 7) fi6).fuses.minSvn ≤ (fi true
      255).image.svn) ∨ ¬(fi6.image.key = (slots2 (fi false 7) (fi true 255) (fi false 7) fi6).fuses.keyHash ∧
      fi6.image.sigOk = true ∧ (slots2 (fi false 7) (fi true 255) (fi false 7) fi6).fuses.minSvn ≤ fi6.image.svn) ∨
      (fi true 255).digest ≠ fi6.digest)) ∧
  -- the clause at h.2.2.2.2.2.2
  (v6.trap = none ∧
    v6.fld F.devState ≠ Dev.off ∧
    v6.powered = true) := by
  refine ⟨?_, ?_, ?_, ?_, ?_, ?_, ?_⟩ <;> first
    | decide +kernel
    | (simp only [State.Inv]
       decide +kernel)

theorem witness_DeviceCommandsAndJobAborts :
  -- the clause at h.1.1
  ((run quiet1 (cmd 118 [])).Runs c0 118 (cmd 118 []) ∧
    (run quiet1 (cmd 118 [])).fld F.devState = Dev.running ∧
    (run quiet1 (cmd 118 [])).ck.stream = none ∧
    (run quiet1 (cmd 118 [])).fab.outq = [] ∧
    (∀ o ∈ (run quiet1 (cmd 118 [])).cmds, o.job = 0 ∧ o.opcode ≠ 96 ∧ o.opcode ≠ 147 ∧ o.ops = [])) ∧
  -- the clause at h.1.2.1
  (busyQ.trap = none ∧
    busyQ.fld F.devState = Dev.quiesced ∧
    busyQ.jobsToAbort = [] ∧
    (∀ o ∈ busyQ.cmds, o.opcode ≠ 96) ∧
    busyQ.rst.quiesceAt + busyQ.quiesceLimit ≤ busyQ.tb.stime ∧
    busyQ.packageIdle = false ∧
    qs.trap = none ∧
    qs.fld F.devState = Dev.quiesced ∧
    qs.jobsToAbort = [] ∧
    (∀ o ∈ qs.cmds, o.opcode ≠ 96) ∧
    (qs.tb.stime < qs.rst.quiesceAt + qs.quiesceLimit ∨ qs.packageIdle = true)) ∧
  -- the clause at h.1.2.2.1
  ((run qs (cmd 119 [])).Runs c0 119 (cmd 119 []) ∧
    (∀ p < 48, (run qs (cmd 119 [])).linkFree p) ∧
    (run qs (cmd 119 [])).fld F.devState = Dev.quiesced ∧ (run qs (cmd 119 [])).fld F.qcause = 1 ∧
    (run up (cmd 119 [])).Runs c0 119 (cmd 119 []) ∧
    (∀ p < 48, (run up (cmd 119 [])).linkFree p) ∧
    ¬((run up (cmd 119 [])).fld F.devState = Dev.quiesced ∧ (run up (cmd 119 [])).fld F.qcause = 1)) ∧
  -- the clause at h.1.2.2.2.1
  ((run up (cmd 116 [])).Runs c0 116 (cmd 116 []) ∧
    (run up (cmd 116 [])).canReset = true ∧
    ((run up (cmd 116 [])).ck.stream = none ∨ (run up (cmd 116 [])).flag F.logEnable = false) ∧
    (∀ o ∈ (run up (cmd 116 [])).cmds, o.job = 0 ∧ o.opcode ≠ 96)) ∧
  -- the clause at h.1.2.2.2.2.1
  ((run ret (cmd 117 [2902458371])).Runs c0 117 (cmd 117 [2902458371]) ∧
    (run ret (cmd 117 [2902458371])).fld F.devState = Dev.retired ∧
    (∀ o ∈ (run ret (cmd 117 [2902458371])).cmds, o.job = 0 ∧ o.opcode ≠ 96) ∧
    (cmd 117 [2902458371]).word 4 = 2902458368 + (run ret (cmd 117 [2902458371])).pkg ∧
    (run ret (cmd 117 [2902458370])).Runs c0 117 (cmd 117 [2902458370]) ∧
    (run ret (cmd 117 [2902458370])).fld F.devState = Dev.retired ∧
    (∀ o ∈ (run ret (cmd 117 [2902458370])).cmds, o.job = 0 ∧ o.opcode ≠ 96) ∧
    (cmd 117 [2902458370]).word 4 ≠ 2902458368 + (run ret (cmd 117 [2902458370])).pkg) ∧
  -- the clause at h.1.2.2.2.2.2
  ((jobs 16 (run quiet1 (cmd 120 [2147483748]))).Runs c0 120 (cmd 120 [2147483748]) ∧
    (jobs 16 (run quiet1 (cmd 120 [2147483748]))).bndBase = 0 ∧
    (∀ o ∈ (jobs 16 (run quiet1 (cmd 120 [2147483748]))).cmds, o.opcode ≠ 96) ∧
    (cmd 120 [2147483748]).bits 4 31 31 = 1 ∧
    (jobs 15 (run quiet1 (cmd 120 [9]))).Runs c0 120 (cmd 120 [9]) ∧
    (jobs 15 (run quiet1 (cmd 120 [9]))).bndBase = 0 ∧
    (∀ o ∈ (jobs 15 (run quiet1 (cmd 120 [9]))).cmds, o.opcode ≠ 96) ∧
    (cmd 120 [9]).bits 4 31 31 = 0 ∧
    (cmd 120 [9]).bits 4 15 0 ≠ 0 ∧
    (∀ o ∈ (jobs 15 (run quiet1 (cmd 120 [9]))).cmds, o.job ≠ (cmd 120 [9]).bits 4 15 0) ∧
    (∀ r ∈ (jobs 15 (run quiet1 (cmd 120 [9]))).rst.jobs, r.job ≠ (cmd 120 [9]).bits 4 15 0) ∧
    (jobs 15 (run quiet1 (cmd 120 [9]))).rst.jobs.length < 16 ∧
    (jobs 15 (run quiet1 (cmd 120 [9]))).noticeRoom = true ∧
    (jobs 16 (run quiet1 (cmd 120 [9]))).Runs c0 120 (cmd 120 [9]) ∧
    (jobs 16 (run quiet1 (cmd 120 [9]))).bndBase = 0 ∧
    (∀ o ∈ (jobs 16 (run quiet1 (cmd 120 [9]))).cmds, o.opcode ≠ 96) ∧
    (∀ o ∈ (jobs 16 (run quiet1 (cmd 120 [9]))).cmds, o.job ≠ (cmd 120 [9]).bits 4 15 0) ∧
    (∀ r ∈ (jobs 16 (run quiet1 (cmd 120 [9]))).rst.jobs, r.job ≠ (cmd 120 [9]).bits 4 15 0) ∧
    16 ≤ (jobs 16 (run quiet1 (cmd 120 [9]))).rst.jobs.length ∧
    (jobs 16 (run quiet1 (cmd 120 [9]))).noticeRoom = true) ∧
  -- the clause at h.2
  (v8.cmds = [v7] ∧
    v7.job = (note 9 0 0 0).job ∧
    (note 9 0 0 0).job ≠ 0 ∧
    v8.CanEnd v7.id ∧
    v8.bndBase = 0 ∧
    v8.rst.held = [] ∧
    (∀ q ∈ v8.fab.seen, v8.tb.stime < q.2.2 + 1000000 → q.1 = (note 9 0 0 0).src → q.2.1 ≠ (note 9 0 0 0).seq) ∧
    v8.abortRec (note 9 0 0 0).job = none ∧
    v8.rst.jobs.length < 16) := by
  refine ⟨?_, ?_, ?_, ?_, ?_, ?_, ?_⟩ <;> first
    | decide +kernel
    | (simp only [State.Runs, State.CanEnd, State.Sound, State.linkFree, State.EndsBare]
       decide +kernel)

theorem witness_ScrubAndZeroingByLine :
  -- the clause at h.1
  ((errs 0).Calm ∧
    (3 = 3 ∨ 3 = 4) ∧
    (errs 0).hasAddr 3 (64 * 1) = true ∧
    Tab.get noErr (errs 0).errs (memKey 3 (64 * 1)) ≤ 5 ∧
    (errs 0).flag F.logEnable = false ∧
    (errs 3).Calm ∧
    (errs 3).hasAddr 3 (64 * 1) = true ∧
    Tab.get noErr (errs 3).errs (memKey 3 (64 * 1)) ≤ 5 ∧
    (errs 3).flag F.logEnable = false ∧
    (errs 4).Calm ∧
    (errs 4).hasAddr 3 (64 * 1) = true ∧
    Tab.get noErr (errs 4).errs (memKey 3 (64 * 1)) ≤ 5 ∧
    (errs 4).flag F.logEnable = false ∧
    (errs 5).Calm ∧
    (errs 5).hasAddr 3 (64 * 1) = true ∧
    Tab.get noErr (errs 5).errs (memKey 3 (64 * 1)) ≤ 5 ∧
    (errs 5).flag F.logEnable = false ∧
    (4 = 3 ∨ 4 = 4) ∧
    (errs 5).hasAddr 4 (64 * (deepEnd / 64 - 1)) = true ∧
    Tab.get noErr (errs 5).errs (memKey 4 (64 * (deepEnd / 64 - 1))) ≤ 5) ∧
  -- the clause at h.2
  (11 < 12 ∧
    v9.trap = none ∧
    v9.flag (F.zeroing 11) = true ∧
    2 ^ 31 ≤ Tab.get noErr v9.zeroAt 11 + 1 ∧
    0 < 12 ∧
    (put up [(F.zeroing 0, 1), (F.bootZeroing, 1)]).trap = none ∧
    (put up [(F.zeroing 0, 1), (F.bootZeroing, 1)]).flag (F.zeroing 0) = true) := by
  refine ⟨?_, ?_⟩ <;> first
    | decide +kernel
    | (simp only [State.Calm, State.LogIn]
       decide +kernel)

theorem witness_DecodedPacketIsAccepted :
  -- the clause at h
  (0 < 4096 ∧
    (rung nopW false).takesBells = true ∧
    (rung nopW false).chooseRing = some 0 ∧
    ((rung nopW false).ringx 0).mgmt = [] ∧
    (rung nopW false).Sound ∧
    (rung nopW false).hasRange ((rung nopW false).packetAt 0).1 ((rung nopW false).packetAt 0).2 64 = true ∧
    wsOf (rung nopW false) = (rung nopW false).peekWords ((rung nopW false).packetAt 0).1 ((rung nopW false).packetAt 0).2
      16 ∧
    (rung nopW false).checkPacket 0 (wsOf (rung nopW false)) = (none, some 6) ∧
    6 < 2 ^ 16 ∧
    (∀ r ∈ (rung nopW false).capRanges (wbits (wsOf (rung nopW false)) 0 31 24) (wsOf (rung nopW false)) none, (rung nopW
      false).hasRange r.1 r.2.1 r.2.2 = true) ∧
    accepts ((rung nopW false).fld F.devState) (wbits (wsOf (rung nopW false)) 0 31 24) = true ∧
    (wbits (wsOf (rung nopW false)) 1 31 16 ≠ 0 → (∀ r ∈ (rung nopW false).rst.jobs, r.job ≠ wbits (wsOf (rung nopW
      false)) 1 31 16) ∧ (rung nopW false).flag F.abortOverflow = false) ∧
    wbits (wsOf (rung nopW false)) 0 22 22 = 0 ∧
    (rung nopW false).hasRange 3 ((rung nopW false).ledgerAddr 0 (wbits (wsOf (rung nopW false)) 0 15 0)) 32 = true ∧
    (rung [196613, 589824, 0, 0] true).takesBells = true ∧
    (rung [196613, 589824, 0, 0] true).chooseRing = some 0 ∧
    ((rung [196613, 589824, 0, 0] true).ringx 0).mgmt = [] ∧
    (rung [196613, 589824, 0, 0] true).Sound ∧
    (rung [196613, 589824, 0, 0] true).hasRange ((rung [196613, 589824, 0, 0] true).packetAt 0).1 ((rung [196613, 589824,
      0, 0] true).packetAt 0).2 64 = true ∧
    wsOf (rung [196613, 589824, 0, 0] true) = (rung [196613, 589824, 0, 0] true).peekWords ((rung [196613, 589824, 0, 0]
      true).packetAt 0).1 ((rung [196613, 589824, 0, 0] true).packetAt 0).2 16 ∧
    (rung [196613, 589824, 0, 0] true).checkPacket 0 (wsOf (rung [196613, 589824, 0, 0] true)) = (none, some 6) ∧
    (∀ r ∈ (rung [196613, 589824, 0, 0] true).capRanges (wbits (wsOf (rung [196613, 589824, 0, 0] true)) 0 31 24) (wsOf
      (rung [196613, 589824, 0, 0] true)) none, (rung [196613, 589824, 0, 0] true).hasRange r.1 r.2.1 r.2.2 = true) ∧
    accepts ((rung [196613, 589824, 0, 0] true).fld F.devState) (wbits (wsOf (rung [196613, 589824, 0, 0] true)) 0 31 24)
      = true ∧
    (wbits (wsOf (rung [196613, 589824, 0, 0] true)) 1 31 16 ≠ 0 → (∀ r ∈ (rung [196613, 589824, 0, 0] true).rst.jobs,
      r.job ≠ wbits (wsOf (rung [196613, 589824, 0, 0] true)) 1 31 16) ∧ (rung [196613, 589824, 0, 0] true).flag
      F.abortOverflow = false) ∧
    wbits (wsOf (rung [196613, 589824, 0, 0] true)) 0 22 22 = 0 ∧
    (rung [196613, 589824, 0, 0] true).hasRange 3 ((rung [196613, 589824, 0, 0] true).ledgerAddr 0 (wbits (wsOf (rung
      [196613, 589824, 0, 0] true)) 0 15 0)) 32 = true) := by
  first
    | decide +kernel
    | (simp only [State.Sound]
       decide +kernel)

theorem witness_MalformedPacketIsAnswered :
  -- the clause at h
  (0 < 4096 ∧
    (rung [196613, 1] false).takesBells = true ∧
    (rung [196613, 1] false).chooseRing = some 0 ∧
    ((rung [196613, 1] false).ringx 0).mgmt = [] ∧
    (rung [196613, 1] false).Sound ∧
    (rung [196613, 1] false).hasRange ((rung [196613, 1] false).packetAt 0).1 ((rung [196613, 1] false).packetAt 0).2 64 =
      true ∧
    wsOf (rung [196613, 1] false) = (rung [196613, 1] false).peekWords ((rung [196613, 1] false).packetAt 0).1 ((rung
      [196613, 1] false).packetAt 0).2 16 ∧
    (rung [196613, 1] false).flag F.logEnable = false ∧
    (rung [196613, 1] false).replyOpen 0 = true ∧
    (rung [196613, 1] false).hasRange ((rung [196613, 1] false).replyTier 0) ((rung [196613, 1] false).replyAt 0) 32 =
      true ∧
    wbits (wsOf (rung [196613, 1] false)) 1 11 0 ≠ 0 ∧
    (rung [196612] true).takesBells = true ∧
    (rung [196612] true).chooseRing = some 0 ∧
    ((rung [196612] true).ringx 0).mgmt = [] ∧
    (rung [196612] true).Sound ∧
    (rung [196612] true).hasRange ((rung [196612] true).packetAt 0).1 ((rung [196612] true).packetAt 0).2 64 = true ∧
    wsOf (rung [196612] true) = (rung [196612] true).peekWords ((rung [196612] true).packetAt 0).1 ((rung [196612]
      true).packetAt 0).2 16 ∧
    (rung [196612] true).flag F.logEnable = false ∧
    (rung [196612] true).replyOpen 0 = true ∧
    (rung [196612] true).hasRange ((rung [196612] true).replyTier 0) ((rung [196612] true).replyAt 0) 32 = true ∧
    wbits (wsOf (rung [196612] true)) 1 11 0 = 0 ∧
    ((rung [196612] true).ringx 0).expSet = true ∧
    1 ≤ ((rung [196612] true).fld (F.ringExpected 0) + 2 ^ 16 - wbits (wsOf (rung [196612] true)) 0 15 0) % 2 ^ 16 ∧
    ((rung [196612] true).fld (F.ringExpected 0) + 2 ^ 16 - wbits (wsOf (rung [196612] true)) 0 15 0) % 2 ^ 16 ≤ 32768 ∧
    (rung [229381] true).takesBells = true ∧
    (rung [229381] true).chooseRing = some 0 ∧
    ((rung [229381] true).ringx 0).mgmt = [] ∧
    (rung [229381] true).Sound ∧
    (rung [229381] true).hasRange ((rung [229381] true).packetAt 0).1 ((rung [229381] true).packetAt 0).2 64 = true ∧
    wsOf (rung [229381] true) = (rung [229381] true).peekWords ((rung [229381] true).packetAt 0).1 ((rung [229381]
      true).packetAt 0).2 16 ∧
    (rung [229381] true).flag F.logEnable = false ∧
    (rung [229381] true).replyOpen 0 = true ∧
    (rung [229381] true).hasRange ((rung [229381] true).replyTier 0) ((rung [229381] true).replyAt 0) 32 = true ∧
    wbits (wsOf (rung [229381] true)) 1 11 0 = 0 ∧
    ((rung [229381] true).ringx 0).expSet = true ∧
    1 ≤ ((rung [229381] true).fld (F.ringExpected 0) + 2 ^ 16 - wbits (wsOf (rung [229381] true)) 0 15 0) % 2 ^ 16 ∧
    ((rung [229381] true).fld (F.ringExpected 0) + 2 ^ 16 - wbits (wsOf (rung [229381] true)) 0 15 0) % 2 ^ 16 ≤ 32768 ∧
    (rung [229380] true).takesBells = true ∧
    (rung [229380] true).chooseRing = some 0 ∧
    ((rung [229380] true).ringx 0).mgmt = [] ∧
    (rung [229380] true).Sound ∧
    (rung [229380] true).hasRange ((rung [229380] true).packetAt 0).1 ((rung [229380] true).packetAt 0).2 64 = true ∧
    wsOf (rung [229380] true) = (rung [229380] true).peekWords ((rung [229380] true).packetAt 0).1 ((rung [229380]
      true).packetAt 0).2 16 ∧
    (rung [229380] true).flag F.logEnable = false ∧
    (rung [229380] true).replyOpen 0 = true ∧
    (rung [229380] true).hasRange ((rung [229380] true).replyTier 0) ((rung [229380] true).replyAt 0) 32 = true ∧
    wbits (wsOf (rung [229380] true)) 1 11 0 = 0 ∧
    ((rung [229380] true).ringx 0).expSet = true ∧
    1 ≤ ((rung [229380] true).fld (F.ringExpected 0) + 2 ^ 16 - wbits (wsOf (rung [229380] true)) 0 15 0) % 2 ^ 16 ∧
    32769 ≤ ((rung [229380] true).fld (F.ringExpected 0) + 2 ^ 16 - wbits (wsOf (rung [229380] true)) 0 15 0) % 2 ^ 16 ∧
    (rung [4278386693] true).takesBells = true ∧
    (rung [4278386693] true).chooseRing = some 0 ∧
    ((rung [4278386693] true).ringx 0).mgmt = [] ∧
    (rung [4278386693] true).Sound ∧
    (rung [4278386693] true).hasRange ((rung [4278386693] true).packetAt 0).1 ((rung [4278386693] true).packetAt 0).2 64 =
      true ∧
    wsOf (rung [4278386693] true) = (rung [4278386693] true).peekWords ((rung [4278386693] true).packetAt 0).1 ((rung
      [4278386693] true).packetAt 0).2 16 ∧
    (rung [4278386693] true).flag F.logEnable = false ∧
    (rung [4278386693] true).replyOpen 0 = true ∧
    (rung [4278386693] true).hasRange ((rung [4278386693] true).replyTier 0) ((rung [4278386693] true).replyAt 0) 32 =
      true ∧
    wbits (wsOf (rung [4278386693] true)) 1 11 0 = 0 ∧
    ((rung [4278386693] true).ringx 0).expSet = true ∧
    (((rung [4278386693] true).ringx 0).expSet = false ∨ ((rung [4278386693] true).fld (F.ringExpected 0) + 2 ^ 16 - wbits
      (wsOf (rung [4278386693] true)) 0 15 0) % 2 ^ 16 = 0) ∧
    opSpec (wbits (wsOf (rung [4278386693] true)) 0 31 24) = none ∧
    (rung [262149] false).takesBells = true ∧
    (rung [262149] false).chooseRing = some 0 ∧
    ((rung [262149] false).ringx 0).mgmt = [] ∧
    (rung [262149] false).Sound ∧
    (rung [262149] false).hasRange ((rung [262149] false).packetAt 0).1 ((rung [262149] false).packetAt 0).2 64 = true ∧
    wsOf (rung [262149] false) = (rung [262149] false).peekWords ((rung [262149] false).packetAt 0).1 ((rung [262149]
      false).packetAt 0).2 16 ∧
    (rung [262149] false).flag F.logEnable = false ∧
    (rung [262149] false).replyOpen 0 = true ∧
    (rung [262149] false).hasRange ((rung [262149] false).replyTier 0) ((rung [262149] false).replyAt 0) 32 = true ∧
    wbits (wsOf (rung [262149] false)) 1 11 0 = 0 ∧
    (((rung [262149] false).ringx 0).expSet = false ∨ ((rung [262149] false).fld (F.ringExpected 0) + 2 ^ 16 - wbits (wsOf
      (rung [262149] false)) 0 15 0) % 2 ^ 16 = 0) ∧
    opSpec (wbits (wsOf (rung [262149] false)) 0 31 24) = some ((opSpec (wbits (wsOf (rung [262149] false)) 0 31 24)).getD
      ⟨0, 0, false, []⟩) ∧
    wbits (wsOf (rung [262149] false)) 0 19 16 ≠ ((opSpec (wbits (wsOf (rung [262149] false)) 0 31 24)).getD ⟨0, 0, false,
      []⟩).len ∧
    (rung [21364741] false).takesBells = true ∧
    (rung [21364741] false).chooseRing = some 0 ∧
    ((rung [21364741] false).ringx 0).mgmt = [] ∧
    (rung [21364741] false).Sound ∧
    (rung [21364741] false).hasRange ((rung [21364741] false).packetAt 0).1 ((rung [21364741] false).packetAt 0).2 64 =
      true ∧
    wsOf (rung [21364741] false) = (rung [21364741] false).peekWords ((rung [21364741] false).packetAt 0).1 ((rung
      [21364741] false).packetAt 0).2 16 ∧
    (rung [21364741] false).flag F.logEnable = false ∧
    (rung [21364741] false).replyOpen 0 = true ∧
    (rung [21364741] false).hasRange ((rung [21364741] false).replyTier 0) ((rung [21364741] false).replyAt 0) 32 = true ∧
    wbits (wsOf (rung [21364741] false)) 1 11 0 = 0 ∧
    (((rung [21364741] false).ringx 0).expSet = false ∨ ((rung [21364741] false).fld (F.ringExpected 0) + 2 ^ 16 - wbits
      (wsOf (rung [21364741] false)) 0 15 0) % 2 ^ 16 = 0) ∧
    opSpec (wbits (wsOf (rung [21364741] false)) 0 31 24) = some ((opSpec (wbits (wsOf (rung [21364741] false)) 0 31
      24)).getD ⟨0, 0, false, []⟩) ∧
    wbits (wsOf (rung [21364741] false)) 0 19 16 = ((opSpec (wbits (wsOf (rung [21364741] false)) 0 31 24)).getD ⟨0, 0,
      false, []⟩).len ∧
    wbits (wsOf (rung [21364741] false)) 0 22 22 = 1 ∧
    ((opSpec (wbits (wsOf (rung [21364741] false)) 0 31 24)).getD ⟨0, 0, false, []⟩).sched = false ∧
    (rung [196613, 4096] false).takesBells = true ∧
    (rung [196613, 4096] false).chooseRing = some 0 ∧
    ((rung [196613, 4096] false).ringx 0).mgmt = [] ∧
    (rung [196613, 4096] false).Sound ∧
    (rung [196613, 4096] false).hasRange ((rung [196613, 4096] false).packetAt 0).1 ((rung [196613, 4096] false).packetAt
      0).2 64 = true ∧
    wsOf (rung [196613, 4096] false) = (rung [196613, 4096] false).peekWords ((rung [196613, 4096] false).packetAt 0).1
      ((rung [196613, 4096] false).packetAt 0).2 16 ∧
    (rung [196613, 4096] false).flag F.logEnable = false ∧
    (rung [196613, 4096] false).replyOpen 0 = true ∧
    (rung [196613, 4096] false).hasRange ((rung [196613, 4096] false).replyTier 0) ((rung [196613, 4096] false).replyAt 0)
      32 = true ∧
    wbits (wsOf (rung [196613, 4096] false)) 1 11 0 = 0 ∧
    (((rung [196613, 4096] false).ringx 0).expSet = false ∨ ((rung [196613, 4096] false).fld (F.ringExpected 0) + 2 ^ 16 -
      wbits (wsOf (rung [196613, 4096] false)) 0 15 0) % 2 ^ 16 = 0) ∧
    opSpec (wbits (wsOf (rung [196613, 4096] false)) 0 31 24) = some ((opSpec (wbits (wsOf (rung [196613, 4096] false)) 0
      31 24)).getD ⟨0, 0, false, []⟩) ∧
    wbits (wsOf (rung [196613, 4096] false)) 0 19 16 = ((opSpec (wbits (wsOf (rung [196613, 4096] false)) 0 31 24)).getD
      ⟨0, 0, false, []⟩).len ∧
    (wbits (wsOf (rung [196613, 4096] false)) 0 22 22 = 0 ∨ ((opSpec (wbits (wsOf (rung [196613, 4096] false)) 0 31
      24)).getD ⟨0, 0, false, []⟩).sched = true)) := by
  first
    | decide +kernel
    | (simp only [State.Sound]
       decide +kernel)

theorem witness_AdministrationCommandsEndAsStated :
  -- the clause at h.1
  ((one (cmd 0 [])).Runs c0 0 (cmd 0 []) ∧
    (cmd 0 []).sched = false) ∧
  -- the clause at h.2.1
  ((one (wt 1 6)).Runs c0 1 (wt 1 6) ∧
    ((one (wt 1 6)).ledgerAddr ((wt 1 6).bits 4 11 0) ((wt 1 6).bits 5 15 0) + 32 ≤ (one (wt 1 6)).ledgerAddr c0.ring
      c0.seq ∨ (one (wt 1 6)).ledgerAddr c0.ring c0.seq + 32 ≤ (one (wt 1 6)).ledgerAddr ((wt 1 6).bits 4 11 0) ((wt 1
      6).bits 5 15 0)) ∧
    (one (wt 1 6)).hasRange 3 ((one (wt 1 6)).ledgerAddr ((wt 1 6).bits 4 11 0) ((wt 1 6).bits 5 15 0)) 32 = true ∧
    (one (wt 1 6)).flag (F.ringEnable ((wt 1 6).bits 4 11 0)) = false ∧
    (entry 393216).Runs c0 1 (wt 0 6) ∧
    ((entry 393216).ledgerAddr ((wt 0 6).bits 4 11 0) ((wt 0 6).bits 5 15 0) + 32 ≤ (entry 393216).ledgerAddr c0.ring
      c0.seq ∨ (entry 393216).ledgerAddr c0.ring c0.seq + 32 ≤ (entry 393216).ledgerAddr ((wt 0 6).bits 4 11 0) ((wt 0
      6).bits 5 15 0)) ∧
    (entry 393216).hasRange 3 ((entry 393216).ledgerAddr ((wt 0 6).bits 4 11 0) ((wt 0 6).bits 5 15 0)) 32 = true ∧
    (entry 393216).flag (F.ringEnable ((wt 0 6).bits 4 11 0)) = true ∧
    (entry 458751).Runs c0 1 (wt 0 6) ∧
    ((entry 458751).ledgerAddr ((wt 0 6).bits 4 11 0) ((wt 0 6).bits 5 15 0) + 32 ≤ (entry 458751).ledgerAddr c0.ring
      c0.seq ∨ (entry 458751).ledgerAddr c0.ring c0.seq + 32 ≤ (entry 458751).ledgerAddr ((wt 0 6).bits 4 11 0) ((wt 0
      6).bits 5 15 0)) ∧
    (entry 458751).hasRange 3 ((entry 458751).ledgerAddr ((wt 0 6).bits 4 11 0) ((wt 0 6).bits 5 15 0)) 32 = true ∧
    (entry 458751).flag (F.ringEnable ((wt 0 6).bits 4 11 0)) = true ∧
    (entry 458751).word 3 ((entry 458751).ledgerAddr ((wt 0 6).bits 4 11 0) ((wt 0 6).bits 5 15 0)) = (wt 0 6).bits 5 15 0
      * 2 ^ 16 + 65535) ∧
  -- the clause at h.2.2.1
  ((at_ (entryR 458750) 3010).waitingRing c0 = some wtr ∧
    (at_ (entryR 458750) 3010).CanEnd c0 ∧
    (at_ (entryR 458750) 3010).hasRange 3 ((at_ (entryR 458750) 3010).ledgerAddr (wtr.bits 4 11 0) (wtr.bits 5 15 0)) 32 =
      true ∧
    (at_ (entryR 458751) 3009).waitingRing c0 = some wtr ∧
    (at_ (entryR 458751) 3009).CanEnd c0 ∧
    (at_ (entryR 458751) 3009).hasRange 3 ((at_ (entryR 458751) 3009).ledgerAddr (wtr.bits 4 11 0) (wtr.bits 5 15 0)) 32 =
      true ∧
    (at_ (entryR 458751) 3009).word 3 ((at_ (entryR 458751) 3009).ledgerAddr (wtr.bits 4 11 0) (wtr.bits 5 15 0)) =
      wtr.bits 5 15 0 * 2 ^ 16 + 65535 ∧
    (at_ (entryR 458751) 3009).tb.stime < wtr.start + 1000 * wtr.word 6 ∧
    (at_ (entryR 458751) 3010).waitingRing c0 = some wtr ∧
    (at_ (entryR 458751) 3010).CanEnd c0 ∧
    (at_ (entryR 458751) 3010).hasRange 3 ((at_ (entryR 458751) 3010).ledgerAddr (wtr.bits 4 11 0) (wtr.bits 5 15 0)) 32 =
      true ∧
    (at_ (entryR 458751) 3010).word 3 ((at_ (entryR 458751) 3010).ledgerAddr (wtr.bits 4 11 0) (wtr.bits 5 15 0)) =
      wtr.bits 5 15 0 * 2 ^ 16 + 65535 ∧
    wtr.start + 1000 * wtr.word 6 ≤ (at_ (entryR 458751) 3010).tb.stime) ∧
  -- the clause at h.2.2.2.1
  ((one ab).Runs c0 2 ab ∧
    (∀ o ∈ (one ab).cmds, (o.id.ring == ab.bits 4 11 0 && !(o.phase == Phase.running && (o.ops.isEmpty || o.ops.any fun (p
      : Op) => p.stage != OpStage.waiting)) && decide (o.id ≠ c0)) = false) ∧
    v10.Runs c0 2 ab) ∧
  -- the clause at h.2.2.2.2
  (List.filter (fun (o : Cmd) => o.id.ring == v11.id.ring && o.phase == Phase.running) v12.cmds = [v11] ∧
    v12.Sound ∧
    v12.hasRange 3 (v12.ledgerAddr v11.id.ring v11.id.seq) 32 = true) := by
  refine ⟨?_, ?_, ?_, ?_, ?_⟩ <;> first
    | decide +kernel
    | (simp only [State.Runs, State.CanEnd, State.Sound, State.EndsBare]
       decide +kernel)

end Sys2Proof.Tests.W4

/-! ### Copies, modes, health monitor -/

namespace Sys2Proof.Tests.W5
open Sys2Proof Sys2Proof.Machine Sys2Proof.Tests

def run (s : State) (m : Cmd) : State := { s with cmds := [m] }
def tA : List W := tens 1 3 0x10000 [(2, 1)]
def tB : List W := tens 1 3 0x20000 [(2, 3)]
def cp : Cmd := caps (cmd 0x10 (ptr 0x400 ++ ptr 0x800)) [(0x400, tA), (0x800, tB)]
def fl : Cmd := caps (cmd 0x11 (ptr 0x800 ++ [0xFFFF])) [(0x800, tB)]
def ms (n : W) : Cmd := cmd 0xA0 [n]
def tested : State := put up [(F.unlocked, 1), (⟨Reg.testBp, 5, 0⟩, 7)]
def other : Cmd := { cmd 0x10 [] with id := ⟨1, 7⟩, job := 9 }
def v1 := { up with cmds := [ms 1, other] }
def att : State := put up [(F.attested, 1)]
def tw (n : W) : Cmd := cmd 0xA1 [n]
def pe (o : Nat) : Cmd := cmd 0xA3 [BitVec.ofNat 32 (o - Reg.safeMode), 0xFFFFFFFF]
def pf (n : W) : Cmd := cmd 0x96 [n]
def hm (c q : Nat) : State := { put up [(F.hmCkpt, c), (F.hmQuiesce, q), (F.hmHyst, 5), (⟨Reg.hmWeight0, 7, 0⟩, 16)] with safe := { lat0 := 100 } }
def tS : List W := tens 7 3 0x10000 [(16, 1)]
def sn : Cmd := caps (cmd 0xA2 (ptr 0x400)) [(0x400, tS)]
def po : Cmd := cmd 0x61 [9, 4]
def v2 := { run (put up [(F.package, 3), (F.portState 47, 2)]) po with fab := { (run up po).fab with credit := [(8*47+1, (2,0))] } }

theorem witness_CopyAndFillWriteTheirDestination :
  -- the clause at h.1
  ((place (one cp) 3 65536 [1006649344]).Runs c0 16 cp ∧
    (place (one cp) 3 65536 [1006649344]).copyArgs cp = Except.ok (tensorOf tA 1024, tensorOf tB 2048) ∧
    (tensorOf tA 1024).fmt = (tensorOf tB 2048).fmt ∧
    isMx (tensorOf tA 1024).fmt = false ∧
    (place (one cp) 3 65536 [1006649344]).apart c0 (tensorOf tA 1024) ∧
    (place (one cp) 3 65536 [1006649344]).apart c0 (tensorOf tB 2048) ∧
    (place (one cp) 3 65536 [1006649344]).plain (tensorOf tB 2048)) ∧
  -- the clause at h.2
  ((one fl).Runs c0 17 fl ∧
    (one fl).fillArgs fl = Except.ok (tensorOf tB 2048) ∧
    (one fl).apart c0 (tensorOf tB 2048)) := by
  refine ⟨?_, ?_⟩ <;> first
    | decide +kernel
    | (simp only [State.Runs, State.CanEnd, State.Sound, State.apart, State.EndsBare]
       decide +kernel)
    | (and_intros <;> first
        | decide +kernel
        | (simp only [State.Runs, State.CanEnd, State.Sound, State.apart, State.EndsBare]
           decide +kernel)
        | exact State.plain_of_line _ _ (by decide +kernel) (by decide +kernel) (by decide +kernel) (by decide +kernel) (by decide +kernel)
        | (rw [State.plain_iff]; decide +kernel))

theorem witness_ModeTwinAndTestCommands :
  -- the clause at h.1
  ((run tested (ms 1)).Runs c0 160 (ms 1) ∧
    (run tested (ms 1)).flag F.logEnable = false ∧
    (∀ o ∈ (run tested (ms 1)).cmds, o.id ≠ c0 → o.job = 0) ∧
    ((ms 1).bits 4 0 0 == 1) = true ∧
    (run tested (ms 1)).attested = false ∧
    (run tested (ms 0)).Runs c0 160 (ms 0) ∧
    (run tested (ms 0)).flag F.logEnable = false ∧
    (∀ o ∈ (run tested (ms 0)).cmds, o.id ≠ c0 → o.job = 0) ∧
    v1.Runs c0 160 (ms 1) ∧
    v1.flag F.logEnable = false) ∧
  -- the clause at h.2.1
  ((one (tw 2148466695)).Runs c0 161 (tw 2148466695) ∧
    (tw 2148466695).bits 4 31 31 = 1 ∧
    (tw 2148466695).bits 4 19 16 ≠ 0 ∧
    (one (tw 2148466695)).ck.stream = none ∧
    (one (tw 2147483655)).Runs c0 161 (tw 2147483655) ∧
    (tw 2147483655).bits 4 31 31 = 1 ∧
    (tw 2147483655).bits 4 19 16 = 0 ∧
    (run att (tw 0)).Runs c0 161 (tw 0) ∧
    (tw 0).bits 4 31 31 = 0 ∧
    (run att (tw 0)).attested = true ∧
    (one (tw 0)).Runs c0 161 (tw 0) ∧
    (one (tw 0)).attested = false) ∧
  -- the clause at h.2.2.1
  ((one (pe Reg.safeMode)).Runs c0 163 (pe Reg.safeMode) ∧
    (one (pe Reg.safeMode)).bar0Open = true ∧
    (one (pe Reg.safeMode)).flag F.logEnable = false ∧
    Reg.safeMode + (pe Reg.safeMode).bits 4 8 0 ∉ perturbRegs ∧
    (run att (pe Reg.testBp)).Runs c0 163 (pe Reg.testBp) ∧
    (run att (pe Reg.testBp)).bar0Open = true ∧
    (run att (pe Reg.testBp)).flag F.logEnable = false ∧
    Reg.safeMode + (pe Reg.testBp).bits 4 8 0 ∈ perturbRegs ∧
    (run att (pe Reg.testBp)).attested = true ∧
    (one (pe Reg.testBp)).Runs c0 163 (pe Reg.testBp) ∧
    (one (pe Reg.testBp)).bar0Open = true ∧
    (one (pe Reg.testBp)).flag F.logEnable = false ∧
    (one (pe Reg.testBp)).attested = false ∧
    (one (pe Reg.testBp)).flag F.unlocked = false ∧
    (run tested (pe (Reg.testHallDelay 15))).Runs c0 163 (pe (Reg.testHallDelay 15)) ∧
    (run tested (pe (Reg.testHallDelay 15))).bar0Open = true ∧
    (run tested (pe (Reg.testHallDelay 15))).flag F.logEnable = false ∧
    Reg.safeMode + (pe (Reg.testHallDelay 15)).bits 4 8 0 ∈ perturbRegs ∧
    (run tested (pe (Reg.testHallDelay 15))).attested = false ∧
    (run tested (pe (Reg.testHallDelay 15))).flag F.unlocked = true ∧
    Reg.safeMode + (pe (Reg.testHallDelay 15)).bits 4 8 0 ≠ Reg.testEccInj ∧
    Reg.safeMode + (pe (Reg.testHallDelay 15)).bits 4 8 0 ≠ Reg.testChkInj ∧
    regSpec (Reg.safeMode + (pe (Reg.testHallDelay 15)).bits 4 8 0) = some ((regSpec (Reg.safeMode + (pe
      (Reg.testHallDelay 15)).bits 4 8 0)).getD ⟨0, 0, 0, 0, 0⟩)) ∧
  -- the clause at h.2.2.2
  ((one (pf 2147483696)).Runs c0 150 (pf 2147483696) ∧
    48 ≤ (pf 2147483696).bits 4 5 0 ∧
    (run (put up [(F.portState 47, 2)]) (pf 2147483695)).Runs c0 150 (pf 2147483695) ∧
    (pf 2147483695).bits 4 5 0 < 48 ∧
    (pf 2147483695).bits 4 31 31 = 1 ∧
    (run (put up [(F.portState 47, 2)]) (pf 2147483695)).flag (F.portFence ((pf 2147483695).bits 4 5 0)) = false ∧
    ((run (put up [(F.portState 47, 2)]) (pf 2147483695)).fld (F.portState ((pf 2147483695).bits 4 5 0)) = Port.up ∨ (run
      (put up [(F.portState 47, 2)]) (pf 2147483695)).fld (F.portState ((pf 2147483695).bits 4 5 0)) = Port.degraded)) := by
  refine ⟨?_, ?_, ?_, ?_⟩ <;> first
    | decide +kernel
    | (simp only [State.Runs, State.CanEnd, State.Sound, State.EndsBare]
       decide +kernel)

theorem witness_HealthMonitorAndItsSnapshots :
  -- the clause at h.1
  ((hm 101 101).trap = none ∧
    (hm 101 101).bar0Open = true ∧
    (hm 101 101).flag F.logEnable = false ∧
    (hm 101 101).tb.stime < (hm 101 101).safe.winAt + 1000000000 ∧
    (hm 101 101).safe.ckptReq = false ∧
    ((hm 101 101).flag F.hmCFired = true ∨ min 255 (List.map (fun (i : ℕ) => min 255 ((hm 101 101).hmInputs.getD i 0 * (hm
      101 101).hmWeight i / 16)) (List.range 8)).sum < (hm 101 101).fld F.hmCkpt) ∧
    ((hm 101 101).flag F.hmQFired = true ∨ min 255 (List.map (fun (i : ℕ) => min 255 ((hm 101 101).hmInputs.getD i 0 * (hm
      101 101).hmWeight i / 16)) (List.range 8)).sum < (hm 101 101).fld F.hmQuiesce) ∧
    (hm 101 101).flag F.hmCFired = false ∧
    (hm 101 101).flag F.hmQFired = false ∧
    (put (hm 106 105) [(F.hmCFired, 1), (F.hmQFired, 1)]).trap = none ∧
    (put (hm 106 105) [(F.hmCFired, 1), (F.hmQFired, 1)]).bar0Open = true ∧
    (put (hm 106 105) [(F.hmCFired, 1), (F.hmQFired, 1)]).flag F.logEnable = false ∧
    (put (hm 106 105) [(F.hmCFired, 1), (F.hmQFired, 1)]).tb.stime < (put (hm 106 105) [(F.hmCFired, 1), (F.hmQFired,
      1)]).safe.winAt + 1000000000 ∧
    (put (hm 106 105) [(F.hmCFired, 1), (F.hmQFired, 1)]).safe.ckptReq = false ∧
    ((put (hm 106 105) [(F.hmCFired, 1), (F.hmQFired, 1)]).flag F.hmCFired = true ∨ min 255 (List.map (fun (i : ℕ) => min
      255 ((put (hm 106 105) [(F.hmCFired, 1), (F.hmQFired, 1)]).hmInputs.getD i 0 * (put (hm 106 105) [(F.hmCFired,
      1), (F.hmQFired, 1)]).hmWeight i / 16)) (List.range 8)).sum < (put (hm 106 105) [(F.hmCFired, 1), (F.hmQFired,
      1)]).fld F.hmCkpt) ∧
    ((put (hm 106 105) [(F.hmCFired, 1), (F.hmQFired, 1)]).flag F.hmQFired = true ∨ min 255 (List.map (fun (i : ℕ) => min
      255 ((put (hm 106 105) [(F.hmCFired, 1), (F.hmQFired, 1)]).hmInputs.getD i 0 * (put (hm 106 105) [(F.hmCFired,
      1), (F.hmQFired, 1)]).hmWeight i / 16)) (List.range 8)).sum < (put (hm 106 105) [(F.hmCFired, 1), (F.hmQFired,
      1)]).fld F.hmQuiesce) ∧
    (run (hm 100 101) (cmd 96 [])).trap = none ∧
    (run (hm 100 101) (cmd 96 [])).bar0Open = true ∧
    (run (hm 100 101) (cmd 96 [])).flag F.logEnable = false ∧
    (run (hm 100 101) (cmd 96 [])).tb.stime < (run (hm 100 101) (cmd 96 [])).safe.winAt + 1000000000 ∧
    (run (hm 100 101) (cmd 96 [])).safe.ckptReq = false ∧
    (run (hm 100 101) (cmd 96 [])).flag F.hmCFired = false ∧
    (run (hm 100 101) (cmd 96 [])).fld F.hmCkpt ≤ min 255 (List.map (fun (i : ℕ) => min 255 ((run (hm 100 101) (cmd 96
      [])).hmInputs.getD i 0 * (run (hm 100 101) (cmd 96 [])).hmWeight i / 16)) (List.range 8)).sum ∧
    ((run (hm 100 101) (cmd 96 [])).flag F.hmQFired = true ∨ min 255 (List.map (fun (i : ℕ) => min 255 ((run (hm 100 101)
      (cmd 96 [])).hmInputs.getD i 0 * (run (hm 100 101) (cmd 96 [])).hmWeight i / 16)) (List.range 8)).sum < (run (hm
      100 101) (cmd 96 [])).fld F.hmQuiesce) ∧
    (∃ o ∈ (run (hm 100 101) (cmd 96 [])).cmds, o.opcode = 96) ∧
    (run (hm 100 101) (cmd 96 [])).flag F.hmQFired = false ∧
    (hm 101 100).trap = none ∧
    (hm 101 100).bar0Open = true ∧
    (hm 101 100).flag F.logEnable = false ∧
    (hm 101 100).tb.stime < (hm 101 100).safe.winAt + 1000000000 ∧
    (hm 101 100).safe.ckptReq = false ∧
    ((hm 101 100).flag F.hmCFired = true ∨ min 255 (List.map (fun (i : ℕ) => min 255 ((hm 101 100).hmInputs.getD i 0 * (hm
      101 100).hmWeight i / 16)) (List.range 8)).sum < (hm 101 100).fld F.hmCkpt) ∧
    (hm 101 100).flag F.hmCFired = false ∧
    (hm 101 100).flag F.hmQFired = false ∧
    (hm 101 100).fld F.hmQuiesce ≤ min 255 (List.map (fun (i : ℕ) => min 255 ((hm 101 100).hmInputs.getD i 0 * (hm 101
      100).hmWeight i / 16)) (List.range 8)).sum ∧
    (hm 101 100).fld F.devState = Dev.ready ∧
    (hm 101 100).cmds = [] ∧
    (hm 101 100).ck.stream = none ∧
    (hm 101 100).fab.outq = []) ∧
  -- the clause at h.2.1
  ((run (put (hm 1 1) [(F.hmRiskVal, 100)]) sn).Runs c0 162 sn ∧
    (run (put (hm 1 1) [(F.hmRiskVal, 100)]) sn).snapArg sn = Except.ok (tensorOf tS 1024) ∧
    (run (put (hm 1 1) [(F.hmRiskVal, 100)]) sn).apart c0 (tensorOf tS 1024) ∧
    (run (put (hm 1 1) [(F.hmRiskVal, 100)]) sn).plain (tensorOf tS 1024)) ∧
  -- the clause at h.2.2
  (v2.Runs c0 97 po ∧
    po.bits 4 15 0 ≠ 0 ∧
    v2.jobEntry (po.bits 4 15 0) = none ∧
    (List.filter (fun (e : JobEntry) => decide (e.job ≠ 0)) v2.red.jobs).length < 16 ∧
    v2.noticeRoom = true ∧
    (∀ q ∈ v2.fab.outq, q.type ≠ PType.notice) ∧
    v2.fab.floods = [] ∧
    (∀ q ∈ v2.usablePorts, v2.creditFor (withCrc (v2.noticePkt 1 5 (po.bits 4 15 0) (po.word 5) 0)) q = true) ∧
    (run (put up [(F.package, 3), (F.portState 47, 2)]) po).Runs c0 97 po ∧
    (run (put up [(F.package, 3), (F.portState 47, 2)]) po).jobEntry (po.bits 4 15 0) = none ∧
    (List.filter (fun (e : JobEntry) => decide (e.job ≠ 0)) (run (put up [(F.package, 3), (F.portState 47, 2)])
      po).red.jobs).length < 16 ∧
    (run (put up [(F.package, 3), (F.portState 47, 2)]) po).noticeRoom = true ∧
    (∀ q ∈ (run (put up [(F.package, 3), (F.portState 47, 2)]) po).fab.outq, q.type ≠ PType.notice) ∧
    (run (put up [(F.package, 3), (F.portState 47, 2)]) po).fab.floods = []) := by
  refine ⟨?_, ?_, ?_⟩ <;> first
    | decide +kernel
    | (simp only [State.Runs, State.CanEnd, State.Sound, State.apart, State.EndsBare]
       decide +kernel)
    | (and_intros <;> first
        | decide +kernel
        | (simp only [State.Runs, State.CanEnd, State.Sound, State.apart, State.EndsBare]
           decide +kernel)
        | exact State.plain_of_line _ _ (by decide +kernel) (by decide +kernel) (by decide +kernel) (by decide +kernel) (by decide +kernel)
        | (rw [State.plain_iff]; decide +kernel))

end Sys2Proof.Tests.W5

/-! ### Programs, slots, operations -/

namespace Sys2Proof.Tests.W6
open Sys2Proof Sys2Proof.Machine Sys2Proof.Tests

def run (s : State) (m : Cmd) : State := { s with cmds := [m] }
def vec (base : Nat) : List W := tens 0 3 base [(4, 1)]
def chainL : List W := layer 4 8 [0, 0xFFFF, 1] [0, 0x01000000, 0,0,0,0,0,0,0,0xFFFFFFFF]
def chainC (op : Nat) (w : List W) : Cmd := prog (cmd op (ptr 0x400 ++ w)) chainL [vec 0x10000, vec 0x20000]
def gathL : List W := layer 2 8 [0, 0xFFFF, 1, 0xFFFF, 0xFFFF, 0xFFFF, 0xFFFF, 2] [0x40000000, 0xFFFFFFFF, 0xFFFF0000]
def gathC : Cmd := prog (cmd 0x32 (ptr 0x400)) gathL [tens 0 3 0x10000 [(4,1),(2,4)], tens 0 3 0x20000 [(4,1),(2,4)], tens 7 3 0x30000 [(2,1)]]
def mmC : Cmd := caps (cmd 0x41 (ptr 0x400 ++ ptr 0x500 ++ ptr 0x600 ++ [0, 0, 1])) [(0x400, mat 1 3 0x10000 1 1), (0x500, mat 1 3 0x20000 1 1), (0x600, mat 1 3 0x30000 1 1)]
def slotC : Cmd := { chainC 0x80 [0x00000300, 0, 2000] with flags := 4, t := 5000 }
def okP (e : Except Status Program) : Program := match e with | .ok p => p | _ => ⟨[], ⟨0,0⟩, 0⟩
def prA (m : Cmd) (f : Nat → Bool) : Program := okP ((one m).programCheck m f)
def badC (op : Nat) (w : List W) : Cmd := prog (cmd op (ptr 0x400 ++ w)) chainL [tens 0 3 0x10000 [(4, 0)], mat 7 3 0x20000 0 0]
def stOf (e : Except Status Program) : Status := match e with | .error p => p | _ => ⟨0, 0, 0⟩
def okMM (e : Except Status MM) : MM := match e with | .ok p => p | _ => mmC.matmulOf
def qMM : MM := okMM ((one mmC).matmulCheck mmC)
def aux (w n : Nat) : List Nat := (List.range 20).map fun i => if i = slotWaitAt then w else if i = slotSlipsAt then n else 0
def slotO : List Op := ((out (exec (.slotLaunch c0) (one slotC))).cmds.headD slotC).ops
def slotW (n : Nat) (lim : W) : Cmd := { slotC with phase := .armed, aux := aux 1 n, ops := slotO, words := [0,0,0,0] ++ ptr 0x400 ++ [0x20000300 + lim, 0, 2000] }
def mmS : State := out (exec (.matmul c0) (one mmC))
def mmR : Cmd := (mmS.findCmd c0).getD mmC
def mmN : Cmd := { mmR with ops := mmR.ops.map fun o => { o with needs := [] } }
def opOf (m : Cmd) : Op := m.ops.headD { kind := .sample 0 }

theorem witness_ProgramsLayOutTheirOperations :
  -- the clause at h.1
  ((one (chainC 64 [0])).runnable c0 64 = some (chainC 64 [0]) ∧
    (one (chainC 80 [])).runnable c0 80 = some (chainC 80 []) ∧
    (one gathC).runnable c0 50 = some gathC ∧
    (one (badC 80 [])).runnable c0 80 = some (badC 80 [])) ∧
  -- the clause at h.2.1
  ((one (chainC 64 [3])).runnable c0 64 = some (chainC 64 [3]) ∧
    (one (chainC 64 [3])).CanEnd c0 ∧
    (chainC 64 [3]).bits 6 1 0 = 3 ∧
    ((one (chainC 64 [3])).programCheck (chainC 64 [3]) fun (x : ℕ) => true) = Except.ok (prA (chainC 64 [3]) fun (x : ℕ)
      => true) ∧
    unsentSteps (chainC 64 [3]) = []) ∧
  -- the clause at h.2.2.1
  ((one mmC).runnable c0 65 = some mmC ∧
    (one mmC).trap = none ∧
    (one mmC).matmulCheck mmC = Except.ok qMM ∧
    mmC.failure = none ∧
    0 < qMM.m ∧
    0 < qMM.n) ∧
  -- the clause at h.2.2.2
  ((one slotC).runnable c0 128 = some slotC ∧
    (one slotC).trap = none ∧
    (one slotC).slotCheck slotC = Except.ok (okP ((one slotC).slotCheck slotC)) ∧
    (one slotC).programTakes slotC (okP ((one slotC).slotCheck slotC)) = (one slotC, Except.ok [])) := by
  refine ⟨?_, ?_, ?_, ?_⟩ <;> first
    | decide +kernel
    | (simp only [State.CanEnd, State.Sound, State.EndsBare]
       decide +kernel)

theorem witness_TriggeredSlotsStartOrSlip :
  -- the clause at h.1
  ((at_ (one (slotW 0 0)) 7000).findCmd c0 = some (slotW 0 0) ∧
    (slotW 0 0).opcode = 128 ∧
    (slotW 0 0).phase = Phase.armed ∧
    (slotW 0 0).aux.getD slotWaitAt 0 = 1 ∧
    (at_ (one (slotW 0 0)) 7000).effective (slotW 0 0) + (slotW 0 0).slotLen ≤ (at_ (one (slotW 0 0)) 7000).tb.stime ∧
    (at_ (one (slotW 0 0)) 7000).trap = none ∧
    ((slotW 0 0).bits 6 7 0 = 0 ∨ (slotW 0 0).aux.getD slotSlipsAt 0 + 1 ≤ (slotW 0 0).bits 6 7 0) ∧
    (at_ (one (slotW 1 2)) 7000).findCmd c0 = some (slotW 1 2) ∧
    (slotW 1 2).opcode = 128 ∧
    (slotW 1 2).phase = Phase.armed ∧
    (slotW 1 2).aux.getD slotWaitAt 0 = 1 ∧
    (at_ (one (slotW 1 2)) 7000).effective (slotW 1 2) + (slotW 1 2).slotLen ≤ (at_ (one (slotW 1 2)) 7000).tb.stime ∧
    (at_ (one (slotW 1 2)) 7000).trap = none ∧
    ((slotW 1 2).bits 6 7 0 = 0 ∨ (slotW 1 2).aux.getD slotSlipsAt 0 + 1 ≤ (slotW 1 2).bits 6 7 0) ∧
    (slotW 1 2).bits 6 7 0 ≠ 0 ∧
    (at_ (one (slotW 2 2)) 7000).findCmd c0 = some (slotW 2 2) ∧
    (slotW 2 2).opcode = 128 ∧
    (slotW 2 2).phase = Phase.armed ∧
    (slotW 2 2).aux.getD slotWaitAt 0 = 1 ∧
    (at_ (one (slotW 2 2)) 7000).effective (slotW 2 2) + (slotW 2 2).slotLen ≤ (at_ (one (slotW 2 2)) 7000).tb.stime ∧
    (at_ (one (slotW 2 2)) 7000).trap = none ∧
    (slotW 2 2).bits 6 7 0 ≠ 0 ∧
    (slotW 2 2).bits 6 7 0 < (slotW 2 2).aux.getD slotSlipsAt 0 + 1 ∧
    (at_ (one (slotW 2 2)) 7000).CanEnd c0 ∧
    unsentSteps (slotW 2 2) = []) ∧
  -- the clause at h.2.1
  ((at_ (one (slotW 0 0)) 6999).fld F.tbRole ≠ 1 ∧
    List.find? (fun (q : Cmd) => q.waitsTrigger) (at_ (one (slotW 0 0)) 6999).cmds = some (slotW 0 0) ∧
    (at_ (one (slotW 0 0)) 6999).findCmd (slotW 0 0).id = some (slotW 0 0) ∧
    (at_ (one (slotW 0 0)) 6999).tb.stime < (at_ (one (slotW 0 0)) 6999).effective (slotW 0 0) + (slotW 0 0).slotLen ∧
    (slotW 0 0).failure = none ∧
    (∃ o ∈ (slotW 0 0).ops, o.stage ≠ OpStage.done) ∧
    (at_ (one (slotW 0 0)) 6999).trap = none ∧
    (slotW 0 0).trig = true) ∧
  -- the clause at h.2.2
  (up.trap = none ∧
    up.fld F.tbRole ≠ 1 ∧
    (∀ q ∈ up.cmds, q.waitsTrigger = false)) := by
  refine ⟨?_, ?_, ?_⟩ <;> first
    | decide +kernel
    | (simp only [State.CanEnd, State.Sound, State.EndsBare]
       decide +kernel)

theorem witness_OperationsWaitAndIssue :
  -- the clause at h.1
  ((run mmS mmN).op c0 0 = some (mmN, opOf mmN) ∧
    mmN.opcode = 65 ∧
    (opOf mmN).kind = OpKind.matmul 0 0 ∧
    (opOf mmN).unit = EngineKind.array ∧
    (opOf mmN).stage = OpStage.waiting ∧
    mmN.phase = Phase.running ∧
    mmN.failure = none ∧
    (run mmS mmN).rst.stopped = false ∧
    (run mmS mmN).Sound ∧
    (run mmS mmN).hasRange 3 ((run mmS mmN).ledgerAddr c0.ring c0.seq) 32 = true ∧
    (run mmS mmN).stallCause mmN 0 (opOf mmN) true = none ∧
    (run mmS mmN).engineBusy (opOf mmN) = false ∧
    mmN.start = 0 ∧
    (run mmS mmN).stallCause mmN 0 (opOf mmN) false = some (((run mmS mmN).stallCause mmN 0 (opOf mmN) false).getD 0) ∧
    (run mmS mmN).isNext mmN 0 (opOf mmN) = true ∧
    mmS.op c0 0 = some (mmR, opOf mmR) ∧
    mmR.opcode = 65 ∧
    (opOf mmR).kind = OpKind.matmul 0 0 ∧
    (opOf mmR).unit = EngineKind.array ∧
    (opOf mmR).stage = OpStage.waiting ∧
    mmR.phase = Phase.running ∧
    mmR.failure = none ∧
    mmS.rst.stopped = false ∧
    mmS.Sound ∧
    mmS.hasRange 3 (mmS.ledgerAddr c0.ring c0.seq) 32 = true ∧
    mmS.stallCause mmR 0 (opOf mmR) true = some ((mmS.stallCause mmR 0 (opOf mmR) true).getD 0) ∧
    mmS.engineBusy (opOf mmR) = false ∧
    mmS.isNext mmR 0 (opOf mmR) = true) := by
  first
    | decide +kernel
    | (simp only [State.Sound]
       decide +kernel)

end Sys2Proof.Tests.W6

/-! ### Operations, matmul, sparse tiles -/

namespace Sys2Proof.Tests.W7
open Sys2Proof Sys2Proof.Machine Sys2Proof.Tests

def run (s : State) (m : Cmd) : State := { s with cmds := [m] }
def after (i : Instr) (s : State) : Cmd := ((out (exec i s)).findCmd c0).getD (cmd 0 [])
def opOf (m : Cmd) : Op := m.ops.headD { kind := .sample 0 }
def mmT (tier base : Nat) : Cmd := caps (cmd 0x41 (ptr 0x400 ++ ptr 0x500 ++ ptr 0x600 ++ [0, 0, 1])) [(0x400, mat 1 tier base 1 1), (0x500, mat 1 3 0x20000 1 1), (0x600, mat 1 3 0x30000 1 1)]
def mmR (tier base : Nat) : Cmd := after (.matmul c0) (one (mmT tier base))
def tA (tier base : Nat) : Tensor := tensorOf (mat 1 tier base 1 1) 0x400
def predL : List W := layer 1 8 [0, 1, 2] [0x10000000, 0xFFFFFFFF, 0xFFFFFFFF, 0, 0x80000000, 0x00030004, 0, 0xFFFFFFFF, 0xFFFF0000]
def predC : Cmd := prog (cmd 0x40 (ptr 0x400 ++ [0])) predL [mat 1 3 0x10000 1 1, mat 1 3 0x20000 1 1, mat 1 3 0x30000 1 1, tens 3 3 0x40000 [(32,1),(1,32)], tens 7 3 0x50000 [(1,1)]]
def predR : Cmd := after (.programRun c0) (one predC)
def predLay : Layer := predR.rawProgram.layers.headD (layerOf [] 0)
def tt (i : Nat) : Tensor := (predR.tableTensor predR.rawProgram i).getD (tensorOf [] 0)
def scL : List W := layer 3 8 [0, 0xFFFF, 1, 0xFFFF, 0xFFFF, 0xFFFF, 0xFFFF, 2] [0xF0000]
def scC : Cmd := prog (cmd 0x32 (ptr 0x400)) scL [tens 0 3 0x10000 [(4,1),(2,4)], tens 0 3 0x20000 [(4,1),(2,4)], tens 7 3 0x30000 [(4,1)]]
def scR : Cmd := after (.gatherRun c0) (one scC)
def sL : Layer := scR.rawProgram.layers.headD (layerOf [] 0)
def scRows : List Nat := (((one scR).sourceRows scR (opOf scR)).map (·.2)).getD []
def mmI : Cmd := { mmR 3 0x10000 with ops := (mmR 3 0x10000).ops.map fun o => { o with needs := [], stage := .issued } }
def v1 := place (place (run (put up [(F.chkEnable 0, 0), (F.drainDup 0, 0)]) mmI) 3 0x10000 [0x3FC0]) 3 0x20000 [0x4000]
def tSp : List W := [0x114DC3FF, 0x20000, 0, 1, 0, 1, 0, 0, 0, 0, 0, 0, 0, 0x40000, 0, 0]
def tSrc : List W := mat 1 3 0x10000 1 1
def enc (p : W) : Cmd := caps (cmd 0x48 (ptr 0x400 ++ ptr 0x500 ++ [p])) [(0x400, tSrc), (0x500, tSp)]
def ver : Cmd := caps (cmd 0x49 (ptr 0x500 ++ [1])) [(0x500, tSp)]
def encd : State := { out (exec (.encode c0) (one (enc 1))) with cmds := [ver] }

theorem witness_OperationsWaitAndIssue :
  -- the clause at h.2.1
  ((Instr.weightTileFetch c0 0 0 0 (0, 0) = Instr.weightTileFetch c0 0 0 0 (0, 0) ∧ 3 ≤ (tA 3 65536).tier ∨
      Instr.weightTileFetch c0 0 0 0 (0, 0) = Instr.tileMoveDone c0 0 0 0 (0, 0) ∧ (tA 3 65536).tier < 3) ∧
    (one (mmR 3 65536)).findCmd c0 = some (mmR 3 65536) ∧
    (one (mmR 3 65536)).waiters (mmR 3 65536) 0 0 (0, 0, 0) = [(0, opOf (mmR 3 65536))] ∧
    (mmR 3 65536).operandTensor 0 = some (tA 3 65536) ∧
    (mmR 3 65536).phase ≠ Phase.accepted ∧
    (mmR 3 65536).failure = none ∧
    isMaskRef (mmR 3 65536) 0 (0, 0, 0) = false ∧
    (tA 3 65536).sparse = false ∧
    (one (mmR 3 65536)).Sound ∧
    writerBusy ((one (mmR 3 65536)).pendingUses (mmR 3 65536) 0 (opOf (mmR 3 65536))) ((one (mmR 3 65536)).needSpans (mmR
      3 65536) (tA 3 65536) (opOf (mmR 3 65536)) 0 0) = false ∧
    spansMeet ((one (mmR 3 65536)).needSpans (mmR 3 65536) (tA 3 65536) (opOf (mmR 3 65536)) 0 0) (one (mmR 3
      65536)).copySpans = false ∧
    nearHall (tA 3 65536) 0 ((one (mmR 3 65536)).needSpans (mmR 3 65536) (tA 3 65536) (opOf (mmR 3 65536)) 0 0) = true ∧
    ((one (mmR 3 65536)).touchSpans ((one (mmR 3 65536)).needSpans (mmR 3 65536) (tA 3 65536) (opOf (mmR 3 65536)) 0
      0)).1.trap = none ∧
    (Instr.tileMoveDone c0 0 0 0 (0, 0) = Instr.weightTileFetch c0 0 0 0 (0, 0) ∧ 3 ≤ (tA 0 327680).tier ∨
      Instr.tileMoveDone c0 0 0 0 (0, 0) = Instr.tileMoveDone c0 0 0 0 (0, 0) ∧ (tA 0 327680).tier < 3) ∧
    (one (mmR 0 327680)).findCmd c0 = some (mmR 0 327680) ∧
    (one (mmR 0 327680)).waiters (mmR 0 327680) 0 0 (0, 0, 0) = [(0, opOf (mmR 0 327680))] ∧
    (mmR 0 327680).operandTensor 0 = some (tA 0 327680) ∧
    (mmR 0 327680).phase ≠ Phase.accepted ∧
    (mmR 0 327680).failure = none ∧
    isMaskRef (mmR 0 327680) 0 (0, 0, 0) = false ∧
    (tA 0 327680).sparse = false ∧
    (one (mmR 0 327680)).Sound ∧
    writerBusy ((one (mmR 0 327680)).pendingUses (mmR 0 327680) 0 (opOf (mmR 0 327680))) ((one (mmR 0 327680)).needSpans
      (mmR 0 327680) (tA 0 327680) (opOf (mmR 0 327680)) 0 0) = false ∧
    spansMeet ((one (mmR 0 327680)).needSpans (mmR 0 327680) (tA 0 327680) (opOf (mmR 0 327680)) 0 0) (one (mmR 0
      327680)).copySpans = false ∧
    nearHall (tA 0 327680) 0 ((one (mmR 0 327680)).needSpans (mmR 0 327680) (tA 0 327680) (opOf (mmR 0 327680)) 0 0) =
      true ∧
    ((one (mmR 0 327680)).touchSpans ((one (mmR 0 327680)).needSpans (mmR 0 327680) (tA 0 327680) (opOf (mmR 0 327680)) 0
      0)).1.trap = none) ∧
  -- the clause at h.2.2.1
  ((one predR).findCmd c0 = some predR ∧
    predR.rawProgram.layers[0]? = some predLay ∧
    predLay.op = 1 ∧
    (predR.matLayer predR.rawProgram 0 predLay).sp.pred = true ∧
    (one predR).waiters predR ((one predR).blockHall (predR.matLayer predR.rawProgram 0 predLay) 0) 0 ((predR.matLayer
      predR.rawProgram 0 predLay).sp.mask, 0, 0) = [(0, opOf predR), (1, predR.ops[1]?.getD (opOf predR))] ∧
    (predR.matLayer predR.rawProgram 0 predLay).x = some (tt 0) ∧
    (predR.matLayer predR.rawProgram 0 predLay).pa = some (tt 3) ∧
    (predR.matLayer predR.rawProgram 0 predLay).mask = some (tt 4) ∧
    predR.phase ≠ Phase.accepted ∧
    predR.failure = none ∧
    (one predR).Sound ∧
    writerBusy ((one predR).pendingUses predR 0 (opOf predR)) ((one predR).blockSpans (tt 0) (blockLines (predR.matLayer
      predR.rawProgram 0 predLay).m 0) (List.range (predR.matLayer predR.rawProgram 0 predLay).k) ++ (one
      predR).wholeSpans (tt 3)) = false ∧
    spansMeet ((one predR).blockSpans (tt 0) (blockLines (predR.matLayer predR.rawProgram 0 predLay).m 0) (List.range
      (predR.matLayer predR.rawProgram 0 predLay).k) ++ (one predR).wholeSpans (tt 3)) (one predR).copySpans = false ∧
    regionBusy ((one predR).pendingUses predR 0 (opOf predR)) { writes := List.map (fun (nb : ℕ) => (one predR).mapSpan (tt 4) (0 * (predR.matLayer predR.rawProgram 0 predLay).nbs + nb)) (List.range (predR.matLayer predR.rawProgram 0 predLay).nbs) } = false ∧
    ((one predR).touchSpans ((one predR).blockSpans (tt 0) (blockLines (predR.matLayer predR.rawProgram 0 predLay).m 0)
      (List.range (predR.matLayer predR.rawProgram 0 predLay).k) ++ (one predR).wholeSpans (tt 3))).1.trap = none ∧
    (tt 4).fmt = 7 ∧
    (tt 4).ndim = 1 ∧
    (tt 4).spread = false ∧
    (tt 4).stride 0 = 1 ∧
    (0 + 1) * (predR.matLayer predR.rawProgram 0 predLay).nbs ≤ 32 * (tt 4).size 0 ∧
    (one predR).hasRange (tt 4).tier (tt 4).base (4 * (tt 4).size 0) = true ∧
    (tt 4).base % 4 = 0) ∧
  -- the clause at h.2.2.2
  ((one scR).op c0 0 = some (scR, opOf scR) ∧
    (opOf scR).stage = OpStage.waiting ∧
    scR.phase ≠ Phase.accepted ∧
    scR.failure = none ∧
    (∀ f ∈ (opOf scR).got, f.row ≠ scRows.headD 9) ∧
    Option.filter (fun (x : GatherCtx) => x.readsTable (opOf scR).kind.backward) (scR.gatherOf (opOf scR)) = none ∧
    (one scR).sourceRows scR (opOf scR) = some ((scR.tableTensor scR.rawProgram 0).getD (tensorOf [] 0), scRows) ∧
    scRows.headD 9 ∈ scRows ∧
    3 ≤ ((scR.tableTensor scR.rawProgram 0).getD (tensorOf [] 0)).tier ∧
    scRows.headD 9 < ((scR.tableTensor scR.rawProgram 0).getD (tensorOf [] 0)).rows ∧
    (one scR).Sound ∧
    writerBusy ((one scR).pendingUses scR 0 (opOf scR)) ((one scR).cellSpans ((scR.tableTensor scR.rawProgram 0).getD
      (tensorOf [] 0)) (List.map (fun (e : ℕ) => [e, scRows.headD 9]) (List.range ((scR.tableTensor scR.rawProgram
      0).getD (tensorOf [] 0)).rowLen))) = false ∧
    ((one scR).touchElems ((scR.tableTensor scR.rawProgram 0).getD (tensorOf [] 0)) (List.map (fun (e : ℕ) => [e,
      scRows.headD 9]) (List.range ((scR.tableTensor scR.rawProgram 0).getD (tensorOf [] 0)).rowLen))).1.trap = none) := by
  refine ⟨?_, ?_, ?_⟩ <;> first
    | decide +kernel
    | (simp only [State.Sound]
       decide +kernel)

theorem witness_MatmulOperationWritesItsTile :
  -- the clause at h
  (v1.findCmd c0 = some mmI ∧
    mmI.ops = [opOf mmI] ∧
    mmI.opcode = 65 ∧
    (opOf mmI).kind = OpKind.matmul 0 0 ∧
    (opOf mmI).unit = EngineKind.array ∧
    (opOf mmI).stage = OpStage.issued ∧
    mmI.failure = none ∧
    mmI.result = none ∧
    (opOf mmI).held = [] ∧
    v1.CanEnd c0 ∧
    (∀ q ∈ v1.cmds, q.captures = false) ∧
    v1.attested = false ∧
    v1.flag F.chkArm = false ∧
    v1.flag (F.chkEnable ((opOf mmI).tile / 640)) = false ∧
    v1.flag (F.drainDup ((opOf mmI).tile / 640)) = false ∧
    (v1.touchSpans (v1.runReads mmI (opOf mmI))).1.trap = none ∧
    mmI.matmulOf.round = false ∧
    mmI.matmulOf.c.ndim = 2 ∧
    mmI.matmulOf.c.fmt < 5 ∧
    mmI.matmulOf.c.size 0 = mmI.matmulOf.n ∧
    mmI.matmulOf.c.size 1 = mmI.matmulOf.m ∧
    v1.apart c0 mmI.matmulOf.c ∧
    v1.plain mmI.matmulOf.c ∧
    v1.hasRange mmI.matmulOf.c.tier mmI.matmulOf.c.base mmI.matmulOf.c.span = true ∧
    mmI.matmulOf.c.tier < 4) := by
  first
    | decide +kernel
    | (simp only [State.CanEnd, State.Sound, State.apart, State.EndsBare]
       decide +kernel)
    | (and_intros <;> first
        | decide +kernel
        | (simp only [State.CanEnd, State.Sound, State.apart, State.EndsBare]
           decide +kernel)
        | exact State.plain_of_line _ _ (by decide +kernel) (by decide +kernel) (by decide +kernel) (by decide +kernel) (by decide +kernel)
        | (rw [State.plain_iff]; decide +kernel))

theorem witness_SparseTilesAreEncodedAndVerified :
  -- the clause at h.1
  ((one (enc 1)).Runs c0 72 (enc 1) ∧
    (one (enc 1)).encodeArgs (enc 1) = Except.ok (tensorOf tSrc 1024, tensorOf tSp 1280) ∧
    (tensorOf tSp 1280).kb * (tensorOf tSp 1280).nb = 1 ∧
    (tensorOf tSrc 1024).fmt = 1 ∧
    (one (enc 1)).apart c0 (tensorOf tSrc 1024) ∧
    (one (enc 1)).clearOf c0 (tensorOf tSp 1280).base 2304 ∧
    (one (enc 1)).clearOf c0 (tensorOf tSp 1280).metaAt 8 ∧
    ((tensorOf tSp 1280).base + 2304 ≤ (tensorOf tSp 1280).metaAt ∨ (tensorOf tSp 1280).metaAt + 8 ≤ (tensorOf tSp
      1280).base) ∧
    (List.filter (fun (x : ℕ × ℕ) => decide (x.1 < (tensorOf tSrc 1024).size 1) && decide (x.2 < (tensorOf tSrc 1024).size
      0) && (one (enc 1)).elemBits (tensorOf tSrc 1024) [x.2, x.1] % 32768 != 0) (List.flatMap (fun (r : ℕ) =>
      List.map (fun (k : ℕ) => (r, k)) (List.range 32)) (List.range 32))).length = 0 ∧
    (place (one (enc 131073)) 3 65536 [16384]).Runs c0 72 (enc 131073) ∧
    (place (one (enc 131073)) 3 65536 [16384]).encodeArgs (enc 131073) = Except.ok (tensorOf tSrc 1024, tensorOf tSp 1280) ∧
    (place (one (enc 131073)) 3 65536 [16384]).apart c0 (tensorOf tSrc 1024) ∧
    (place (one (enc 131073)) 3 65536 [16384]).clearOf c0 (tensorOf tSp 1280).base 2304 ∧
    (place (one (enc 131073)) 3 65536 [16384]).clearOf c0 (tensorOf tSp 1280).metaAt 8 ∧
    (List.filter (fun (x : ℕ × ℕ) => decide (x.1 < (tensorOf tSrc 1024).size 1) && decide (x.2 < (tensorOf tSrc 1024).size
      0) && (place (one (enc 131073)) 3 65536 [16384]).elemBits (tensorOf tSrc 1024) [x.2, x.1] % 32768 != 0)
      (List.flatMap (fun (r : ℕ) => List.map (fun (k : ℕ) => (r, k)) (List.range 32)) (List.range 32))).length ≠ 0 ∧
    (enc 131073).bits 8 17 16 = 2) ∧
  -- the clause at h.2
  (encd.Runs c0 73 ver ∧
    encd.verifyArgs ver = Except.ok (tensorOf tSp 1280) ∧
    encd.clearOf c0 (tensorOf tSp 1280).base (2304 * (tensorOf tSp 1280).kb * (tensorOf tSp 1280).nb) ∧
    encd.clearOf c0 (tensorOf tSp 1280).metaAt (8 * (tensorOf tSp 1280).kb * (tensorOf tSp 1280).nb) ∧
    (∀ i < (tensorOf tSp 1280).kb * (tensorOf tSp 1280).nb, encd.spCheck (tensorOf tSp 1280) i true = none)) := by
  refine ⟨?_, ?_⟩ <;> first
    | decide +kernel
    | (simp only [State.Runs, State.CanEnd, State.Sound, State.apart, State.clearOf, State.EndsBare]
       decide +kernel)

end Sys2Proof.Tests.W7

/-! ### Sampling and generator images -/

namespace Sys2Proof.Tests.W8
open Sys2Proof Sys2Proof.Machine Sys2Proof.Tests

def run (s : State) (m : Cmd) : State := { s with cmds := [m] }
def after (i : Instr) (s : State) : Cmd := ((out (exec i s)).findCmd c0).getD (cmd 0 [])
def opOf (m : Cmd) : Op := m.ops.headD { kind := .sample 0 }
def graphW : List W := [0x40000000, 4, 0, 4, 0, 0, 0, 0x40000, 0, 0x50000, 0, 0x60000, 0, 0x70000, 0, 0]
def jobW (tile : W) : List W := [0x52000000, tile, 0x480, 0x40000000, 0x00010001, 0, 0, 0, 1, 0, 0, 0, 1, 0, 0, 0]
def smp : Cmd := caps (cmd 0x20 (ptr 0x400 ++ ptr 0x500 ++ ptr 0x540 ++ [7])) [(0x400, jobW 1), (0x480, graphW), (0x500, tens 7 3 0x80000 [(2,1)]), (0x540, tens 7 3 0x90000 [(32,1)])]
def argsOf (s : State) (m : Cmd) : SampleArgs := match s.sampleArgs m with | .ok a => a | _ => { job := ⟨0,0,false,false,[]⟩, graph := graphOf [], seed := tensorOf [] 0, path := tensorOf [] 0, seedWord := 0, pathWord := 0, mb := 0 }
def smR : Cmd := after (.sample c0) (one smp)
def smI : Cmd := { smR with ops := smR.ops.map fun o => { o with stage := .issued }, start := 1 }
-- node 0 has the edges 0 and 1 in the Deep Cellar (offset entries of 8 bytes), each to node 1 or 2
def gS : State := place (place (one smI) 4 0x60000 [0,0,2,0,2,0,2,0,2,0]) 4 0x70000 [1,0,2,0]
def sRun : Except Status SampOut × SampAcc := sampleRun ⟨(opOf smI).hall, c0.ring, 4⟩ (argsOf gS smI) (fun lane v => gS.drawAt (argsOf gS smI).job.gen lane (gS.ctr (argsOf gS smI).job.gen lane + BitVec.ofNat 64 v)) { s := gS }
def rOf : SampOut := match sRun.1 with | .ok r => r | _ => ⟨[], 0⟩
def gv (n : W) : Cmd := caps (cmd 0x21 (ptr 0x480 ++ [0, 0, n])) [(0x480, graphW)]
def gArg (m : Cmd) : Graph × Nat × Nat := match graphVerifyArgs m with | .ok g => g | _ => (graphOf [], 0, 0)
def imgT : List W := tens 7 3 0x1000000 [(1310736,1)]
def gl (op : Nat) : Cmd := caps (cmd op (ptr 0x400)) [(0x400, imgT)]
def gl1 (op : Nat) : Cmd := { gl op with order := 1 }
def smpA : Cmd := { id := ⟨0, 4⟩, opcode := 0x20 }
def two (op : Nat) : State := { up with cmds := [smpA, gl1 op] }

theorem witness_SamplingAndGraphVerify :
  -- the clause at h.1.1
  ((one smp).runnable c0 32 = some smp ∧
    (one smp).trap = none ∧
    (one smp).sampleArgs smp = Except.ok (argsOf (one smp) smp)) ∧
  -- the clause at h.1.2.1
  ((one smR).findCmd c0 = some smR ∧
    smR.ops = [opOf smR] ∧
    smR.opcode = 32 ∧
    (opOf smR).kind = OpKind.sample 0 ∧
    (opOf smR).unit = EngineKind.sampler ∧
    (opOf smR).stage = OpStage.waiting ∧
    smR.phase = Phase.running ∧
    smR.failure = none ∧
    (one smR).rst.stopped = false ∧
    (one smR).stallCause smR 0 (opOf smR) true = none ∧
    (one smR).engineBusy (opOf smR) = false ∧
    (one smR).Sound ∧
    (one smR).hasRange 3 ((one smR).ledgerAddr c0.ring c0.seq) 32 = true ∧
    smR.start = 0) ∧
  -- the clause at h.1.2.2
  (gS.findCmd c0 = some smI ∧
    smI.ops = [opOf smI] ∧
    smI.opcode = 32 ∧
    (opOf smI).kind = OpKind.sample 0 ∧
    (opOf smI).held = [] ∧
    (opOf smI).unit = EngineKind.sampler ∧
    (opOf smI).stage = OpStage.issued ∧
    smI.phase = Phase.running ∧
    smI.failure = none ∧
    smI.result = none ∧
    gS.sampleArgs smI = Except.ok (argsOf gS smI) ∧
    sRun.2.s.cmds = gS.cmds ∧
    sRun.2.s.gens = gS.gens ∧
    (∀ q ∈ gS.cmds, q.captures = false) ∧
    sRun.2.s.CanEnd c0 ∧
    0 < rOf.adv) ∧
  -- the clause at h.2
  ((one (gv 4)).Runs c0 33 (gv 4) ∧
    graphVerifyArgs (gv 4) = Except.ok ((gArg (gv 4)).1, (gArg (gv 4)).2.1, (gArg (gv 4)).2.2) ∧
    (gArg (gv 4)).1.hot ≤ (gArg (gv 4)).2.1 ∧
    (gArg (gv 4)).1.deepOff + 8 * ((gArg (gv 4)).2.1 + (gArg (gv 4)).2.2) + 8 ≤ deepEnd ∧
    (one (gv 4)).flag F.logEnable = false ∧
    (∀ i < (gArg (gv 4)).2.2, ofLe ((one (gv 4)).bytes 4 ((gArg (gv 4)).1.deepOff + 8 * ((gArg (gv 4)).2.1 + i)) 5) = ofLe
      ((one (gv 4)).bytes 4 ((gArg (gv 4)).1.deepOff + 8 * ((gArg (gv 4)).2.1 + (i + 1))) 5)) ∧
    (∀ i ≤ (gArg (gv 4)).2.2, ofLe ((one (gv 4)).bytes 4 ((gArg (gv 4)).1.deepOff + 8 * ((gArg (gv 4)).2.1 + i)) 5) ≤
      (gArg (gv 4)).1.edges) ∧
    (place (one (gv 4)) 4 393216 [1]).Runs c0 33 (gv 4) ∧
    (place (one (gv 4)) 4 393216 [1]).flag F.logEnable = false ∧
    ofLe ((place (one (gv 4)) 4 393216 [1]).bytes 4 ((gArg (gv 4)).1.deepOff + 8 * ((gArg (gv 4)).2.1 + 1)) 5) < ofLe
      ((place (one (gv 4)) 4 393216 [1]).bytes 4 ((gArg (gv 4)).1.deepOff + 8 * ((gArg (gv 4)).2.1 + 0)) 5)) := by
  refine ⟨?_, ?_, ?_, ?_⟩ <;> first
    | decide +kernel
    | (simp only [State.Runs, State.CanEnd, State.Sound, State.EndsBare]
       decide +kernel)
    | (and_intros <;> first
        | decide +kernel
        | (simp only [State.Runs, State.CanEnd, State.Sound, State.EndsBare]
           decide +kernel)
        | rfl)

theorem witness_GeneratorImageIsSavedAndLoaded :
  -- the clause at h.2.2
  ((Instr.genLoad c0 = Instr.genSave c0 ∧ 81 = 82 ∨ Instr.genLoad c0 = Instr.genLoad c0 ∧ 81 = 81) ∧
    (two 81).runnable c0 81 = some (gl1 81) ∧
    (two 81).genWaits (gl1 81) = true ∧
    (two 81).trap = none ∧
    (Instr.genSave c0 = Instr.genSave c0 ∧ 82 = 82 ∨ Instr.genSave c0 = Instr.genLoad c0 ∧ 82 = 81) ∧
    (two 82).runnable c0 82 = some (gl1 82) ∧
    (two 82).genWaits (gl1 82) = true ∧
    (two 82).trap = none) := by
  decide +kernel

end Sys2Proof.Tests.W8

/-! ### Tables, logs, meters -/

namespace Sys2Proof.Tests.W9
open Sys2Proof Sys2Proof.Machine Sys2Proof.Tests

def t1 : State := tbl (ent 0 0 0 200 0x4000) (ent 0 0 0 200 0x4001)
def pool1 : State := put t1 [(F.poolEnable 15, 1), (F.poolRec16 15, 1)]
def pool2 : State := (pool1.setReg (Reg.ermPool 15) 0x40000).setReg (Reg.ermPool 15 + 0xC) 2
def to_ (n : W) (d : List W) : Cmd := caps (cmd 0x30 ([n] ++ ptr 0x400)) [(0x400, d)]
def v1 := withCmds t1 [to_ 0 (tab 2 0x30000 0)]
def tc (n : W) : Cmd := cmd 0x31 [n]
def tp : Cmd := { cmd 0x33 [0, 0, 0, 1, 0] with id := ⟨0, 4⟩ }
def v2 := withCmds t1 [tc 0]
def v3 := withCmds t1 [tp, tc 0]
def v4 := { tc 0 with phase := .running }
def v5 := withCmds t1 [{ tc 0 with phase := .running }]
def v6 := withCmds t1 [tp, { tc 0 with phase := .running }]
def tpc : Cmd := cmd 0x33 [0, 0, 0, 1, 1]
def h0 : Handle := { n := 0, desc := tab 2 0x30000 0 }
def t2 (e : List W) : State := tbl e (ent 0 0 0 200 0x4001)
def v7 := withCmds t1 [tpc]
def v8 := withCmds (t2 (ent 5 0 0 0 0)) [tpc]
def v9 := withCmds (t2 (ent 0 0 1 0 0x4000)) [tpc]
def tpr : Cmd := { tpc with phase := .running, aux := [0, 1] }
def v10 := withCmds (t2 (ent 5 0 0 0 0)) [tpr]
-- a log record of 16 bytes of row 0 at 0x80000, its home 0x40000
def lg : State := { place (put (t2 (ent 3 0 0 200 0x8000)) [(F.logSizeLog2, 12), (F.logMergeAt, 1)]) 3 0x80000 [0x00200100, 0, 0x4000, 0, 0, 0, 0, 0, 1, 2, 3, 4] with
  erm := { (t2 []).erm with logCount := 1, logHead := 256 } }
def lg1 : State := lg.setReg (Reg.erm 0) 0x80000
def lm : Cmd := cmd 0x34 []
def v11 := { lm with aux := [1] }
def v12 := withCmds lg1 [{ lm with aux := [1] }]
def opOf (m : Cmd) : Op := m.ops.headD { kind := .sample 0 }
def late20 (s : State) : State := { s with tb := { s.tb with stime := 2000000 } }
def v13 := { up with loads := [(0, 2048)] }
def v14 := late20 { up with loads := [(0, 2048)] }
def v15 := { put up [(F.verShare, 1), (F.verThreshold, 8)] with moved := [(0, 24000000)] }
def sc : Cmd := { cmd 0x40 [] with phase := .running, ops := [{ kind := .scatter 0 false, stage := .issued }] }
def addR : AddReq := { cmd := c0, op := 0, addr := 0x40, isInt := true, vals := List.replicate 16 0xFFFFFFFF }
def ads : State := { place (withCmds up [sc]) 3 0x40 [1, 2] with erm := { adds := [addR] } }

theorem witness_ConfigurationRegistersAndTbCfg :
  -- the clause at h.1.1.2.1
  (15 < 16 ∧
    pool2.trap = none ∧
    pool2.bar0Open = true ∧
    pool2.flag (F.poolEnable 15) = true ∧
    bits 0 31 31 = 0 ∧
    pool2.poolNamed 15 = true ∧
    up.trap = none ∧
    up.bar0Open = true ∧
    up.flag (F.poolEnable 15) = false) := by
  decide +kernel

theorem witness_TableHandlesOpenAndClose :
  -- the clause at h.1
  ((one (to_ 255 (tab 2 196608 0))).Runs c0 48 (to_ 255 (tab 2 196608 0)) ∧
    (to_ 255 (tab 2 196608 0)).block 5 ((to_ 255 (tab 2 196608 0)).ptr 5) 64 = Except.ok (tab 2 196608 0) ∧
    tMap (tab 2 196608 0) = 0 ∧
    (one (to_ 255 (tab 2 196608 0))).tableOk (tab 2 196608 0) = true ∧
    (one (to_ 255 (tab 2 196608 0))).handle ((to_ 255 (tab 2 196608 0)).bits 4 7 0) = none ∧
    v1.Runs c0 48 (to_ 0 (tab 2 196608 0)) ∧
    (to_ 0 (tab 2 196608 0)).block 5 ((to_ 0 (tab 2 196608 0)).ptr 5) 64 = Except.ok (tab 2 196608 0) ∧
    v1.tableOk (tab 2 196608 0) = true ∧
    v1.handle ((to_ 0 (tab 2 196608 0)).bits 4 7 0) ≠ none ∧
    (one (to_ 0 (0 :: tab 2 196608 0))).Runs c0 48 (to_ 0 (0 :: tab 2 196608 0)) ∧
    (to_ 0 (0 :: tab 2 196608 0)).block 5 ((to_ 0 (0 :: tab 2 196608 0)).ptr 5) 64 = Except.ok (0 :: List.take 15 (tab 2
      196608 0)) ∧
    tMap (0 :: List.take 15 (tab 2 196608 0)) = 0 ∧
    (one (to_ 0 (0 :: tab 2 196608 0))).tableOk (0 :: List.take 15 (tab 2 196608 0)) = false) ∧
  -- the clause at h.2.1
  ((one (tc 255)).Runs c0 49 (tc 255) ∧
    ((one (tc 255)).handle ((tc 255).bits 4 7 0) = none ∨ ∃ o ∈ (one (tc 255)).cmds, o.opcode = 49 ∧ o.bits 4 7 0 = (tc
      255).bits 4 7 0 ∧ o.order < (tc 255).order) ∧
    v2.Runs c0 49 (tc 0) ∧
    v2.handle ((tc 0).bits 4 7 0) = some ((v2.handle ((tc 0).bits 4 7 0)).getD { n := 0, desc := [] }) ∧
    (¬∃ o ∈ v2.cmds, o.opcode = 49 ∧ o.bits 4 7 0 = (tc 0).bits 4 7 0 ∧ o.order < (tc 0).order) ∧
    ((v2.handle ((tc 0).bits 4 7 0)).getD { n := 0, desc := [] }).locked = none ∧
    (∀ o ∈ v2.cmds, o.id ≠ c0 → namesHandle o ((tc 0).bits 4 7 0) = false) ∧
    v3.Runs c0 49 (tc 0) ∧
    v3.handle ((tc 0).bits 4 7 0) = some ((v3.handle ((tc 0).bits 4 7 0)).getD { n := 0, desc := [] }) ∧
    (¬∃ o ∈ v3.cmds, o.opcode = 49 ∧ o.bits 4 7 0 = (tc 0).bits 4 7 0 ∧ o.order < (tc 0).order) ∧
    ((v3.handle ((tc 0).bits 4 7 0)).getD { n := 0, desc := [] }).locked = none) ∧
  -- the clause at h.2.2
  (v5.findCmd c0 = some v4 ∧
    v4.opcode = 49 ∧
    v4.phase = Phase.running ∧
    v5.CanEnd c0 ∧
    (∀ o ∈ v5.cmds, o.id ≠ c0 → namesHandle o (v4.bits 4 7 0) = false) ∧
    v6.findCmd c0 = some v4 ∧
    v6.CanEnd c0 ∧
    (∃ o ∈ v6.cmds, o.id ≠ c0 ∧ namesHandle o (v4.bits 4 7 0) = true)) := by
  refine ⟨?_, ?_, ?_⟩ <;> first
    | decide +kernel
    | (simp only [State.Runs, State.CanEnd, State.Sound, State.EndsBare]
       decide +kernel)

theorem witness_TierPassAndLogMerge :
  -- the clause at h.1.1
  (v7.Runs c0 51 tpc ∧
    v7.mainFor tpc (tpc.bits 4 7 0) = some h0 ∧
    tpc.word 7 = 1 ∧
    tpc.aux = [] ∧
    v7.ck.stream = none ∧
    tpc.word 5 + 2 ^ 32 * tpc.bits 6 7 0 < tLocal h0.desc ∧
    v7.clearOf c0 (dirAddr h0.desc (tFirst h0.desc + (tpc.word 5 + 2 ^ 32 * tpc.bits 6 7 0))) 8 ∧
    (v7.dir h0.desc (tFirst h0.desc + (tpc.word 5 + 2 ^ 32 * tpc.bits 6 7 0))).loc < 3 ∧
    (v7.dir h0.desc (tFirst h0.desc + (tpc.word 5 + 2 ^ 32 * tpc.bits 6 7 0))).dual = false ∧
    v7.targetClass h0.desc (currentClass (v7.dir h0.desc (tFirst h0.desc + (tpc.word 5 + 2 ^ 32 * tpc.bits 6 7 0))).fmt
      (locTier (v7.dir h0.desc (tFirst h0.desc + (tpc.word 5 + 2 ^ 32 * tpc.bits 6 7 0))).loc)) (if tpc.bits 8 0 0 = 1
      ∧ tDecay h0.desc ≠ 0 then (v7.dir h0.desc (tFirst h0.desc + (tpc.word 5 + 2 ^ 32 * tpc.bits 6 7 0))).heat -
      (v7.dir h0.desc (tFirst h0.desc + (tpc.word 5 + 2 ^ 32 * tpc.bits 6 7 0))).heat / 2 ^ tDecay h0.desc else
      (v7.dir h0.desc (tFirst h0.desc + (tpc.word 5 + 2 ^ 32 * tpc.bits 6 7 0))).heat) = currentClass (v7.dir h0.desc
      (tFirst h0.desc + (tpc.word 5 + 2 ^ 32 * tpc.bits 6 7 0))).fmt (locTier (v7.dir h0.desc (tFirst h0.desc +
      (tpc.word 5 + 2 ^ 32 * tpc.bits 6 7 0))).loc) ∧
    v8.Runs c0 51 tpc ∧
    v8.mainFor tpc (tpc.bits 4 7 0) = some h0 ∧
    v8.ck.stream = none ∧
    v8.clearOf c0 (dirAddr h0.desc (tFirst h0.desc + (tpc.word 5 + 2 ^ 32 * tpc.bits 6 7 0))) 8 ∧
    ((v8.dir h0.desc (tFirst h0.desc + (tpc.word 5 + 2 ^ 32 * tpc.bits 6 7 0))).loc = 4 ∨ (v8.dir h0.desc (tFirst h0.desc
      + (tpc.word 5 + 2 ^ 32 * tpc.bits 6 7 0))).loc = 5 ∨ (v8.dir h0.desc (tFirst h0.desc + (tpc.word 5 + 2 ^ 32 *
      tpc.bits 6 7 0))).dual = true) ∧
    v9.Runs c0 51 tpc ∧
    v9.mainFor tpc (tpc.bits 4 7 0) = some h0 ∧
    v9.ck.stream = none ∧
    v9.clearOf c0 (dirAddr h0.desc (tFirst h0.desc + (tpc.word 5 + 2 ^ 32 * tpc.bits 6 7 0))) 8 ∧
    ((v9.dir h0.desc (tFirst h0.desc + (tpc.word 5 + 2 ^ 32 * tpc.bits 6 7 0))).loc = 4 ∨ (v9.dir h0.desc (tFirst h0.desc
      + (tpc.word 5 + 2 ^ 32 * tpc.bits 6 7 0))).loc = 5 ∨ (v9.dir h0.desc (tFirst h0.desc + (tpc.word 5 + 2 ^ 32 *
      tpc.bits 6 7 0))).dual = true) ∧
    (v9.dir h0.desc (tFirst h0.desc + (tpc.word 5 + 2 ^ 32 * tpc.bits 6 7 0))).loc < 3) ∧
  -- the clause at h.1.2
  (v10.cmds = [tpr] ∧
    tpr.opcode = 51 ∧
    tpr.phase = Phase.running ∧
    tpr.aux = [0, 1] ∧
    tpr.word 7 = 0 + 1 ∧
    v10.mainFor tpr (tpr.bits 4 7 0) = some h0 ∧
    v10.ck.stream = none ∧
    v10.CanEnd tpr.id ∧
    tpr.word 5 + 2 ^ 32 * tpr.bits 6 7 0 + 0 < tLocal h0.desc ∧
    v10.clearOf tpr.id (dirAddr h0.desc (tFirst h0.desc + (tpr.word 5 + 2 ^ 32 * tpr.bits 6 7 0) + 0)) 8 ∧
    (v10.dir h0.desc (tFirst h0.desc + (tpr.word 5 + 2 ^ 32 * tpr.bits 6 7 0) + 0)).loc = 5) ∧
  -- the clause at h.2.1
  (lg1.Sound ∧
    lg1.mergesInto (tab 2 196608 0) ∧
    lg1.erm.logCount = 1 ∧
    lg1.mergeDue = true) ∧
  -- the clause at h.2.2.1
  (up.trap = none ∧
    up.mergeDue = false) ∧
  -- the clause at h.2.2.2.1
  (v12.Runs c0 52 v11 ∧
    v12.mergesInto (tab 2 196608 0) ∧
    v12.erm.logCount = 1 ∧
    v12.clearOf c0 v12.oldestAt (32 + v12.oldestLen) ∧
    v12.clearOf c0 (dirAddr (tab 2 196608 0) v12.oldestRow) 8 ∧
    v12.oldestHome.1 ≠ v12.replyTier c0.ring ∧
    (v11.word 4 ≠ 0 ∨ v11.aux.length = 1 ∧ 0 < v11.aux.getD 0 0)) ∧
  -- the clause at h.2.2.2.2
  ((one lm).Runs c0 52 lm ∧
    ((one lm).erm.logCount = 0 ∨ lm.word 4 = 0 ∧ lm.aux = [0])) := by
  refine ⟨?_, ?_, ?_, ?_, ?_, ?_⟩ <;> first
    | decide +kernel
    | (simp only [State.Runs, State.CanEnd, State.Sound, State.clearOf, State.mergesInto, State.EndsBare]
       decide +kernel)

theorem witness_MetersAndNearMemoryAdds :
  -- the clause at h.1
  (v13.trap = none ∧
    v13.tb.stime < v13.erm.loadAt + 1000 * max 1 (v13.fld F.loadWindow) ∧
    v14.trap = none ∧
    v14.erm.loadAt + 1000 * max 1 (v14.fld F.loadWindow) ≤ v14.tb.stime ∧
    v14.erm.wins.length < 2 ^ 32) ∧
  -- the clause at h.2.1
  (up.trap = none ∧
    (∀ o ∈ up.cmds, o.opcode ≠ 56 ∧ o.opcode ≠ 57) ∧
    up.tb.stime < up.erm.meterAt + 10000 ∧
    (late20 v15).trap = none ∧
    (∀ o ∈ (late20 v15).cmds, o.opcode ≠ 56 ∧ o.opcode ≠ 57) ∧
    (late20 v15).erm.meterAt + 10000 ≤ (late20 v15).tb.stime) ∧
  -- the clause at h.2.2.1
  (ads.Sound ∧
    List.find? (fun (q : AddReq) => q.addr == addR.addr) ads.erm.adds = some addR ∧
    addR.cmd = c0 ∧
    addR.isInt = true ∧
    addR.vals.length = 16 ∧
    addR.addr % 64 = 0 ∧
    addR.addr + 64 ≤ cellarEnd ∧
    ads.findCmd c0 = some sc) ∧
  -- the clause at h.2.2.2
  (AddCheck.addersDiffer ≠ AddCheck.good ∧
    List.find? (fun (q : AddReq) => q.addr == addR.addr) ads.erm.adds = some addR ∧
    addR.cmd = c0 ∧
    addR.addr % 64 = 0 ∧
    addR.addr + 64 ≤ cellarEnd ∧
    ads.findCmd c0 = some sc ∧
    sc.ops = [opOf sc] ∧
    addR.op = 0 ∧
    sc.failure = none ∧
    (∀ (l : ℕ), (opOf sc).kind ≠ OpKind.contribution l) ∧
    ads.CanEnd c0 ∧
    ads.clearOf c0 addR.addr 64 ∧
    AddCheck.badRequest ≠ AddCheck.good) := by
  refine ⟨?_, ?_, ?_, ?_⟩ <;> first
    | decide +kernel
    | (simp only [State.CanEnd, State.Sound, State.clearOf, State.EndsBare]
       decide +kernel)
    | (and_intros <;> first
        | decide +kernel
        | (simp only [State.CanEnd, State.Sound, State.clearOf, State.EndsBare]
           decide +kernel)
        | exact fun _ h => OpKind.noConfusion (show OpKind.scatter 0 false = _ from h))

end Sys2Proof.Tests.W9

/-! ### Remote rows, versions -/

namespace Sys2Proof.Tests.W10
open Sys2Proof Sys2Proof.Machine Sys2Proof.Tests

def h0 : Handle := { n := 0, desc := tab 2 0x30000 0 }
def t1 : State := tbl (ent 0 0 0 200 0x4000) (ent 0 0 0 200 0x4001)
def req (stamp : Nat) : Pkt := { type := .request, cls := 2, dst := 0xFFFF, src := 7, sink := 2, body := .rowReq 0 1 stamp 0 5 }
def held : State := { at_ t1 100 with erm := { t1.erm with heldReq := [req 100] } }
def gw : Pkt := { type := .write, cls := 3, dst := 0xFFFF, src := 7, sink := 2, body := .rowWrite 0 1 0 true [1, 2] }
def gu : Guest := { handle := 0, row := 1, version := 0, fmt := 0, bytes := [3, 4], heat := 255 }
def gst : State := { at_ t1 100 with erm := { t1.erm with guests := [gu] } }
def gop : Cmd := { cmd 0x32 [] with phase := .running, ops := [{ kind := .gather 0 false }] }
def rr : Pkt := { type := .response, cls := 3, dst := 0xFFFF, src := 7, ring := 0, seq := 5, sink := 2, body := .rowResp 0 1 0 9 0 true [1, 2] }
def v1 := { gw with body := .rowWrite 0 1 0 true [] }
def lst : List W := tens 7 3 0x90000 [(2, 1)]
def mg : Cmd := caps (cmd 0x35 ([0x80000700] ++ ptr 0x400)) [(0x400, lst)]
def v2 := withCmds t1 [mg]
def win : Win := { cmd := ⟨0, 4⟩, handle := 0, dir := 0x30000, row := 1, remote := some 7 }
def winS (w : Win) (l : List Cmd) : State := { tbl (ent 0 0 0 200 0x4000) (ent 0 0 1 200 0x4001) with erm := { t1.erm with wins := [w] }, cmds := l }
def msw (b : W) : Cmd := cmd 0x36 [b, 4]
def msr : Cmd := { msw 0 with phase := .running }
def v3 := { win with moved := some c0 }
def v4 := winS { win with moved := some c0 } [msr]
def st : Cmd := caps (cmd 0x38 ([0xFF00] ++ ptr 0x400)) [(0x400, tab 2 0x38000 1)]
def v5 := withCmds t1 [st]
def src : List W := tens 0 3 0xA0000 [(4, 1), (1, 4)]
def tw : Cmd := caps (cmd 0x37 ([0] ++ ptr 0x400 ++ ptr 0x500)) [(0x400, lst), (0x500, src)]
def v6 := place (withCmds t1 [tw]) 3 0xA0000 [0x3F800000]
def stH : Handle := { n := 1, desc := tab 2 0x38000 1, role := .staging 0, built := true }
def stg : State := { place t1 3 0x38000 (ent 5 0 0 200 0 ++ ent 5 0 0 200 0) with erm := { handles := [h0, stH] } }
def pool : State := ((put stg [(F.poolEnable 2, 1), (F.poolRec16 2, 1)]).setReg (Reg.ermPool 2) 0x50000).setReg (Reg.ermPool 2 + 0xC) 2
def tr : Cmd := caps (cmd 0x39 ([1, 1, 0, 1] ++ ptr 0x500)) [(0x500, src)]
def v7 := place (withCmds pool [tr]) 3 0xA0000 [0x3F800000]
def ts : Cmd := cmd 0x3A [0x100]
def v8 := withCmds stg [ts]
def stN : Handle := { stH with built := false }
def v9 := { withCmds stg [ts] with erm := { handles := [h0, stN] } }
def tsd (t : Nat) : Cmd := { ts with flags := 4, t := t, job := 9 }
def v10 := put (withCmds stg [tsd 999]) [(F.verLead, 1)]
def v11 := put (withCmds stg [tsd 1000]) [(F.verLead, 1)]
def v12 := { put (withCmds stg [tsd 1000]) [(F.verLead, 1)] with erm := { handles := [h0, stH], vetoes := [{ job := 9, main := 0, version := 1, at_ := 999 }] } }
def rtr : Retiring := { main := 0, desc := tab 2 0x30000 0, since := 0, until_ := 10, cmd := c0 }
def tsr : Cmd := { ts with phase := .running }
def rtS (t : Nat) : State := at_ { put t1 [(F.grace, 1)] with erm := { handles := [h0], retiring := [rtr] }, cmds := [tsr] } t
def tsa : Cmd := { ts with phase := .armed, flags := 4, t := 1000, job := 9 }
def v13 := put (withCmds stg [tsa]) [(F.verLead, 1)]
def stL : Handle := { stH with locked := some 1 }
def v14 := { put (withCmds stg [tsa]) [(F.verLead, 1)] with erm := { handles := [h0, stL] } }
def v15 := { put (withCmds stg [tsa]) [(F.verLead, 1), (F.package, 3), (F.portState 47, 2)] with erm := { handles := [h0, stN] } }
def vt : Pkt := { type := .notice, cls := 0, dst := 0xFFFF, src := 7, job := 9, seq := 2, sink := 4, body := .notice 0x30000009 0x00010000 0 0 }
def v16 := put (withCmds stg [tsa]) [(F.package, 3), (F.portState 47, 2), (F.portState 46, 2)]

theorem witness_RemoteRowsAndMigration :
  -- the clause at h.1.1
  ((at_ t1 100).trap = none ∧
    (req 101).body = Body.rowReq 0 1 101 0 5 ∧
    (at_ t1 100).tb.stime < 101) ∧
  -- the clause at h.1.2.1
  ((Instr.remoteRowRequest (req 100) = Instr.remoteRowRequest (req 100) ∧ (at_ t1 100).erm.heldReq = [] ∨
      Instr.remoteRowRequest (req 100) = Instr.remoteRequestStampRelease ∧ (at_ t1 100).erm.heldReq = [req 100]) ∧
    (at_ t1 100).Sound ∧
    (req 100).body = Body.rowReq 0 1 100 0 5 ∧
    100 ≤ (at_ t1 100).tb.stime ∧
    (at_ t1 100).handle 0 = some h0 ∧
    h0.role = HRole.main ∧
    h0.since ≤ 100 ∧
    tHolds h0.desc 1 = true ∧
    (at_ t1 100).guest 0 1 (tVersion h0.desc) = none ∧
    dirAddr h0.desc 1 + 8 ≤ cellarEnd ∧
    ((at_ t1 100).dir h0.desc 1).loc < 3 ∧
    (((at_ t1 100).dir h0.desc 1).fmt = 3 → tWidth h0.desc % 32 = 0) ∧
    (at_ t1 100).hasRange (locTier ((at_ t1 100).dir h0.desc 1).loc) (16 * ((at_ t1 100).dir h0.desc 1).addr16) (recBytes
      h0.desc ((at_ t1 100).dir h0.desc 1).fmt) = true ∧
    (Instr.remoteRequestStampRelease = Instr.remoteRowRequest (req 100) ∧ held.erm.heldReq = [] ∨
      Instr.remoteRequestStampRelease = Instr.remoteRequestStampRelease ∧ held.erm.heldReq = [req 100]) ∧
    held.Sound ∧
    100 ≤ held.tb.stime ∧
    held.handle 0 = some h0 ∧
    held.guest 0 1 (tVersion h0.desc) = none ∧
    (held.dir h0.desc 1).loc < 3 ∧
    ((held.dir h0.desc 1).fmt = 3 → tWidth h0.desc % 32 = 0) ∧
    held.hasRange (locTier (held.dir h0.desc 1).loc) (16 * (held.dir h0.desc 1).addr16) (recBytes h0.desc (held.dir
      h0.desc 1).fmt) = true) ∧
  -- the clause at h.1.2.2.1
  (t1.trap = none ∧
    gw.body = Body.rowWrite 0 1 0 true [1, 2] ∧
    t1.handle 0 = some h0 ∧
    h0.role = HRole.main ∧
    t1.erm.guests.length < 65536 ∧
    [1, 2] ≠ [] ∧
    gst.trap = none ∧
    v1.body = Body.rowWrite 0 1 0 true [] ∧
    gst.handle 0 = some h0 ∧
    gst.erm.guests.length < 65536 ∧
    ([] : List Nat) = []) ∧
  -- the clause at h.1.2.2.2.1
  (gst.trap = none ∧
    (req 100).body = Body.rowReq 0 1 100 0 5 ∧
    100 ≤ gst.tb.stime ∧
    gst.handle 0 = some h0 ∧
    h0.role = HRole.main ∧
    h0.since ≤ 100 ∧
    gst.guest 0 1 (tVersion h0.desc) = some gu) ∧
  -- the clause at h.1.2.2.2.2
  ((one gop).trap = none ∧
    rr.body = Body.rowResp 0 1 0 9 0 true [1, 2] ∧
    [1, 2] ≠ [] ∧
    (one gop).op { ring := rr.ring, seq := rr.seq } 0 = some (gop, ({ kind := OpKind.gather 0 false } : Op)) ∧
    ({ kind := OpKind.gather 0 false } : Op).stage = OpStage.waiting ∧
    (∀ f ∈ ({ kind := OpKind.gather 0 false } : Op).got, f.row ≠ 1)) ∧
  -- the clause at h.2.1
  (v2.Runs c0 53 mg ∧
    mg.aux = [] ∧
    v2.mainFor mg (mg.bits 4 7 0) = some h0 ∧
    v2.rowList mg 5 4096 = Except.ok (tensorOf lst 1024, 1) ∧
    mg.bits 4 31 31 = 1 ∧
    v2.erm.wins = [] ∧
    v2.apart c0 (tensorOf lst 1024) ∧
    tHolds h0.desc (v2.listRow (tensorOf lst 1024) 0) = true ∧
    v2.clearOf c0 (dirAddr h0.desc (v2.listRow (tensorOf lst 1024) 0)) 8 ∧
    (v2.dir h0.desc (v2.listRow (tensorOf lst 1024) 0)).loc = 0 ∧
    (v2.dir h0.desc (v2.listRow (tensorOf lst 1024) 0)).dual = false ∧
    (v2.dir h0.desc (v2.listRow (tensorOf lst 1024) 0)).fmt < 3 ∧
    v2.clearOf c0 (16 * (v2.dir h0.desc (v2.listRow (tensorOf lst 1024) 0)).addr16) (recBytes h0.desc (v2.dir h0.desc
      (v2.listRow (tensorOf lst 1024) 0)).fmt)) ∧
  -- the clause at h.2.2.1
  ((winS win [msw 0]).Runs c0 54 (msw 0) ∧
    (msw 0).sched = false ∧
    (winS win [msw 0]).erm.wins = [win] ∧
    win.cmd = { ring := (msw 0).bits 4 11 0, seq := (msw 0).bits 5 15 0 } ∧
    win.moved = none ∧
    win.remote = some 7 ∧
    7 < 2 ^ 16 ∧
    (winS win [msw 0]).versions = [tab 2 196608 0] ∧
    tDir (tab 2 196608 0) = win.dir ∧
    (winS win [msw 0]).findCmd { ring := (msw 0).bits 4 11 0, seq := (msw 0).bits 5 15 0 } = none ∧
    (winS win [msw 0]).clearOf c0 (dirAddr (tab 2 196608 0) win.row) 8 ∧
    ((winS win [msw 0]).dir (tab 2 196608 0) win.row).loc < 3 ∧
    (msw 0).bits 4 31 31 = 0 ∧
    (winS win [msw 2147483648]).Runs c0 54 (msw 2147483648) ∧
    (msw 2147483648).sched = false ∧
    (winS win [msw 2147483648]).erm.wins = [win] ∧
    win.cmd = { ring := (msw 2147483648).bits 4 11 0, seq := (msw 2147483648).bits 5 15 0 } ∧
    (winS win [msw 2147483648]).versions = [tab 2 196608 0] ∧
    (winS win [msw 2147483648]).findCmd { ring := (msw 2147483648).bits 4 11 0, seq := (msw 2147483648).bits 5 15 0 } = none ∧
    (winS win [msw 2147483648]).clearOf c0 (dirAddr (tab 2 196608 0) win.row) 8 ∧
    ((winS win [msw 2147483648]).dir (tab 2 196608 0) win.row).loc < 3 ∧
    (msw 2147483648).bits 4 31 31 = 1) ∧
  -- the clause at h.2.2.2
  (v4.cmds = [msr] ∧
    msr.opcode = 54 ∧
    v4.erm.wins = [v3] ∧
    v3.moved = some msr.id ∧
    v4.versions = [tab 2 196608 0] ∧
    tDir (tab 2 196608 0) = v3.dir ∧
    v4.CanEnd msr.id ∧
    v4.clearOf msr.id (dirAddr (tab 2 196608 0) v3.row) 8) := by
  refine ⟨?_, ?_, ?_, ?_, ?_, ?_, ?_, ?_⟩ <;> first
    | decide +kernel
    | (simp only [State.Runs, State.CanEnd, State.Sound, State.apart, State.clearOf, State.EndsBare]
       decide +kernel)

theorem witness_StageWriteAndRebuildRows :
  -- the clause at h.1
  (v5.Runs c0 56 st ∧
    v5.mainFor st (st.bits 4 7 0) = some h0 ∧
    h0.n = st.bits 4 7 0 ∧
    v5.stagedOf (st.bits 4 7 0) = none ∧
    v5.handle (st.bits 4 15 8) = none ∧
    st.block 5 (st.ptr 5) 64 = Except.ok (tab 2 229376 1) ∧
    v5.tableOk (tab 2 229376 1) = true ∧
    sameTable (tab 2 229376 1) h0.desc = true ∧
    tMap (tab 2 229376 1) = 0 ∧
    tVersion (tab 2 229376 1) = (tVersion h0.desc + 1) % 65536 ∧
    (tDir (tab 2 229376 1) + 8 * tLocal (tab 2 229376 1) ≤ tDir h0.desc ∨ tDir h0.desc + 8 * tLocal (tab 2 229376 1) ≤
      tDir (tab 2 229376 1)) ∧
    v5.erm.budget = [] ∧
    v5.clearOf c0 (tDir (tab 2 229376 1)) (8 * tLocal (tab 2 229376 1)) ∧
    v5.clearOf c0 (tDir h0.desc) (8 * tLocal (tab 2 229376 1))) ∧
  -- the clause at h.2.1
  (v6.Runs c0 55 tw ∧
    tw.aux = [] ∧
    v6.mainFor tw (tw.bits 4 7 0) = some h0 ∧
    v6.tableWriteArgs tw h0.desc = Except.ok (tensorOf lst 1024, 1, tensorOf src 1280) ∧
    tw.bits 4 8 8 = 0 ∧
    v6.ck.stream = none ∧
    v6.apart c0 (tensorOf lst 1024) ∧
    v6.apart c0 (tensorOf src 1280) ∧
    v6.listRow (tensorOf lst 1024) 0 < tRows h0.desc ∧
    tHolds h0.desc (v6.listRow (tensorOf lst 1024) 0) = true ∧
    v6.clearOf c0 (dirAddr h0.desc (v6.listRow (tensorOf lst 1024) 0)) 8 ∧
    (v6.dir h0.desc (v6.listRow (tensorOf lst 1024) 0)).loc = 0 ∧
    (v6.dir h0.desc (v6.listRow (tensorOf lst 1024) 0)).dual = false ∧
    v6.clearOf c0 (16 * (v6.dir h0.desc (v6.listRow (tensorOf lst 1024) 0)).addr16) (rowRecord h0.desc (v6.dir h0.desc (v6.listRow (tensorOf lst 1024) 0)).fmt { vals := List.map (fun (i : ℕ) => v6.elem (tensorOf src 1280) [i, 0]) (List.range (tWidth h0.desc)), stored := Option.map (fun (f : ℕ) => (f, List.flatMap (fun (i : ℕ) => leBytes (Fp.width (tensorOf src 1280).fmt / 8) (v6.elemBits (tensorOf src 1280) [i, 0])) (List.range (tWidth h0.desc)))) (fmtOfFormat (tensorOf src 1280).fmt) }).1.length ∧
    0 < (rowRecord h0.desc (v6.dir h0.desc (v6.listRow (tensorOf lst 1024) 0)).fmt { vals := List.map (fun (i : ℕ) => v6.elem (tensorOf src 1280) [i, 0]) (List.range (tWidth h0.desc)), stored := Option.map (fun (f : ℕ) => (f, List.flatMap (fun (i : ℕ) => leBytes (Fp.width (tensorOf src 1280).fmt / 8) (v6.elemBits (tensorOf src 1280) [i, 0])) (List.range (tWidth h0.desc)))) (fmtOfFormat (tensorOf src 1280).fmt) }).1.length ∧
    (dirAddr h0.desc (v6.listRow (tensorOf lst 1024) 0) + 8 ≤ 16 * (v6.dir h0.desc (v6.listRow (tensorOf lst 1024) 0)).addr16 ∨ 16 * (v6.dir h0.desc (v6.listRow (tensorOf lst 1024) 0)).addr16 + (rowRecord h0.desc (v6.dir h0.desc (v6.listRow (tensorOf lst 1024) 0)).fmt { vals := List.map (fun (i : ℕ) => v6.elem (tensorOf src 1280) [i, 0]) (List.range (tWidth h0.desc)), stored := Option.map (fun (f : ℕ) => (f, List.flatMap (fun (i : ℕ) => leBytes (Fp.width (tensorOf src 1280).fmt / 8) (v6.elemBits (tensorOf src 1280) [i, 0])) (List.range (tWidth h0.desc)))) (fmtOfFormat (tensorOf src 1280).fmt) }).1.length ≤ dirAddr h0.desc (v6.listRow (tensorOf lst 1024) 0))) ∧
  -- the clause at h.2.2
  (v7.Runs c0 57 tr ∧
    tr.aux = [] ∧
    v7.cmds = [tr] ∧
    v7.openFor tr (tr.bits 4 7 0) = some stH ∧
    stH.role = HRole.staging 0 ∧
    stH.locked = none ∧
    v7.rebuildArgs tr stH.desc = Except.ok (tensorOf src 1280) ∧
    tr.bits 4 8 8 = 0 ∧
    tr.word 7 = 1 ∧
    v7.erm.budget = [] ∧
    v7.apart c0 (tensorOf src 1280) ∧
    v7.clearOf c0 (dirAddr stH.desc (rebuildFirst tr)) 8 ∧
    2 < 16 ∧
    v7.poolFits 2 (classTier (v7.rowClass stH.desc (v7.dir stH.desc (rebuildFirst tr)).heat)) (recBytes stH.desc (classFmt
      stH.desc (v7.rowClass stH.desc (v7.dir stH.desc (rebuildFirst tr)).heat))) = true ∧
    (∀ j < 2, v7.poolFits j (classTier (v7.rowClass stH.desc (v7.dir stH.desc (rebuildFirst tr)).heat)) (recBytes stH.desc
      (classFmt stH.desc (v7.rowClass stH.desc (v7.dir stH.desc (rebuildFirst tr)).heat))) = false) ∧
    (v7.begin c0).freeRecs 2 ≠ [] ∧
    (∀ x ∈ (v7.begin c0).freeRecs 2, x % 16 = 0 ∧ x < 2 ^ 44 ∧ v7.hasRange (classTier (v7.rowClass stH.desc (v7.dir stH.desc (rebuildFirst tr)).heat)) x (rowRecord stH.desc (classFmt stH.desc (v7.rowClass stH.desc (v7.dir stH.desc (rebuildFirst tr)).heat)) { vals := List.map (fun (i : ℕ) => v7.elem (tensorOf src 1280) [i, 0]) (List.range (tWidth stH.desc)), stored := Option.map (fun (f : ℕ) => (f, List.flatMap (fun (i : ℕ) => leBytes (Fp.width (tensorOf src 1280).fmt / 8) (v7.elemBits (tensorOf src 1280) [i, 0])) (List.range (tWidth stH.desc)))) (fmtOfFormat (tensorOf src 1280).fmt) }).1.length = true ∧ (classTier (v7.rowClass stH.desc (v7.dir stH.desc (rebuildFirst tr)).heat) = 3 → v7.clearOf c0 x (rowRecord stH.desc (classFmt stH.desc (v7.rowClass stH.desc (v7.dir stH.desc (rebuildFirst tr)).heat)) { vals := List.map (fun (i : ℕ) => v7.elem (tensorOf src 1280) [i, 0]) (List.range (tWidth stH.desc)), stored := Option.map (fun (f : ℕ) => (f, List.flatMap (fun (i : ℕ) => leBytes (Fp.width (tensorOf src 1280).fmt / 8) (v7.elemBits (tensorOf src 1280) [i, 0])) (List.range (tWidth stH.desc)))) (fmtOfFormat (tensorOf src 1280).fmt) }).1.length ∧ (x + (rowRecord stH.desc (classFmt stH.desc (v7.rowClass stH.desc (v7.dir stH.desc (rebuildFirst tr)).heat)) { vals := List.map (fun (i : ℕ) => v7.elem (tensorOf src 1280) [i, 0]) (List.range (tWidth stH.desc)), stored := Option.map (fun (f : ℕ) => (f, List.flatMap (fun (i : ℕ) => leBytes (Fp.width (tensorOf src 1280).fmt / 8) (v7.elemBits (tensorOf src 1280) [i, 0])) (List.range (tWidth stH.desc)))) (fmtOfFormat (tensorOf src 1280).fmt) }).1.length ≤ dirAddr stH.desc (rebuildFirst tr) ∨ dirAddr stH.desc (rebuildFirst tr) + 8 ≤ x))) ∧
    (v7.replyTier c0.ring ≠ classTier (v7.rowClass stH.desc (v7.dir stH.desc (rebuildFirst tr)).heat) ∨ classTier
      (v7.rowClass stH.desc (v7.dir stH.desc (rebuildFirst tr)).heat) = 3) ∧
    0 < (rowRecord stH.desc (classFmt stH.desc (v7.rowClass stH.desc (v7.dir stH.desc (rebuildFirst tr)).heat)) { vals := List.map (fun (i : ℕ) => v7.elem (tensorOf src 1280) [i, 0]) (List.range (tWidth stH.desc)), stored := Option.map (fun (f : ℕ) => (f, List.flatMap (fun (i : ℕ) => leBytes (Fp.width (tensorOf src 1280).fmt / 8) (v7.elemBits (tensorOf src 1280) [i, 0])) (List.range (tWidth stH.desc)))) (fmtOfFormat (tensorOf src 1280).fmt) }).1.length) := by
  refine ⟨?_, ?_, ?_⟩ <;> first
    | decide +kernel
    | (simp only [State.Runs, State.CanEnd, State.Sound, State.apart, State.clearOf, State.EndsBare]
       decide +kernel)

theorem witness_TableVersionsAreSwitched :
  -- the clause at h.1
  (v8.Runs c0 58 ts ∧
    v8.switchTarget ts = some (h0, stH) ∧
    ts.sched = false ∧
    v8.versionReady stH = true ∧
    v8.erm.wins = [] ∧
    h0.n ≠ stH.n ∧
    v8.handle h0.n = some h0 ∧
    v8.handle stH.n = some stH ∧
    v9.Runs c0 58 ts ∧
    v9.switchTarget ts = some (h0, stN) ∧
    v9.versionReady stN = false) ∧
  -- the clause at h.2.1
  (v10.Runs c0 58 (tsd 999) ∧
    v10.switchTarget (tsd 999) = some (h0, stH) ∧
    (tsd 999).sched = true ∧
    ((tsd 999).t < (tsd 999).accAt + 1000 * v10.fld F.verLead ∨ (tsd 999).job ≠ 0 ∧ ∃ v ∈ v10.erm.vetoes, v.job = (tsd
      999).job ∧ v.main = h0.n ∧ v.version = tVersion stH.desc ∧ v.at_ < (tsd 999).t ∧ (tsd 999).t ≤ v.at_ + maxLead) ∧
    v11.Runs c0 58 (tsd 1000) ∧
    v11.switchTarget (tsd 1000) = some (h0, stH) ∧
    (tsd 1000).sched = true ∧
    (tsd 1000).accAt + 1000 * v11.fld F.verLead ≤ (tsd 1000).t ∧
    ((tsd 1000).job = 0 ∨ ¬∃ v ∈ v11.erm.vetoes, v.job = (tsd 1000).job ∧ v.main = h0.n ∧ v.version = tVersion stH.desc ∧
      v.at_ < (tsd 1000).t ∧ (tsd 1000).t ≤ v.at_ + maxLead) ∧
    v12.Runs c0 58 (tsd 1000) ∧
    v12.switchTarget (tsd 1000) = some (h0, stH) ∧
    ((tsd 1000).t < (tsd 1000).accAt + 1000 * v12.fld F.verLead ∨ (tsd 1000).job ≠ 0 ∧ ∃ v ∈ v12.erm.vetoes, v.job = (tsd
      1000).job ∧ v.main = h0.n ∧ v.version = tVersion stH.desc ∧ v.at_ < (tsd 1000).t ∧ (tsd 1000).t ≤ v.at_ +
      maxLead) ∧
    (tsd 1000).accAt + 1000 * v12.fld F.verLead ≤ (tsd 1000).t) ∧
  -- the clause at h.2.2.1
  ((rtS 1010).findCmd c0 = some tsr ∧
    (rtS 1010).CanEnd c0 ∧
    List.find? (fun (q : Retiring) => decide (q.cmd = c0)) (rtS 1010).erm.retiring = some rtr ∧
    rtr.until_ + 1000 * (rtS 1010).fld F.grace ≤ (rtS 1010).tb.stime ∧
    (rtS 1010).stillRead rtr = false ∧
    (rtS 1009).findCmd c0 = some tsr ∧
    (rtS 1009).CanEnd c0 ∧
    List.find? (fun (q : Retiring) => decide (q.cmd = c0)) (rtS 1009).erm.retiring = some rtr ∧
    ((rtS 1009).tb.stime < rtr.until_ + 1000 * (rtS 1009).fld F.grace ∨ (rtS 1009).stillRead rtr = true)) ∧
  -- the clause at h.2.2.2.1
  (v13.findCmd c0 = some tsa ∧
    tsa.opcode = 58 ∧
    tsa.phase = Phase.armed ∧
    tsa.aux = [] ∧
    v13.CanEnd c0 ∧
    v13.switchTarget tsa = some (h0, stH) ∧
    tsa.t ≤ v13.tb.stime + 1000 * v13.fld F.verLead ∧
    stH.locked = none ∧
    v13.versionReady stH = true ∧
    v13.handle stH.n = some stH ∧
    v14.findCmd c0 = some tsa ∧
    v14.CanEnd c0 ∧
    v14.switchTarget tsa = some (h0, stL) ∧
    tsa.t ≤ v14.tb.stime + 1000 * v14.fld F.verLead ∧
    stL.locked = some (stL.locked.getD 0) ∧
    v15.findCmd c0 = some tsa ∧
    v15.CanEnd c0 ∧
    v15.switchTarget tsa = some (h0, stN) ∧
    tsa.t ≤ v15.tb.stime + 1000 * v15.fld F.verLead ∧
    stN.locked = none ∧
    v15.versionReady stN = false ∧
    tsa.job ≠ 0 ∧
    v15.noticeRoom = true) ∧
  -- the clause at h.2.2.2.2
  (v16.cmds = [tsa] ∧
    tsa.opcode = 58 ∧
    tsa.phase = Phase.armed ∧
    tsa.job = vt.job ∧
    vt.job ≠ 0 ∧
    vt.body = Body.notice 805306377 65536 0 0 ∧
    tsa.bits 4 7 0 = bits 65536 7 0 ∧
    v16.switchTarget tsa = some (h0, stH) ∧
    tVersion stH.desc = bits 65536 31 16 ∧
    v16.CanEnd tsa.id ∧
    (∀ q ∈ v16.fab.seen, v16.tb.stime < q.2.2 + 1000000 → q.1 = vt.src → q.2.1 ≠ vt.seq)) := by
  refine ⟨?_, ?_, ?_, ?_, ?_⟩ <;> first
    | decide +kernel
    | (simp only [State.Runs, State.CanEnd, State.Sound, State.EndsBare]
       decide +kernel)

end Sys2Proof.Tests.W10

/-! ### Commits and contributions -/

namespace Sys2Proof.Tests.W11
open Sys2Proof Sys2Proof.Machine Sys2Proof.Tests

/-- one dense shard of 2 parameters from n packages -/
def shard (n : W) : List W := [0x90000000 + n, 7, 1, 2, 0x10000, 0, 0x20000, 0, 0x30000, 0, 0x40000, 0, 0, 0, 0, 0]
def hyper : List W := [0x90000000, 0x3F800000, 0, 0, 0, 0, 0, 0, 0, 0, 0, 0x3F800000, 0, 0, 0, 0]
def com (n max : W) : Cmd := { caps (cmd 0x60 (ptr 0x400 ++ [1] ++ ptr 0x500 ++ [3, 0, 0x00020000 + 256 * max])) [(0x400, shard n), (0x500, hyper)] with flags := 4, t := 5000, job := 9 }
def base : State := put up [(F.restoreOk, 1), (F.package, 3), (F.portState 47, 2)]
def v1 := withCmds base [com 1 1]
def com0 : Cmd := { com 1 1 with flags := 0 }
def v2 := match (withCmds base [com0]).commitCheck com0 with | .error e => e | _ => okStatus
def v3 := withCmds base [com0]
def comA (n max : W) : Cmd := { com n max with phase := .armed, aux := [1000] }
def run (added : Nat) : ShardRun := { job := 9, step := 3, shard := 7, cmd := c0, pos := 0, added := added, formed := added == 1 }
def armed (n max : W) (added k t : Nat) : State := { at_ (withCmds base [comA n max]) t with
  red := { jobs := [{ job := 9, steps := [{ step := 3, defers := k }] }], shards := [run added] } }
def entry (k : Nat) : JobEntry := { job := 9, steps := [{ step := 3, defers := k }] }
def comB : Cmd := { comA 1 1 with job := 0 }
def note (w0 w2 : W) : Pkt := { type := .notice, cls := 0, dst := 0xFFFF, src := 7, job := 9, seq := 2, sink := 4, body := .notice w0 3 w2 0 }
def armed2 (k : Nat) (com : Bool) : State := { put (armed 1 1 0 0 0) [(F.portState 46, 2)] with red := { jobs := [{ job := 9, steps := [{ step := 3, defers := k, committed := com }] }], shards := [run 0] } }
def entry2 (k : Nat) (com : Bool) : JobEntry := { job := 9, steps := [{ step := 3, defers := k, committed := com }] }
def pois : State := { armed 1 1 0 0 5000 with red := { jobs := [{ job := 9, steps := [{ step := 3, poisons := [(4, 7)] }] }], shards := [run 0] } }
def cpk (part : Part) : Pkt := { type := .write, cls := 3, dst := 3, src := 7, job := 9, sink := 1, body := .contrib 3 7 0 part }
def two : State := { place (withCmds base [comA 2 1]) 3 0x40000 [0x80000000, 0x80000000] with
  red := { jobs := [{ job := 9, steps := [{ step := 3 }] }], shards := [run 0], parts := [{ job := 9, step := 3, shard := 7, rank := 0, part := .elems 0 [0x3F800000, 0x40000000] }] } }
def twin : State := { put (armed 1 1 1 0 0) [(F.twinEnable, 1), (F.twinPartner, 4)] with red := { (armed 1 1 1 0 0).red with shards := [run 1] } }
def dg : Pkt := { type := .write, cls := 3, dst := 3, src := 4, job := 9, sink := 1, body := .digest 3 7 5 }
def v4 := { twin with red := { twin.red with shards := [] } }

theorem witness_CommitIsArmedDeferredOrPoisoned :
  -- the clause at h.1
  (v1.runnable c0 96 = some (com 1 1) ∧
    v1.Sound ∧
    v1.commitCheck (com 1 1) = Except.ok () ∧
    (v1.takeEntry (com 1 1).job).isSome = true ∧
    v1.bndIn 1 = none ∧
    (∀ (e : JobEntry), v1.jobEntry (com 1 1).job = some e → latestStep e < (com 1 1).step + 64) ∧
    v1.isPoisoned (com 1 1).job (com 1 1).step = false ∧
    v1.ck.plan = none ∧
    (∀ q ∈ v1.red.parts, q.job = (com 1 1).job → q.step ≠ (com 1 1).step) ∧
    (∀ r ∈ v1.red.shards, r.job = (com 1 1).job → r.step ≠ (com 1 1).step) ∧
    (∀ d ∈ (com 1 1).shards, sRed d % 4 = 0)) ∧
  -- the clause at h.2.1
  (v3.runnable c0 96 = some com0 ∧
    v3.CanEnd c0 ∧
    v3.commitCheck com0 = Except.error v2 ∧
    v3.safe.ckptReq = false) ∧
  -- the clause at h.2.2.1
  ((armed 1 1 1 0 4000).findCmd c0 = some (comA 1 1) ∧
    (comA 1 1).opcode = 96 ∧
    (comA 1 1).phase = Phase.armed ∧
    (comA 1 1).accAt ≤ (comA 1 1).t - (comA 1 1).lead ∧
    (comA 1 1).t - (comA 1 1).lead ≤ (armed 1 1 1 0 4000).tb.stime ∧
    (armed 1 1 1 0 4000).tb.stime < (comA 1 1).t ∧
    (comA 1 1).aux.getD lockAt 0 ≠ (comA 1 1).t + 1 ∧
    (armed 1 1 1 0 4000).trap = none ∧
    (∀ q ∈ (armed 1 1 1 0 4000).cmds, q.captures = false) ∧
    (armed 1 1 1 0 4000).isPoisoned (comA 1 1).job (comA 1 1).step = false ∧
    ((armed 1 1 1 0 4000).stepRec (comA 1 1).job (comA 1 1).step).committed = false ∧
    (∀ r ∈ (armed 1 1 1 0 4000).runsOf c0, (armed 1 1 1 0 4000).digestDiffers r = false) ∧
    (armed 1 1 1 0 4000).jobEntry (comA 1 1).job = some (entry 0) ∧
    (∀ r ∈ (entry 0).steps, r.step < (comA 1 1).step + 64) ∧
    (armed 1 1 1 0 4000).rst.held = [] ∧
    (armed 1 1 1 0 4000).rst.pinHeld = none ∧
    (∀ r ∈ (armed 1 1 1 0 4000).runsOf c0, (armed 1 1 1 0 4000).shardWaits (comA 1 1) r = none) ∧
    (armed 1 1 0 0 4999).findCmd c0 = some (comA 1 1) ∧
    (comA 1 1).t - (comA 1 1).lead ≤ (armed 1 1 0 0 4999).tb.stime ∧
    (armed 1 1 0 0 4999).tb.stime < (comA 1 1).t ∧
    (armed 1 1 0 0 4999).trap = none ∧
    (∀ q ∈ (armed 1 1 0 0 4999).cmds, q.captures = false) ∧
    (armed 1 1 0 0 4999).isPoisoned (comA 1 1).job (comA 1 1).step = false ∧
    ((armed 1 1 0 0 4999).stepRec (comA 1 1).job (comA 1 1).step).committed = false ∧
    (∀ r ∈ (armed 1 1 0 0 4999).runsOf c0, (armed 1 1 0 0 4999).digestDiffers r = false) ∧
    (armed 1 1 0 0 4999).jobEntry (comA 1 1).job = some (entry 0) ∧
    (armed 1 1 0 0 4999).rst.held = [] ∧
    (armed 1 1 0 0 4999).rst.pinHeld = none ∧
    (armed 1 1 0 1 4000).findCmd c0 = some (comA 1 1) ∧
    (comA 1 1).t - (comA 1 1).lead ≤ (armed 1 1 0 1 4000).tb.stime ∧
    (armed 1 1 0 1 4000).tb.stime < (comA 1 1).t ∧
    (armed 1 1 0 1 4000).trap = none ∧
    (∀ q ∈ (armed 1 1 0 1 4000).cmds, q.captures = false) ∧
    (armed 1 1 0 1 4000).isPoisoned (comA 1 1).job (comA 1 1).step = false ∧
    ((armed 1 1 0 1 4000).stepRec (comA 1 1).job (comA 1 1).step).committed = false ∧
    (∀ r ∈ (armed 1 1 0 1 4000).runsOf c0, (armed 1 1 0 1 4000).digestDiffers r = false) ∧
    (armed 1 1 0 1 4000).jobEntry (comA 1 1).job = some (entry 1) ∧
    (∀ r ∈ (entry 1).steps, r.step < (comA 1 1).step + 64) ∧
    (armed 1 1 0 1 4000).rst.held = [] ∧
    (armed 1 1 0 1 4000).rst.pinHeld = none) ∧
  -- the clause at h.2.2.2.1
  ((note 285212681 0).body = Body.notice 285212681 3 0 0 ∧
    (note 285212681 0).job ≠ 0 ∧
    (armed2 0 true).trap = none ∧
    (∀ q ∈ (armed2 0 true).fab.seen, (armed2 0 true).tb.stime < q.2.2 + 1000000 → q.1 = (note 285212681 0).src → q.2.1 ≠
      (note 285212681 0).seq) ∧
    (∃ o ∈ (armed2 0 true).cmds, o.job = (note 285212681 0).job) ∧
    (armed2 0 true).jobEntry (note 285212681 0).job = some (entry2 0 true) ∧
    (∀ r ∈ (entry2 0 true).steps, r.step < (3 : W).toNat + 64) ∧
    (armed2 0 true).rst.held = [] ∧
    (armed2 0 true).rst.pinHeld = none ∧
    ((armed2 0 true).stepRec (note 285212681 0).job ((3 : W).toNat)).committed = true ∧
    (armed2 0 false).trap = none ∧
    (∀ q ∈ (armed2 0 false).fab.seen, (armed2 0 false).tb.stime < q.2.2 + 1000000 → q.1 = (note 285212681 0).src → q.2.1 ≠
      (note 285212681 0).seq) ∧
    (∃ o ∈ (armed2 0 false).cmds, o.job = (note 285212681 0).job) ∧
    (armed2 0 false).jobEntry (note 285212681 0).job = some (entry2 0 false) ∧
    (∀ r ∈ (entry2 0 false).steps, r.step < (3 : W).toNat + 64) ∧
    (armed2 0 false).rst.held = [] ∧
    (armed2 0 false).rst.pinHeld = none ∧
    ((armed2 0 false).stepRec (note 285212681 0).job ((3 : W).toNat)).committed = false ∧
    bits 285212681 31 28 = 1 ∧
    (note 553648137 0).body = Body.notice 553648137 3 0 0 ∧
    (note 553648137 0).job ≠ 0 ∧
    (armed2 1 false).trap = none ∧
    (∀ q ∈ (armed2 1 false).fab.seen, (armed2 1 false).tb.stime < q.2.2 + 1000000 → q.1 = (note 553648137 0).src → q.2.1 ≠
      (note 553648137 0).seq) ∧
    (∃ o ∈ (armed2 1 false).cmds, o.job = (note 553648137 0).job) ∧
    (armed2 1 false).jobEntry (note 553648137 0).job = some (entry2 1 false) ∧
    (∀ r ∈ (entry2 1 false).steps, r.step < (3 : W).toNat + 64) ∧
    (armed2 1 false).rst.held = [] ∧
    (armed2 1 false).rst.pinHeld = none ∧
    ((armed2 1 false).stepRec (note 553648137 0).job ((3 : W).toNat)).committed = false ∧
    bits 553648137 31 28 ≠ 1 ∧
    bits 0 15 0 < ((armed2 1 false).stepRec (note 553648137 0).job ((3 : W).toNat)).defers ∧
    (note 553648137 1).body = Body.notice 553648137 3 1 0 ∧
    (note 553648137 1).job ≠ 0 ∧
    (∀ q ∈ (armed2 1 false).fab.seen, (armed2 1 false).tb.stime < q.2.2 + 1000000 → q.1 = (note 553648137 1).src → q.2.1 ≠
      (note 553648137 1).seq) ∧
    (∃ o ∈ (armed2 1 false).cmds, o.job = (note 553648137 1).job) ∧
    (armed2 1 false).jobEntry (note 553648137 1).job = some (entry2 1 false) ∧
    ((armed2 1 false).stepRec (note 553648137 1).job ((3 : W).toNat)).committed = false ∧
    ((armed2 1 false).stepRec (note 553648137 1).job ((3 : W).toNat)).defers ≤ bits 1 15 0) ∧
  -- the clause at h.2.2.2.2
  ((armed 1 1 0 0 5000).cmds = [comA 1 1] ∧
    (comA 1 1).opcode = 96 ∧
    (comA 1 1).sched = true ∧
    (comA 1 1).phase = Phase.armed ∧
    (comA 1 1).captures = false ∧
    (comA 1 1).t ≤ (armed 1 1 0 0 5000).tb.stime ∧
    (armed 1 1 0 0 5000).CanEnd (comA 1 1).id ∧
    (armed 1 1 0 0 5000).bndBase = 0 ∧
    (armed 1 1 0 0 5000).safe.ckptReq = false ∧
    (armed 1 1 0 0 5000).rst.held = [] ∧
    (armed 1 1 0 0 5000).rst.pinHeld = none ∧
    (armed 1 1 0 0 5000).isPoisoned (comA 1 1).job (comA 1 1).step = false ∧
    (∃ r ∈ (armed 1 1 0 0 5000).runsOf (comA 1 1).id, r.added < sN ((comA 1 1).shard r.pos)) ∧
    pois.cmds = [comA 1 1] ∧
    (comA 1 1).t ≤ pois.tb.stime ∧
    pois.CanEnd (comA 1 1).id ∧
    pois.bndBase = 0 ∧
    pois.safe.ckptReq = false ∧
    pois.rst.held = [] ∧
    pois.rst.pinHeld = none) := by
  refine ⟨?_, ?_, ?_, ?_, ?_⟩ <;> first
    | decide +kernel
    | (simp only [State.CanEnd, State.Sound, State.EndsBare]
       decide +kernel)

theorem witness_ContributionsAreAddedInRankOrder :
  -- the clause at h.1
  ((cpk (Part.fin 2)).body = Body.contrib 3 7 0 (Part.fin 2) ∧
    pois.partBehind (cpk (Part.fin 2)) 3 7 0 = false ∧
    pois.Calm ∧
    ((pois.stepRec (cpk (Part.fin 2)).job 3).committed = true ∨ pois.isPoisoned (cpk (Part.fin 2)).job 3 = true) ∧
    pois.Sound ∧
    (cpk (Part.elems 0 [1, 2])).body = Body.contrib 3 7 0 (Part.elems 0 [1, 2]) ∧
    base.partBehind (cpk (Part.elems 0 [1, 2])) 3 7 0 = false ∧
    base.Calm ∧
    base.Sound ∧
    base.stepClosed (cpk (Part.elems 0 [1, 2])).job 3 = false ∧
    base.run? (cpk (Part.elems 0 [1, 2])).job 3 7 = none ∧
    base.armedCommit (cpk (Part.elems 0 [1, 2])).job 3 = false ∧
    rankCounted (List.map (fun (x : PartRec) => x.part) (List.filter (partOf (cpk (Part.elems 0 [1, 2])).job 3 7 0)
      base.red.parts)) = false ∧
    (∀ q ∈ base.red.parts, partOf (cpk (Part.elems 0 [1, 2])).job 3 7 0 q = true → samePart q.part (Part.elems 0 [1, 2]) =
      false) ∧
    base.partPlace (partBytes (Part.elems 0 [1, 2])) = none ∧
    (base.setReg (Reg.red 24) 1).partBehind (cpk (Part.elems 0 [1, 2])) 3 7 0 = false ∧
    (base.setReg (Reg.red 24) 1).Calm ∧
    (base.setReg (Reg.red 24) 1).Sound ∧
    (base.setReg (Reg.red 24) 1).stepClosed (cpk (Part.elems 0 [1, 2])).job 3 = false ∧
    (base.setReg (Reg.red 24) 1).run? (cpk (Part.elems 0 [1, 2])).job 3 7 = none ∧
    (base.setReg (Reg.red 24) 1).armedCommit (cpk (Part.elems 0 [1, 2])).job 3 = false ∧
    rankCounted (List.map (fun (x : PartRec) => x.part) (List.filter (partOf (cpk (Part.elems 0 [1, 2])).job 3 7 0)
      (base.setReg (Reg.red 24) 1).red.parts)) = false ∧
    (∀ q ∈ (base.setReg (Reg.red 24) 1).red.parts, partOf (cpk (Part.elems 0 [1, 2])).job 3 7 0 q = true → samePart q.part
      (Part.elems 0 [1, 2]) = false) ∧
    (base.setReg (Reg.red 24) 1).partPlace (partBytes (Part.elems 0 [1, 2])) = some (((base.setReg (Reg.red 24)
      1).partPlace (partBytes (Part.elems 0 [1, 2]))).getD 0) ∧
    (base.setReg (Reg.red 24) 1).bufferBase + (base.setReg (Reg.red 24) 1).bufferSize ≤ cellarEnd) ∧
  -- the clause at h.2.1
  (two.Sound ∧
    two.run? (cpk (Part.fin 2)).job 3 7 = some (run 0) ∧
    two.findCmd (run 0).cmd = some (comA 2 1) ∧
    two.stepClosed (cpk (Part.fin 2)).job 3 = false ∧
    (cpk (Part.fin 2)).body = Body.contrib 3 7 ((comA 2 1).rank0 ((comA 2 1).shard (run 0).pos) + (run 0).added) (Part.fin
      2) ∧
    two.partBehind (cpk (Part.fin 2)) 3 7 ((comA 2 1).rank0 ((comA 2 1).shard (run 0).pos) + (run 0).added) = false ∧
    sCtype ((comA 2 1).shard (run 0).pos) ≠ 2 ∧
    (run 0).added + 1 < sN ((comA 2 1).shard (run 0).pos) ∧
    finOf (List.map (fun (x : PartRec) => x.part) (List.filter (partOf (cpk (Part.fin 2)).job 3 7 ((comA 2 1).rank0 ((comA
      2 1).shard (run 0).pos) + (run 0).added)) two.red.parts)) = none ∧
    elemsOf (List.map two.partNow (List.filter (partOf (cpk (Part.fin 2)).job 3 7 ((comA 2 1).rank0 ((comA 2 1).shard (run
      0).pos) + (run 0).added)) two.red.parts)) = [1065353216, 1073741824] ∧
    [1065353216, 1073741824].length = 2 ∧
    2 = sSum ((comA 2 1).shard (run 0).pos) ∧
    0 < 2 ∧
    ([1065353216, 1073741824].all fun (v : W) => Fp.isFinite (Fp.of32 v)) = true ∧
    (∀ q ∈ two.red.parts, partOf (cpk (Part.fin 2)).job 3 7 ((comA 2 1).rank0 ((comA 2 1).shard (run 0).pos) + (run
      0).added + 1) q = false) ∧
    two.hasRange 3 (sRed ((comA 2 1).shard (run 0).pos)) (4 * 2) = true ∧
    (∀ x ∈ two.partReads (List.filter (partOf (cpk (Part.fin 2)).job 3 7 ((comA 2 1).rank0 ((comA 2 1).shard (run 0).pos)
      + (run 0).added)) two.red.parts), two.hasRange x.1 x.2.1 x.2.2 = true) ∧
    two.jobEntry (cpk (Part.fin 2)).job = some ((two.jobEntry (cpk (Part.fin 2)).job).getD { job := 9 }) ∧
    (∀ q ∈ ((two.jobEntry (cpk (Part.fin 2)).job).getD { job := 9 }).steps, q.step < 3 + 64)) ∧
  -- the clause at h.2.2.1
  (twin.findCmd c0 = some (comA 1 1) ∧
    List.find? (fun (r : ShardRun) => r.pos == 0) (twin.runsOf c0) = some (run 1) ∧
    twin.flag F.twinEnable = true ∧
    (run 1).formed = true ∧
    (run 1).own = none ∧
    (comA 1 1).phase = Phase.armed ∧
    twin.isPoisoned (run 1).job (run 1).step = false ∧
    twin.Sound ∧
    sCtype ((comA 1 1).shard 0) ≠ 2 ∧
    (∀ j < denseSegs ((comA 1 1).shard 0), ∀ x ∈ segReads ((comA 1 1).shard 0) j, twin.hasRange x.1 x.2.1 x.2.2 = true) ∧
    twin.jobEntry (run 1).job = some ((twin.jobEntry (run 1).job).getD { job := 9 }) ∧
    (∀ q ∈ ((twin.jobEntry (run 1).job).getD { job := 9 }).steps, q.step < (run 1).step + 64)) ∧
  -- the clause at h.2.2.2
  (dg.body = Body.digest 3 7 5 ∧
    twin.trap = none ∧
    dg.src = twin.fld F.twinPartner ∧
    twin.run? dg.job 3 7 = some ((twin.run? dg.job 3 7).getD (run 0)) ∧
    v4.trap = none ∧
    dg.src = v4.fld F.twinPartner ∧
    v4.run? dg.job 3 7 = none ∧
    v4.stepClosed dg.job 3 = false) := by
  refine ⟨?_, ?_, ?_, ?_⟩ <;> first
    | decide +kernel
    | (simp only [State.Sound, State.Calm, State.LogIn]
       decide +kernel)

end Sys2Proof.Tests.W11

/-! ### Applies, routing banks, quenches -/

namespace Sys2Proof.Tests.W12
open Sys2Proof Sys2Proof.Machine Sys2Proof.Tests

def shard (n : W) : List W := [0x90000000 + n, 7, 1, 2, 0x10000, 0, 0x20000, 0, 0x30000, 0, 0x40000, 0, 0, 0, 0, 0]
def hyper : List W := [0x90000000, 0x3F800000, 0, 0, 0, 0, 0, 0, 0, 0, 0, 0x3F800000, 0, 0, 0, 0]
def com (n max : W) : Cmd := { caps (cmd 0x60 (ptr 0x400 ++ [1] ++ ptr 0x500 ++ [3, 0, 0x00020000 + 256 * max])) [(0x400, shard n), (0x500, hyper)] with flags := 4, t := 5000, job := 9, phase := .running, start := 1 }
def base : State := put up [(F.restoreOk, 1), (F.package, 3), (F.portState 47, 2)]
def c12 : Cmd := com 1 1
def arun : ApplyRun := { engine := 2, cmd := c12, todo := [0], recAt := 0x80000 }
def app : State := { place (place (place (put (withCmds base [c12]) [(⟨Reg.red 0x30, 5, 4⟩, 1)]) 3 0x10000 [0x3F800000, 0x40000000]) 3 0x40000 [0x3F000000, 0x3F000000]) 3 0x20000 [0,0,0,0] with red := { applies := [arun] } }
def efd : List W := tens 1 3 0x60000 [(2, 1)]
def ef1 : EfRec := { job := 9, step := 3, shard := 7, ef := efd, mbuf := 0x70000, rlog := 0, ks := 2, ns := 1, due := true }
def efs : State := { place base 3 0x70000 [0x3F800000, 0x3F800000, 0x3F000000] with red := { efs := [ef1] } }
def segp : Pkt := { type := .mcast, cls := 1, dst := 3, src := 7, job := 9, group := 1, sink := 2, body := .segment 3 0 [1,2,3,4] }
def armd : State := { withCmds base [{ c12 with phase := .armed }] with red := { jobs := [{ job := 9, steps := [{ step := 3 }] }] } }
def cw : CopyWait := { job := 9, step := 3, group := 1, got := [], want := 1, addr := 0x90000 }
def cpy (w : Nat) : State := { place (put base [(⟨Reg.red 0x20, 31, 0⟩, 0x50000)]) 3 0x50010 [0x90000, 0, BitVec.ofNat 32 w] with red := { copies := [{ cw with want := w }] } }
def v1 := { cw with want := 1 }
def v2 := { cw with want := 2 }
def skrun (n : Nat) : ShardRun := { job := 9, step := 3, shard := 7, cmd := c0, pos := 0, added := 1, formed := true, skipped := n }
def dones (n : Nat) : State := { withCmds base [c12] with red := { shards := [skrun n] } }
def v3 := { dones 0 with red := { applies := [arun] } }

def ld : Cmd := caps (cmd 0x90 (ptr 0x400 ++ [1])) [(0x400, tens 7 3 0x20000 [(2192, 1)])]
def okOf (e : Except Status Tensor) : Tensor := match e with | .ok x => x | .error _ => tensorOf [] 0
def stOf (e : Except Status Tensor) : Status := match e with | .ok _ => okStatus | .error e => e
def ldB : Cmd := caps (cmd 0x90 (ptr 0x400 ++ [1])) [(0x400, tens 1 3 0x20000 [(2192, 1)])]
def ldR : Cmd := { ld with phase := .running, start := 1 }
def img (k : W) : State := place (put (one ldR) [(F.rtBank 1, 1), (⟨Reg.fab 0x20, 31, 0⟩, 0x100000)]) 3 0x20000 [k]
def ldS : Cmd := { caps (cmd 0x90 (ptr 0x400 ++ [1])) [(0x400, tens 7 3 0x20000 [(1, 1)])] with phase := .running, start := 1 }
def imgS : State := put (one ldS) [(F.rtBank 1, 1), (⟨Reg.fab 0x20, 31, 0⟩, 0x100000)]
def sw (fl : Nat) : Cmd := { cmd 0x91 [1] with flags := fl, t := if fl = 0 then 0 else 50000, job := 0 }
def swV : Cmd := { sw 4 with job := 9 }
def v4 := { one swV with fab := { vetoes := [(9, 1, 49999)] } }
def v5 := put (one (sw 0)) [(F.rtBank 1, 2), (F.rtBank 0, 1), (F.rtLock, 1)]
def swA (j : Nat) (a : List Nat) : Cmd := { sw 4 with phase := .armed, job := j, aux := a, start := 1 }
def lead (s : State) : State := put s [(F.routeLead, 4)]
def v6 := at_ (lead (put (one (swA 9 [])) [(F.portState 47, 2), (F.package, 3)])) 50000
def veto : Pkt := { type := .notice, cls := 0, dst := 0xFFFF, src := 7, job := 9, seq := 2, sink := 4, body := .notice 0x40000009 1 0 0 }
def v7 := put (one (swA 9 [1])) [(F.portState 47, 2), (F.package, 3), (F.rtLock, 1)]
def v8 := put (one (swA 9 [2])) [(F.portState 47, 2), (F.package, 3), (F.rtLock, 1)]
def swN : Cmd := { sw 0 with phase := .running, start := 1, job := 9 }
def v9 := put (one swN) [(F.portState 47, 2), (F.package, 3), (F.rtLock, 1)]
def swR : Cmd := { sw 0 with phase := .running, start := 1 }
def v10 := put (one swR) [(F.rtBank 1, 3), (F.rtActive, 1), (F.rtBank 0, 4)]
def v11 := { put (one swR) [(F.rtBank 1, 3), (F.rtActive, 1), (F.rtBank 0, 4)] with fab := { inbox := [veto] } }

def qc (w : W) : Cmd := cmd 0x92 [w]
def qs (w : W) (j : Nat) : State := put (one (qc w)) [(F.portState 47, 2), (F.package, 3), (F.quenchJobs, j), (⟨Reg.fab 0x80, 15, 0⟩, 9)]
def v12 := put (qs 0x80000009 1) [(F.quenchPackage, 1), (F.quenchOverflow, 1)]
def qn (w : W) : Pkt := { type := .notice, cls := 0, dst := 0xFFFF, src := 7, job := 9, seq := 2, sink := 4, body := .notice w 2 0 0 }
def qn1 (w : W) : Pkt := { type := .notice, cls := 0, dst := 0xFFFF, src := 7, job := 9, seq := 2, sink := 4, body := .notice w 1 0 0 }
def qst (j : Nat) : State := put (one { cmd 0x62 [] with job := j }) [(F.portState 46, 2), (F.portState 47, 2), (F.package, 3), (F.quenchJobs, 1), (⟨Reg.fab 0x80, 15, 0⟩, 4)]

theorem witness_ApplyWritesItsSegments :
  -- the clause at h.1
  (2 < 16 ∧
    arun.engine = 2 ∧
    app.applyOf 2 = some arun ∧
    (∀ b ∈ app.red.applies, b.engine = 2 → b = arun) ∧
    arun.todo = [0] ∧
    0 < 2 ∧
    app.Sound ∧
    arun.cmd.job < 2 ^ 16 ∧
    arun.cmd.id.ring < 2 ^ 16 ∧
    sCtype (arun.cmd.shard 0) ≠ 2 ∧
    arun.seg < denseSegs (arun.cmd.shard 0) ∧
    arun.seg + 1 < 2 ^ 32 ∧
    (∀ x ∈ [(arun.recAt, 64 + 14 * min 4096 (sParams (arun.cmd.shard 0) - 4096 * arun.seg)), (sMaster (arun.cmd.shard 0) +
      4 * (4096 * arun.seg), 4 * min 4096 (sParams (arun.cmd.shard 0) - 4096 * arun.seg)), (sMom (arun.cmd.shard 0) +
      4 * (4096 * arun.seg), 4 * min 4096 (sParams (arun.cmd.shard 0) - 4096 * arun.seg)), (sMom (arun.cmd.shard 0) +
      4 * (sParams (arun.cmd.shard 0) + 4096 * arun.seg), 4 * min 4096 (sParams (arun.cmd.shard 0) - 4096 *
      arun.seg)), (sWork (arun.cmd.shard 0) + 2 * (4096 * arun.seg), 2 * min 4096 (sParams (arun.cmd.shard 0) - 4096 *
      arun.seg))], x.1 + x.2 ≤ cellarEnd) ∧
    (∀ x ∈ segReads (arun.cmd.shard 0) arun.seg, app.hasRange x.1 x.2.1 x.2.2 = true) ∧
    (List.Pairwise (fun (x y : ℕ × ℕ) => x.1 + x.2 ≤ y.1 ∨ y.1 + y.2 ≤ x.1) [(arun.recAt, 64 + 14 * min 4096 (sParams
      (arun.cmd.shard 0) - 4096 * arun.seg)), (sMaster (arun.cmd.shard 0) + 4 * (4096 * arun.seg), 4 * min 4096
      (sParams (arun.cmd.shard 0) - 4096 * arun.seg)), (sMom (arun.cmd.shard 0) + 4 * (4096 * arun.seg), 4 * min 4096
      (sParams (arun.cmd.shard 0) - 4096 * arun.seg)), (sMom (arun.cmd.shard 0) + 4 * (sParams (arun.cmd.shard 0) +
      4096 * arun.seg), 4 * min 4096 (sParams (arun.cmd.shard 0) - 4096 * arun.seg)), (sWork (arun.cmd.shard 0) + 2 *
      (4096 * arun.seg), 2 * min 4096 (sParams (arun.cmd.shard 0) - 4096 * arun.seg))]) ∧
    (arun.seg + 1 = denseSegs (arun.cmd.shard 0) → ([] : List Nat) = [] ∧ app.flag F.twinEnable = false) ∧
    app.findCmd arun.cmd.id = some ((app.findCmd arun.cmd.id).getD c12)) ∧
  -- the clause at h.2.1
  (List.find? (fun (e : EfRec) => e.due) efs.red.efs = some ef1 ∧
    efs.Sound ∧
    efs.bndBase = 0 ∧
    efs.hasRange 3 ef1.mbuf (4 * (ef1.ks * ef1.ns + ef1.ks * 2 ^ ef1.rlog)) = true ∧
    (tensorOf ef1.ef 0).fmt = 1 ∧
    (tensorOf ef1.ef 0).spread = false ∧
    (tensorOf ef1.ef 0).sparse = false ∧
    (tensorOf ef1.ef 0).count = ef1.ks * ef1.ns ∧
    efs.plain (tensorOf ef1.ef 0) ∧
    efs.hasRange (tensorOf ef1.ef 0).tier (tensorOf ef1.ef 0).base (tensorOf ef1.ef 0).span = true ∧
    (tensorOf ef1.ef 0).tier < 4) ∧
  -- the clause at h.2.2.1
  (base.trap = none ∧
    (∀ e ∈ base.red.efs, e.due = false)) ∧
  -- the clause at h.2.2.2.1
  (segp.body = Body.segment 3 0 [1, 2, 3, 4] ∧
    armd.Sound ∧
    armd.armedCommit segp.job 3 = true ∧
    armd.isPoisoned segp.job 3 = false ∧
    (put base [({ off := Reg.red 32, hi := 31, lo := 0 }, 327680)]).Sound ∧
    (put base [({ off := Reg.red 32, hi := 31, lo := 0 }, 327680)]).armedCommit segp.job 3 = false ∧
    (put base [({ off := Reg.red 32, hi := 31, lo := 0 }, 327680)]).hasRange 3 ((put base [({ off := Reg.red 32, hi := 31, lo := 0 }, 327680)]).groupBase + 16 * segp.group) 16 = true ∧
    ((put base [({ off := Reg.red 32, hi := 31, lo := 0 }, 327680)]).copyEntry segp.group).1 = 0 ∧
    (cpy 1).Sound ∧
    (cpy 1).armedCommit segp.job 3 = false ∧
    (cpy 1).hasRange 3 ((cpy 1).groupBase + 16 * segp.group) 16 = true ∧
    ((cpy 1).copyEntry segp.group).1 ≠ 0 ∧
    (cpy 1).red.copies = [v1] ∧
    v1.job = segp.job ∧
    v1.step = 3 ∧
    v1.group = segp.group ∧
    0 ∉ v1.got ∧
    (cpy 1).hasRange 3 (((cpy 1).copyEntry segp.group).1 + 8192 * 0) [1, 2, 3, 4].length = true ∧
    (cpy 2).Sound ∧
    (cpy 2).armedCommit segp.job 3 = false ∧
    (cpy 2).hasRange 3 ((cpy 2).groupBase + 16 * segp.group) 16 = true ∧
    ((cpy 2).copyEntry segp.group).1 ≠ 0 ∧
    (cpy 2).red.copies = [v2] ∧
    v2.job = segp.job ∧
    v2.step = 3 ∧
    v2.group = segp.group ∧
    0 ∉ v2.got ∧
    (cpy 2).hasRange 3 (((cpy 2).copyEntry segp.group).1 + 8192 * 0) [1, 2, 3, 4].length = true) ∧
  -- the clause at h.2.2.2.2
  ((dones 0).findCmd c0 = some c12 ∧
    c12.opcode = 96 ∧
    c12.phase = Phase.running ∧
    (dones 0).CanEnd c0 ∧
    (dones 0).safe.ckptReq = false ∧
    (dones 0).commitDone c12 = true ∧
    (dones 0).fab.prunes = [] ∧
    (∀ r ∈ (dones 0).runsOf c0, r.skipped = 0) ∧
    (dones 2).findCmd c0 = some c12 ∧
    (dones 2).CanEnd c0 ∧
    (dones 2).safe.ckptReq = false ∧
    (dones 2).commitDone c12 = true ∧
    (dones 2).fab.prunes = [] ∧
    v3.findCmd c0 = some c12 ∧
    v3.CanEnd c0 ∧
    v3.safe.ckptReq = false ∧
    v3.commitDone c12 = false) := by
  refine ⟨?_, ?_, ?_, ?_, ?_⟩ <;> first
    | decide +kernel
    | (simp only [State.CanEnd, State.Sound, State.EndsBare]
       decide +kernel)
    | (and_intros <;> first
        | decide +kernel
        | (simp only [State.CanEnd, State.Sound, State.EndsBare]
           decide +kernel)
        | exact State.plain_of_line _ _ (by decide +kernel) (by decide +kernel) (by decide +kernel) (by decide +kernel) (by decide +kernel)
        | (rw [State.plain_iff]; decide +kernel))

theorem ofLe_zeros (n : Nat) : ofLe (List.replicate n 0) = 0 := by
  induction n with
  | zero => rfl
  | succ n ih =>
    rw [List.replicate_succ]
    show (0 : Byte).toNat + 256 * ofLe (List.replicate n 0) = 0
    rw [ih]; rfl

/-- A bank image of zeros after its kind passes its check. -/
theorem imageOk_zeros (n : Nat) (h : 8764 ≤ n) : imageOk (0 :: 0 :: 0 :: 0xB0 :: List.replicate n 0) = true := by
  have a : ∀ o k, 4 ≤ o → ofLe (((0 :: 0 :: 0 :: 0xB0 :: List.replicate n 0 : List Byte).drop o).take k) = 0 := by
    intro o k ho
    obtain ⟨j, rfl⟩ : ∃ j, o = j + 4 := ⟨o - 4, by omega⟩
    simp only [List.drop_succ_cons, List.drop_replicate, List.take_replicate, ofLe_zeros]
  have b : ofLe (((0 :: 0 :: 0 :: 0xB0 :: List.replicate n 0 : List Byte).drop 0).take 4) = 0xB * 2 ^ 28 := by
    simp only [List.drop_zero, List.take_succ_cons, List.take_zero]; decide
  have l : (0 :: 0 :: 0 :: 0xB0 :: List.replicate n 0 : List Byte).length = n + 4 := by simp
  have d : decide (8768 + 8 * 0 ≤ n + 4) = true := decide_eq_true (by omega)
  have e : ∀ i, ofLe (((0 :: 0 :: 0 :: 0xB0 :: List.replicate n 0 : List Byte).drop (64 + 8 * i + 6)).take 2) = 0 :=
    fun i => a _ _ (by omega)
  have f : ∀ i, ofLe (((0 :: 0 :: 0 :: 0xB0 :: List.replicate n 0 : List Byte).drop (576 + 2 * i)).take 2) = 0 :=
    fun i => a _ _ (by omega)
  unfold imageOk
  simp only [b, l, a 4 4 (by omega), a 8 56 (by omega), d, e, f]
  simp

theorem img_bytes : (List.flatMap (fun (e : List Nat) => leBytes 4 ((img 2952790016).elemBits (okOf ((one ld).routeArg ld)) e))
    ((okOf ((one ld).routeArg ld)).run 0 (okOf ((one ld).routeArg ld)).count)) =
    0 :: 0 :: 0 :: 0xB0 :: List.replicate 8764 0 := by decide +kernel

theorem img_ok : imageOk (List.flatMap (fun (e : List Nat) => leBytes 4 ((img 2952790016).elemBits (okOf ((one ld).routeArg ld)) e))
    ((okOf ((one ld).routeArg ld)).run 0 (okOf ((one ld).routeArg ld)).count)) = true := by
  rw [img_bytes]; exact imageOk_zeros _ (Nat.le_refl _)

theorem witness_RoutingBanksLoadAndSwitch :
  -- the clause at h.1
  ((one ld).Runs c0 144 ld ∧
    (put (one ld) [(F.rtBank 1, 3)]).Runs c0 144 ld ∧
    (put (one ld) [(F.rtBank 1, 2), (F.rtLock, 1)]).Runs c0 144 ld ∧
    (put (one ld) [(F.rtBank 1, 2)]).Runs c0 144 ld) ∧
  -- the clause at h.1
  ((one ldB).Runs c0 144 ldB) ∧
  -- the clause at h.2.1
  (1 < 2 ∧
    (img 2952790016).fab.banks.length = 2 ∧
    (img 2952790016).bankState 1 = Bank.loading ∧
    List.find? (fun (o : Cmd) => o.opcode == 144 && o.phase == Phase.running && o.bits 6 0 0 == 1) (img 2952790016).cmds =
      some ldR ∧
    (img 2952790016).findCmd ldR.id = some ldR ∧
    (img 2952790016).routeArg ldR = Except.ok (okOf ((one ld).routeArg ld)) ∧
    (img 2952790016).CanEnd ldR.id ∧
    ((img 2952790016).touchElems (okOf ((one ld).routeArg ld)) ((okOf ((one ld).routeArg ld)).run 0 (okOf ((one
      ld).routeArg ld)).count)).1.trap = none ∧
    imageOk (List.flatMap (fun (e : List ℕ) => leBytes 4 ((img 2952790016).elemBits (okOf ((one ld).routeArg ld)) e))
      ((okOf ((one ld).routeArg ld)).run 0 (okOf ((one ld).routeArg ld)).count)) = true ∧
    (img 2952790016).clearOf ldR.id ((img 2952790016).bankRegion 1) (8768 + 8 * ofLe (List.take 4 (List.drop 4
      (List.flatMap (fun (e : List ℕ) => leBytes 4 ((img 2952790016).elemBits (okOf ((one ld).routeArg ld)) e)) ((okOf
      ((one ld).routeArg ld)).run 0 (okOf ((one ld).routeArg ld)).count))))) ∧
    imgS.fab.banks.length = 2 ∧
    imgS.bankState 1 = Bank.loading ∧
    List.find? (fun (o : Cmd) => o.opcode == 144 && o.phase == Phase.running && o.bits 6 0 0 == 1) imgS.cmds = some ldS ∧
    imgS.findCmd ldS.id = some ldS ∧
    imgS.routeArg ldS = Except.ok (okOf ((one ldS).routeArg ldS)) ∧
    imgS.CanEnd ldS.id ∧
    (imgS.touchElems (okOf ((one ldS).routeArg ldS)) ((okOf ((one ldS).routeArg ldS)).run 0 (okOf ((one ldS).routeArg
      ldS)).count)).1.trap = none ∧
    imageOk (List.flatMap (fun (e : List ℕ) => leBytes 4 (imgS.elemBits (okOf ((one ldS).routeArg ldS)) e)) ((okOf ((one
      ldS).routeArg ldS)).run 0 (okOf ((one ldS).routeArg ldS)).count)) = false) ∧
  -- the clause at h.2.2.1
  ((one (sw 4)).runnable c0 145 = some (sw 4) ∧
    (sw 4).sched = true ∧
    (one (sw 4)).routeVetoed (sw 4) = false ∧
    (one (sw 4)).trap = none ∧
    v4.runnable c0 145 = some swV ∧
    swV.sched = true) ∧
  -- the clause at h.2.2.2.1
  ((put (one (sw 0)) [(F.rtBank 1, 2), (F.rtBank 0, 3)]).Runs c0 145 (sw 0) ∧
    (sw 0).sched = false ∧
    (put (one (sw 0)) [(F.rtBank 1, 2), (F.rtBank 0, 3)]).bankState ((sw 0).bits 4 0 0) = Bank.standby ∧
    (put (one (sw 0)) [(F.rtBank 1, 2), (F.rtBank 0, 3)]).bankState (1 - (sw 0).bits 4 0 0) = Bank.active ∧
    v5.Runs c0 145 (sw 0) ∧
    v5.bankState ((sw 0).bits 4 0 0) = Bank.standby ∧
    v5.bankState (1 - (sw 0).bits 4 0 0) ≠ Bank.active ∧
    v5.bankState (1 - (sw 0).bits 4 0 0) ≠ Bank.retiring ∧
    (one (sw 0)).Runs c0 145 (sw 0) ∧
    (one (sw 0)).bankState ((sw 0).bits 4 0 0) ≠ Bank.standby) ∧
  -- the clause at h.2.2.2.2.1
  ((at_ (lead (one (swA 0 []))) 24999).findCmd c0 = some (swA 0 []) ∧
    (swA 0 []).opcode = 145 ∧
    (swA 0 []).phase = Phase.armed ∧
    (swA 0 []).aux = [] ∧
    (at_ (lead (one (swA 0 []))) 24999).tb.stime + (at_ (lead (one (swA 0 []))) 24999).routeLead < (swA 0 []).t ∧
    (at_ (lead (one (swA 0 []))) 24999).trap = none ∧
    (at_ (lead (put (one (swA 0 [])) [(F.rtBank 1, 2)])) 25000).findCmd c0 = some (swA 0 []) ∧
    (swA 0 []).t ≤ (at_ (lead (put (one (swA 0 [])) [(F.rtBank 1, 2)])) 25000).tb.stime + (at_ (lead (put (one (swA 0 []))
      [(F.rtBank 1, 2)])) 25000).routeLead ∧
    (at_ (lead (put (one (swA 0 [])) [(F.rtBank 1, 2)])) 25000).bankState ((swA 0 []).bits 4 0 0) = Bank.standby ∧
    (at_ (lead (put (one (swA 0 [])) [(F.rtBank 1, 2)])) 25000).trap = none ∧
    (at_ (lead (one (swA 0 []))) 49999).findCmd c0 = some (swA 0 []) ∧
    (swA 0 []).t ≤ (at_ (lead (one (swA 0 []))) 49999).tb.stime + (at_ (lead (one (swA 0 []))) 49999).routeLead ∧
    (at_ (lead (one (swA 0 []))) 49999).bankState ((swA 0 []).bits 4 0 0) ≠ Bank.standby ∧
    (swA 0 []).job = 0 ∧
    (at_ (lead (one (swA 0 []))) 49999).trap = none ∧
    v6.findCmd c0 = some (swA 9 []) ∧
    (swA 9 []).opcode = 145 ∧
    (swA 9 []).phase = Phase.armed ∧
    (swA 9 []).aux = [] ∧
    (swA 9 []).t ≤ v6.tb.stime + v6.routeLead ∧
    v6.bankState ((swA 9 []).bits 4 0 0) ≠ Bank.standby ∧
    (swA 9 []).job ≠ 0 ∧
    v6.CanEnd c0 ∧
    v6.noticeRoom = true) ∧
  -- the clause at h.2.2.2.2.2.1
  (veto.body = Body.notice 1073741833 1 0 0 ∧
    veto.job ≠ 0 ∧
    (∀ q ∈ v7.fab.seen, v7.tb.stime < q.2.2 + 1000000 → q.1 = veto.src → q.2.1 ≠ veto.seq) ∧
    (∀ q ∈ v8.fab.seen, v8.tb.stime < q.2.2 + 1000000 → q.1 = veto.src → q.2.1 ≠ veto.seq) ∧
    (∀ q ∈ v9.fab.seen, v9.tb.stime < q.2.2 + 1000000 → q.1 = veto.src → q.2.1 ≠ veto.seq) ∧
    List.filter (fun (m : Cmd) => m.opcode == 145 && m.phase == Phase.armed && m.job == veto.job && m.bits 4 0 0 == bits 1
      0 0) v9.cmds = [] ∧
    (∃ o ∈ v9.cmds, o.job = veto.job) ∧
    v9.trap = none) ∧
  -- the clause at h.2.2.2.2.2.2
  (0 < 2 ∧
    (v11.bankState 0 ≠ Bank.retiring ∨ v11.inflight 0 ≠ 0) ∧
    v11.trap = none ∧
    1 < 2 ∧
    (v11.bankState 1 ≠ Bank.retiring ∨ v11.inflight 1 ≠ 0)) := by
  and_intros <;> first
    | with_reducible exact img_ok
    | decide +kernel
    | (simp only [State.Runs, State.CanEnd, State.Sound, State.clearOf, State.EndsBare]
       decide +kernel)

theorem witness_QuenchHoldsItsScope :
  -- the clause at h.1
  ((qs 196617 0).Runs c0 146 (qc 196617) ∧
    (qs 196617 0).fab.outq = [] ∧
    (∀ o ∈ (qs 196617 0).cmds, o.opcode ≠ 147 ∧ o.ops = []) ∧
    (qc 196617).bits 4 17 16 = 3 ∧
    (qs 9 1).Runs c0 146 (qc 9) ∧
    (qs 9 1).fab.outq = [] ∧
    (∀ o ∈ (qs 9 1).cmds, o.opcode ≠ 147 ∧ o.ops = []) ∧
    (qc 9).bits 4 17 16 ≠ 3 ∧
    (qc 9).bits 4 17 16 = 0 ∧
    (qc 9).bits 4 31 31 = 0 ∧
    v12.Runs c0 146 (qc 2147483657) ∧
    v12.fab.outq = [] ∧
    (∀ o ∈ v12.cmds, o.opcode ≠ 147 ∧ o.ops = []) ∧
    (qc 2147483657).bits 4 17 16 ≠ 3 ∧
    (qc 2147483657).bits 4 17 16 = 0 ∧
    (qc 2147483657).bits 4 31 31 = 1 ∧
    (qs 65544 1).Runs c0 146 (qc 65544) ∧
    (qs 65544 1).fab.outq = [] ∧
    (∀ o ∈ (qs 65544 1).cmds, o.opcode ≠ 147 ∧ o.ops = []) ∧
    (qc 65544).bits 4 17 16 ≠ 3 ∧
    (qc 65544).bits 4 17 16 = 1 ∧
    (qc 65544).bits 4 31 31 = 0 ∧
    (qs 65544 1).quenchedJobs.length < 16 ∧
    ((qc 65544).bits 4 17 16 = 1 ∨ (qc 65544).bits 4 17 16 = 2) ∧
    (qs 65544 1).noticeRoom = true ∧
    (qs 2147549193 1).Runs c0 146 (qc 2147549193) ∧
    (qs 2147549193 1).fab.outq = [] ∧
    (∀ o ∈ (qs 2147549193 1).cmds, o.opcode ≠ 147 ∧ o.ops = []) ∧
    (qc 2147549193).bits 4 17 16 ≠ 3 ∧
    (qc 2147549193).bits 4 17 16 = 1 ∧
    (qc 2147549193).bits 4 31 31 = 1 ∧
    (qs 2147549193 1).quenchedJobs.length ≤ 16 ∧
    ((qc 2147549193).bits 4 17 16 = 1 ∨ (qc 2147549193).bits 4 17 16 = 2) ∧
    (qs 2147549193 1).noticeRoom = true ∧
    (qs 131072 0).Runs c0 146 (qc 131072) ∧
    (qs 131072 0).fab.outq = [] ∧
    (∀ o ∈ (qs 131072 0).cmds, o.opcode ≠ 147 ∧ o.ops = []) ∧
    (qc 131072).bits 4 17 16 ≠ 3 ∧
    (qc 131072).bits 4 17 16 = 2 ∧
    ((qc 131072).bits 4 17 16 = 1 ∨ (qc 131072).bits 4 17 16 = 2) ∧
    (qs 131072 0).noticeRoom = true ∧
    (qs 2147614720 0).Runs c0 146 (qc 2147614720) ∧
    (qs 2147614720 0).fab.outq = [] ∧
    (∀ o ∈ (qs 2147614720 0).cmds, o.opcode ≠ 147 ∧ o.ops = []) ∧
    (qc 2147614720).bits 4 17 16 ≠ 3 ∧
    (qc 2147614720).bits 4 17 16 = 2 ∧
    ((qc 2147614720).bits 4 17 16 = 1 ∨ (qc 2147614720).bits 4 17 16 = 2) ∧
    (qs 2147614720 0).noticeRoom = true) ∧
  -- the clause at h.2
  ((qn 1627389961).body = Body.notice 1627389961 2 0 0 ∧
    (qst 9).trap = none ∧
    (qst 9).fab.outq = [] ∧
    (∀ o ∈ (qst 9).cmds, o.opcode ≠ 147 ∧ o.ops = []) ∧
    (qst 9).quenchedJobs.length < 16 ∧
    (∀ q ∈ (qst 9).fab.seen, (qst 9).tb.stime < q.2.2 + 1000000 → q.1 = (qn 1627389961).src → q.2.1 ≠ (qn 1627389961).seq) ∧
    bits 2 1 0 = 2 ∧
    (qn 1610612745).body = Body.notice 1610612745 2 0 0 ∧
    (∀ q ∈ (qst 9).fab.seen, (qst 9).tb.stime < q.2.2 + 1000000 → q.1 = (qn 1610612745).src → q.2.1 ≠ (qn 1610612745).seq) ∧
    (qn1 1627389961).body = Body.notice 1627389961 1 0 0 ∧
    (∀ q ∈ (qst 9).fab.seen, (qst 9).tb.stime < q.2.2 + 1000000 → q.1 = (qn1 1627389961).src → q.2.1 ≠ (qn1
      1627389961).seq) ∧
    bits 1 1 0 = 1 ∧
    (∃ o ∈ (qst 9).cmds, o.job = (qn1 1627389961).job) ∧
    bits 1627389961 27 24 ≠ 0 ∧
    (qn1 1627389961).job < 2 ^ 16 ∧
    (qn1 1610612745).body = Body.notice 1610612745 1 0 0 ∧
    (∀ q ∈ (qst 9).fab.seen, (qst 9).tb.stime < q.2.2 + 1000000 → q.1 = (qn1 1610612745).src → q.2.1 ≠ (qn1
      1610612745).seq) ∧
    (∃ o ∈ (qst 9).cmds, o.job = (qn1 1610612745).job) ∧
    bits 1610612745 27 24 = 0 ∧
    (qst 7).trap = none ∧
    (qst 7).fab.outq = [] ∧
    (∀ o ∈ (qst 7).cmds, o.opcode ≠ 147 ∧ o.ops = []) ∧
    (qst 7).quenchedJobs.length < 16 ∧
    (∀ q ∈ (qst 7).fab.seen, (qst 7).tb.stime < q.2.2 + 1000000 → q.1 = (qn1 1610612745).src → q.2.1 ≠ (qn1
      1610612745).seq) ∧
    (∀ o ∈ (qst 7).cmds, o.job ≠ (qn1 1610612745).job)) := by
  refine ⟨?_, ?_⟩ <;> first
    | decide +kernel
    | (simp only [State.Runs, State.CanEnd, State.Sound, State.EndsBare]
       decide +kernel)

end Sys2Proof.Tests.W12

/-! ### Transfers and congestion maps -/

namespace Sys2Proof.Tests.W13
open Sys2Proof Sys2Proof.Machine Sys2Proof.Tests

def okOf (e : Except Status Tensor) : Tensor := match e with | .ok x => x | .error _ => tensorOf [] 0
def stOf (e : Except Status Tensor) : Status := match e with | .ok _ => okStatus | .error e => e
def tx (fmt n : Nat) : List W := tens fmt 3 0x20000 [(n, 1)]
def snd (fmt n : Nat) : Cmd := caps (cmd 0x93 (ptr 0x400 ++ [0x00070000, 0x55])) [(0x400, tx fmt n)]
def rcv (fmt n : Nat) : Cmd := caps (cmd 0x94 (ptr 0x400 ++ [0x00070000, 0x55])) [(0x400, tx fmt n)]
def net (m : Cmd) : State := put (one m) [(F.package, 3), (F.portState 47, 2)]
def xs (fmt n : Nat) : Tensor := okOf ((one (snd fmt n)).tensorArg (snd fmt n) 4)
def hx (n : Nat) : HeldXfer := { src := 7, tag := 0x55, fmt := 1, bytes := n, ring := 1, seq := 2, job := 9 }
def old : Cmd := { rcv 1 4 with id := ⟨1, 9⟩, order := 0, phase := .running }
def r1 : Cmd := { rcv 1 4 with order := 1 }
def v1 := { net r1 with cmds := [old, r1] }
def v2 := { net r1 with fab := { held := [hx 8] } }
def rr : Cmd := { rcv 1 4 with phase := .running, aux := [0], start := 1 }
def rq (fmt n : Nat) : Pkt := { type := .request, cls := 2, dst := 3, src := 7, job := 9, ring := 1, seq := 2, sink := 0, len := 16, body := .xferReq 0x55 fmt n }
def v3 := { put up [(F.package, 3)] with fab := { held := List.replicate 256 (hx 1) } }
def sr : Cmd := { snd 1 4 with phase := .running, aux := [0], start := 1 }
def rp (v : XVerdict) : Pkt := { type := .response, cls := 3, dst := 3, src := 7, job := 0, ring := 0, seq := 5, sink := 0, len := 16, body := .xferReply 0x55 v }
def sr3 : Cmd := { snd 1 1030 with phase := .running, aux := [0], start := 1 }
def srB : Cmd := { sr with aux := [1, 100] }
def rw (a : List Nat) : Cmd := { rr with aux := a }
def dt (off : Nat) (bs : List Byte) : Pkt := { type := .write, cls := 3, dst := 3, src := 7, job := 9, ring := 1, seq := 2, sink := 0, len := 16, body := .xferData 0x55 off bs }
def rwL : Cmd := { rcv 1 1030 with phase := .running, aux := [1], start := 1 }
def ports48 : List PortX := List.replicate 47 ({ signal := false } : PortX) ++ [{ sent := 5000, recv := 6000, peak := 7, vias := 8, wait := [1,2,3,4] }]
def cm48 : State := { put up [(F.cmapWindow, 3)] with fab := { ports := ports48, cmapAt := 100, waits := [(47, 1, 3000), (2, 3, 3050)] } }
def ct : List W := tens 7 3 0x20000 [(400, 1)]
def cr (p : W) : Cmd := caps (cmd 0x95 ([p] ++ ptr 0x400)) [(0x400, ct)]
def cx (p : W) : Tensor := okOf ((one (cr p)).cmapArg (cr p))
def crR : Cmd := { cr 7 with phase := .running, start := 1 }
def cbs : List Byte := List.replicate 800 0x5A ++ List.replicate 800 0xA5
def cp : Pkt := { type := .response, cls := 3, dst := 3, src := 7, job := 0, ring := 0, seq := 5, sink := 6, len := 1600, body := .cmapResp cbs }
def v4 := stOf ((net (cmd 0x95 ([7] ++ ptr 0x400))).cmapArg (cmd 0x95 ([7] ++ ptr 0x400)))
def cq : Pkt := { type := .request, cls := 2, dst := 3, src := 7, job := 0, ring := 0, seq := 5, sink := 6, len := 0, body := .cmapReq }

theorem witness_TransfersAndCongestionMaps :
  -- the clause at h.1.1
  ((net (snd 1 4)).Runs c0 147 (snd 1 4) ∧
    (net (cmd 147 (ptr 1024 ++ [458752, 85]))).Runs c0 147 (cmd 147 (ptr 1024 ++ [458752, 85]))) ∧
  -- the clause at h.1.2.1
  (v1.Runs c0 148 r1 ∧
    v1.tensorArg r1 4 = Except.ok (xs 1 4) ∧
    (∃ o ∈ v1.cmds, o.order < r1.order ∧ o.receives (r1.bits 6 31 16) (r1.words.getD 7 0) = true) ∧
    (net r1).Runs c0 148 r1 ∧
    (net r1).tensorArg r1 4 = Except.ok (xs 1 4) ∧
    (∀ o ∈ (net r1).cmds, o.order < r1.order → o.receives (r1.bits 6 31 16) (r1.words.getD 7 0) = false) ∧
    (∀ q ∈ (net r1).fab.held, q.src = r1.bits 6 31 16 → q.tag ≠ r1.words.getD 7 0) ∧
    v2.Runs c0 148 r1 ∧
    v2.tensorArg r1 4 = Except.ok (xs 1 4) ∧
    (∀ o ∈ v2.cmds, o.order < r1.order → o.receives (r1.bits 6 31 16) (r1.words.getD 7 0) = false) ∧
    List.find? (fun (q : HeldXfer) => q.src == r1.bits 6 31 16 && q.tag == r1.words.getD 7 0) v2.fab.held = some
      ((List.find? (fun (q : HeldXfer) => q.src == r1.bits 6 31 16 && q.tag == r1.words.getD 7 0) v2.fab.held).getD
      (hx 8)) ∧
    ((List.find? (fun (q : HeldXfer) => q.src == r1.bits 6 31 16 && q.tag == r1.words.getD 7 0) v2.fab.held).getD (hx
      8)).fmt = (xs 1 4).fmt ∧
    ((List.find? (fun (q : HeldXfer) => q.src == r1.bits 6 31 16 && q.tag == r1.words.getD 7 0) v2.fab.held).getD (hx
      8)).bytes = xferLen (xs 1 4) ∧
    0 < xferLen (xs 1 4)) ∧
  -- the clause at h.1.2.2.1
  ((rq 1 8).body = Body.xferReq 85 1 8 ∧
    (net rr).trap = none ∧
    (rq 1 6).body = Body.xferReq 85 1 6 ∧
    (rq 0 8).body = Body.xferReq 85 0 8 ∧
    (put up [(F.package, 3)]).trap = none ∧
    (∀ m ∈ (put up [(F.package, 3)]).cmds, (m.receives (rq 0 8).src 85 && m.phase == Phase.running && m.aux == [0]) =
      false) ∧
    (put up [(F.package, 3)]).fab.held.length < 256 ∧
    v3.trap = none ∧
    (∀ m ∈ v3.cmds, (m.receives (rq 0 8).src 85 && m.phase == Phase.running && m.aux == [0]) = false) ∧
    256 ≤ v3.fab.held.length) ∧
  -- the clause at h.1.2.2.2.1
  ((rp XVerdict.go).body = Body.xferReply 85 XVerdict.go ∧
    (place (net sr) 3 131072 [287454020]).findCmd { ring := (rp XVerdict.go).ring, seq := (rp XVerdict.go).seq } = some sr ∧
    sr.opcode = 147 ∧
    sr.phase = Phase.running ∧
    sr.aux = [0] ∧
    (place (net sr) 3 131072 [287454020]).tensorArg sr 4 = Except.ok (xs 1 4) ∧
    (place (net sr) 3 131072 [287454020]).CanEnd sr.id ∧
    ((place (net sr) 3 131072 [287454020]).touchElems (xs 1 4) ((xs 1 4).run 0 (xs 1 4).count)).1.trap = none ∧
    0 < ((place (net sr) 3 131072 [287454020]).elemStream (xs 1 4) 0 (xs 1 4).count ++ (place (net sr) 3 131072
      [287454020]).scaleStream (xs 1 4)).length ∧
    (rp XVerdict.busy).body = Body.xferReply 85 XVerdict.busy ∧
    (net sr).findCmd { ring := (rp XVerdict.busy).ring, seq := (rp XVerdict.busy).seq } = some sr ∧
    (net sr).tensorArg sr 4 = Except.ok (xs 1 4) ∧
    (net sr).CanEnd sr.id ∧
    (rp XVerdict.formatDiffers).body = Body.xferReply 85 XVerdict.formatDiffers ∧
    (net sr).findCmd { ring := (rp XVerdict.formatDiffers).ring, seq := (rp XVerdict.formatDiffers).seq } = some sr ∧
    (rp XVerdict.countDiffers).body = Body.xferReply 85 XVerdict.countDiffers ∧
    (net sr).findCmd { ring := (rp XVerdict.countDiffers).ring, seq := (rp XVerdict.countDiffers).seq } = some sr ∧
    (place (net sr3) 3 131072 [287454020]).findCmd { ring := (rp XVerdict.go).ring, seq := (rp XVerdict.go).seq } = some sr3 ∧
    sr3.opcode = 147 ∧
    sr3.phase = Phase.running ∧
    sr3.aux = [0] ∧
    (place (net sr3) 3 131072 [287454020]).tensorArg sr3 4 = Except.ok (xs 1 1030) ∧
    (place (net sr3) 3 131072 [287454020]).CanEnd sr3.id ∧
    ((place (net sr3) 3 131072 [287454020]).touchElems (xs 1 1030) ((xs 1 1030).run 0 (xs 1 1030).count)).1.trap = none ∧
    0 < ((place (net sr3) 3 131072 [287454020]).elemStream (xs 1 1030) 0 (xs 1 1030).count ++ (place (net sr3) 3 131072
      [287454020]).scaleStream (xs 1 1030)).length) ∧
  -- the clause at h.1.2.2.2.2.1
  ((at_ (net srB) 10099).findCmd c0 = some srB ∧
    srB.opcode = 147 ∧
    srB.phase = Phase.running ∧
    srB.aux = [1, 100] ∧
    (at_ (net srB) 10099).tensorArg srB 4 = Except.ok (xs 1 4) ∧
    (at_ (net srB) 10099).trap = none ∧
    (at_ (net srB) 10099).tb.stime < 100 + 10000 ∧
    (at_ (net srB) 10100).findCmd c0 = some srB ∧
    (at_ (net srB) 10100).tensorArg srB 4 = Except.ok (xs 1 4) ∧
    (at_ (net srB) 10100).trap = none ∧
    100 + 10000 ≤ (at_ (net srB) 10100).tb.stime) ∧
  -- the clause at h.1.2.2.2.2.2
  ((dt 0 [1, 2, 3, 4, 5, 6, 7, 8]).body = Body.xferData 85 0 [1, 2, 3, 4, 5, 6, 7, 8] ∧
    List.find? (fun (m : Cmd) => m.receives (dt 0 [1, 2, 3, 4, 5, 6, 7, 8]).src 85 && m.phase == Phase.running &&
      m.aux.getD 0 0 == 1) (net (rw [1])).cmds = some (rw [1]) ∧
    (net (rw [1])).findCmd (rw [1]).id = some (rw [1]) ∧
    (net (rw [1])).tensorArg (rw [1]) 4 = Except.ok (xs 1 4) ∧
    (net (rw [1])).CanEnd (rw [1]).id ∧
    isMx (xs 1 4).fmt = false ∧
    (rw [1]).aux = [1] ∧
    0 + [1, 2, 3, 4, 5, 6, 7, 8].length ≤ (xs 1 4).byteCount ∧
    (net (rw [1])).apart (rw [1]).id (xs 1 4) ∧
    (net (rw [1])).plain (xs 1 4) ∧
    (xs 1 4).tier < 4 ∧
    (xs 1 4).byteCount = Fp.width (xs 1 4).fmt / 8 * (xs 1 4).count ∧
    0 < Fp.width (xs 1 4).fmt / 8 ∧
    0 % (Fp.width (xs 1 4).fmt / 8) = 0 ∧
    [1, 2, 3, 4, 5, 6, 7, 8].length % (Fp.width (xs 1 4).fmt / 8) = 0 ∧
    0 < [1, 2, 3, 4, 5, 6, 7, 8].length ∧
    upDiv (xs 1 4).byteCount 2048 = 1 ∧
    List.find? (fun (m : Cmd) => m.receives (dt 0 [1, 2, 3, 4, 5, 6, 7, 8]).src 85 && m.phase == Phase.running &&
      m.aux.getD 0 0 == 1) (net (rw [1, 0])).cmds = some (rw [1, 0]) ∧
    (net (rw [1, 0])).findCmd (rw [1, 0]).id = some (rw [1, 0]) ∧
    (net (rw [1, 0])).tensorArg (rw [1, 0]) 4 = Except.ok (xs 1 4) ∧
    (net (rw [1, 0])).CanEnd (rw [1, 0]).id ∧
    0 ∈ List.drop 1 (rw [1, 0]).aux ∧
    (dt 2048 [1, 2, 3, 4, 5, 6, 7, 8]).body = Body.xferData 85 2048 [1, 2, 3, 4, 5, 6, 7, 8] ∧
    List.find? (fun (m : Cmd) => m.receives (dt 2048 [1, 2, 3, 4, 5, 6, 7, 8]).src 85 && m.phase == Phase.running &&
      m.aux.getD 0 0 == 1) (net rwL).cmds = some rwL ∧
    (net rwL).findCmd rwL.id = some rwL ∧
    (net rwL).tensorArg rwL 4 = Except.ok (xs 1 1030) ∧
    (net rwL).CanEnd rwL.id ∧
    isMx (xs 1 1030).fmt = false ∧
    rwL.aux = [1] ∧
    2048 + [1, 2, 3, 4, 5, 6, 7, 8].length ≤ (xs 1 1030).byteCount ∧
    (net rwL).apart rwL.id (xs 1 1030) ∧
    (net rwL).plain (xs 1 1030) ∧
    (xs 1 1030).tier < 4 ∧
    (xs 1 1030).byteCount = Fp.width (xs 1 1030).fmt / 8 * (xs 1 1030).count ∧
    0 < Fp.width (xs 1 1030).fmt / 8 ∧
    2048 % (Fp.width (xs 1 1030).fmt / 8) = 0 ∧
    [1, 2, 3, 4, 5, 6, 7, 8].length % (Fp.width (xs 1 1030).fmt / 8) = 0 ∧
    upDiv (xs 1 1030).byteCount 2048 ≠ 1) ∧
  -- the clause at h.2.1
  ((at_ cm48 3099).trap = none ∧
    (at_ cm48 3099).fab.ports.length = 48 ∧
    (∀ x ∈ (at_ cm48 3099).fab.ports, x.wait.length = 4) ∧
    (at_ cm48 3099).tb.stime < (at_ cm48 3099).fab.cmapAt + 1000 * max 1 ((at_ cm48 3099).fld F.cmapWindow) ∧
    (at_ cm48 3100).trap = none ∧
    (at_ cm48 3100).fab.ports.length = 48 ∧
    (∀ x ∈ (at_ cm48 3100).fab.ports, x.wait.length = 4) ∧
    (at_ cm48 3100).fab.cmapAt + 1000 * max 1 ((at_ cm48 3100).fld F.cmapWindow) ≤ (at_ cm48 3100).tb.stime) ∧
  -- the clause at h.2.2.1
  ((net (cr 3)).findCmd c0 = some (cr 3) ∧
    (net (cr 3)).CanEnd c0 ∧
    (Instr.cmapRead c0 = Instr.cmapRead c0 ∧ (net (cr 3)).runnable c0 149 = some (cr 3) ∧ (cr 3).bits 4 15 0 = (net (cr 3)).pkg ∧ (net (cr 3)).cmapBytes = (net (cr 3)).cmapBytes ∨ ∃ (p : Pkt), Instr.cmapRead c0 = Instr.cmapResponsePacket p ∧ c0 = { ring := p.ring, seq := p.seq } ∧ p.body = Body.cmapResp (net (cr 3)).cmapBytes ∧ (cr 3).opcode = 149 ∧ (cr 3).phase = Phase.running ∧ (cr 3).start ≠ 0 ∧ (cr 3).bits 4 15 0 = p.src ∧ (net (cr 3)).cmapBytes.length = 1600) ∧
    (net (cr 3)).cmapArg (cr 3) = Except.ok (cx 3) ∧
    (net (cr 3)).apart c0 (cx 3) ∧
    (net (cr 3)).plain (cx 3) ∧
    (cx 3).tier < 4 ∧
    (net crR).findCmd c0 = some crR ∧
    (net crR).CanEnd c0 ∧
    (net crR).cmapArg crR = Except.ok (cx 7) ∧
    (net crR).apart c0 (cx 7) ∧
    (net crR).plain (cx 7) ∧
    (cx 7).tier < 4) ∧
  -- the clause at h.2.2.2.1
  ((net (cr 7)).Runs c0 149 (cr 7) ∧
    (net (cr 7)).cmapArg (cr 7) = Except.ok (cx 7) ∧
    (cr 7).bits 4 15 0 ≠ (net (cr 7)).pkg) ∧
  -- the clause at h.2.2.2.2.1
  ((net (cmd 149 ([7] ++ ptr 1024))).Runs c0 149 (cmd 149 ([7] ++ ptr 1024)) ∧
    (net (cmd 149 ([7] ++ ptr 1024))).cmapArg (cmd 149 ([7] ++ ptr 1024)) = Except.error v4) ∧
  -- the clause at h.2.2.2.2.2
  ((net (cr 7)).trap = none) := by
  refine ⟨?_, ?_, ?_, ?_, ?_, ?_, ?_, ?_, ?_, ?_, ?_⟩ <;> first
    | decide +kernel
    | (simp only [State.Runs, State.CanEnd, State.Sound, State.apart, State.EndsBare]
       decide +kernel)
    | (and_intros <;> first
        | decide +kernel
        | (simp only [State.Runs, State.CanEnd, State.Sound, State.apart, State.EndsBare]
           decide +kernel)
        | exact State.plain_of_line _ _ (by decide +kernel) (by decide +kernel) (by decide +kernel) (by decide +kernel) (by decide +kernel)
        | (rw [State.plain_iff]; decide +kernel)
        | exact Or.inl ⟨rfl, by decide +kernel, by decide +kernel, rfl⟩
        | exact Or.inr ⟨cp, by decide +kernel⟩)

end Sys2Proof.Tests.W13

/-! ### Packets and their answers -/

namespace Sys2Proof.Tests.W14
open Sys2Proof Sys2Proof.Machine Sys2Proof.Tests

/-- a bank image: port set 0 has the masks's ports, packages 0 to 7 with a valid unicast entry only for 7 -/
def bank (mask : Nat) : List Byte := List.replicate 64 0 ++ leBytes 8 mask ++ List.replicate 504 0 ++ List.replicate 14 0 ++ [0x00, 0x80]
def rt : State := { put up [(F.package, 3), (F.rtBank 0, 3), (F.rtActive, 0), (F.portState 2, 2), (F.portState 5, 2), (F.portState 47, 2), (F.portDim 2, 0), (F.portDim 5, 1)] with
  fab := { banks := [bank 36, []] } }
def wp (dst hops : Nat) : Pkt := withCrc { type := .write, cls := 3, dst := dst, src := 9, via := dst, hops := hops, job := 9, ring := 1, seq := 2, sink := 0, len := 16, body := .xferData 0x55 0 [1] }
def cr (a b : Nat) (vs : List Nat) : Tab (Nat × Nat) := (vs.map fun v => (8*2+v, (a, 3))) ++ (vs.map fun v => (8*5+v, (b, 5)))
def rtc (a b : Nat) : State := { rt with fab := { rt.fab with credit := cr a b [0,1,2,3,4,5,6,7] } }
def rt48 : State := { rtc 4 4 with fab := { (rtc 4 4).fab with ports := List.replicate 48 ({ signal := false } : PortX) } }
def v1 := put rt48 [(⟨Reg.testBp, 11, 8⟩, 15), (⟨Reg.testBp, 5, 0⟩, 47)]
def wq (cls phase seq : Nat) : Pkt := { wp 7 1 with cls := cls, phase := phase, seq := seq, via := if phase = 0 then 7 else 7 }
def inq (a b : Pkt) (turns : List (Nat × Nat × Nat)) : State := { put (rtc 9 9) [(F.portState 5, 0), (⟨Reg.fab 0xC, 11, 0⟩, 0x321)] with fab := { (rtc 9 9).fab with inq := [(46, a), (47, b)], turns := turns } }
def full : State := { rt with fab := { rt.fab with inq := [(47, wq 0 1 1), (47, wq 0 1 2)] } }
def v2 := { wp 3 1 with crc := 5 }
def v3 := { wp 3 1 with resv := { w0 := 1 } }
def v4 := { wp 3 1 with resv := { w14 := 1 } }
def op : Pkt := { wp 7 0 with src := 3, via := 0, phase := 0 }
def one2 : State := { put rt [(F.adaptive, 0)] with fab := { banks := [bank 4, []], outq := [op], credit := cr 9 9 [7] } }
def op3 : Pkt := { wp 3 0 with src := 3, via := 0, phase := 0 }
def v5 := { one2 with fab := { one2.fab with outq := [op3] } }
def ackd : State := { rt with fab := { ackDue := [(5, 1, 7), (7, 3, 9)] } }
def snd (a : List Nat) : Cmd := { cmd 0x93 (ptr 0x400 ++ [0x00070000, 0x55]) with phase := .running, aux := a, start := 1, total := 2, job := 9 }
def ap (n : Nat) : Pkt := { type := .ack, cls := 3, dst := 3, src := 7, via := 3, sink := 5, body := .ack n }
def sent (n : Nat) : State := { rt with cmds := [snd [2, 0, 64]], fab := { unacked := List.replicate n ({ dst := 7, cmd := c0 } : Unacked) } }
def nt (ty w1 w2 : W) : Pkt := { type := .notice, cls := 0, dst := 3, src := 7, job := 9, seq := 2, sink := 4, body := .notice ty w1 w2 0 }
def v6 := { sent 3 with fab := { prunes := [(c0, 7, 2)] } }
def nb (ty w1 w2 : W) (a : Option (Nat × Nat)) : Pkt := { nt ty w1 w2 with about := a }

theorem witness_PacketsTakeTheirRoute :
  -- the clause at h.1
  ((rtc 4 4).LinksIdle ∧
    (rtc 4 4).trap = none ∧
    (rtc 4 4).fab.inq = [] ∧
    (rtc 4 4).fab.outq = []) ∧
  -- the clause at h.2.1
  (47 < 48 ∧
    rt48.portUsable 47 = true ∧
    brokenWord (wp 7 1) = none ∧
    (wp 7 1).phase = 1 ∧
    ((wp 7 1).type = PType.write ∨ (wp 7 1).type = PType.request) ∧
    (wp 7 1).dst < 4096 ∧
    (wp 7 1).via < 4096 ∧
    (wp 7 1).dst ≠ rt48.pkg ∧
    (wp 7 1).hops < 8 ∧
    rt48.trap = none ∧
    Bank.standby ≤ rt48.bankState (wp 7 1).epoch ∧
    rt48.bankState (wp 7 1).epoch ≠ Bank.idle ∧
    entryValid (rt48.uniEntry (wp 7 1).epoch (wp 7 1).dst) = true ∧
    rt48.fab.inq = [] ∧
    rt48.fab.outq = [] ∧
    rt48.LinksIdle ∧
    (rtc 4 5).portUsable 47 = true ∧
    brokenWord (wp 7 7) = none ∧
    (wp 7 7).phase = 1 ∧
    ((wp 7 7).type = PType.write ∨ (wp 7 7).type = PType.request) ∧
    (wp 7 7).dst < 4096 ∧
    (wp 7 7).via < 4096 ∧
    (wp 7 7).dst ≠ (rtc 4 5).pkg ∧
    (wp 7 7).hops < 8 ∧
    (rtc 4 5).trap = none ∧
    Bank.standby ≤ (rtc 4 5).bankState (wp 7 7).epoch ∧
    (rtc 4 5).bankState (wp 7 7).epoch ≠ Bank.idle ∧
    entryValid ((rtc 4 5).uniEntry (wp 7 7).epoch (wp 7 7).dst) = true ∧
    (rtc 4 5).fab.inq = [] ∧
    (rtc 4 5).fab.outq = [] ∧
    (rtc 4 5).LinksIdle ∧
    (rtc 1 1).portUsable 47 = true ∧
    brokenWord (wp 7 0) = none ∧
    (wp 7 0).phase = 1 ∧
    ((wp 7 0).type = PType.write ∨ (wp 7 0).type = PType.request) ∧
    (wp 7 0).dst < 4096 ∧
    (wp 7 0).via < 4096 ∧
    (wp 7 0).dst ≠ (rtc 1 1).pkg ∧
    (wp 7 0).hops < 8 ∧
    (rtc 1 1).trap = none ∧
    Bank.standby ≤ (rtc 1 1).bankState (wp 7 0).epoch ∧
    (rtc 1 1).bankState (wp 7 0).epoch ≠ Bank.idle ∧
    entryValid ((rtc 1 1).uniEntry (wp 7 0).epoch (wp 7 0).dst) = true ∧
    (rtc 1 1).fab.inq = [] ∧
    (rtc 1 1).fab.outq = [] ∧
    (rtc 1 1).LinksIdle ∧
    v1.portUsable 47 = true ∧
    (wp 7 1).dst ≠ v1.pkg ∧
    v1.trap = none ∧
    Bank.standby ≤ v1.bankState (wp 7 1).epoch ∧
    v1.bankState (wp 7 1).epoch ≠ Bank.idle ∧
    entryValid (v1.uniEntry (wp 7 1).epoch (wp 7 1).dst) = true ∧
    v1.fab.inq = [] ∧
    v1.fab.outq = [] ∧
    v1.LinksIdle) ∧
  -- the clause at h.2.2.1
  ((inq (wq 3 1 1) (wq 3 1 2) []).fab.inq = [(46, wq 3 1 1), (47, wq 3 1 2)] ∧
    (inq (wq 3 1 1) (wq 3 1 2) []).fab.outq = [] ∧
    wq 3 1 1 ≠ wq 3 1 2 ∧
    (inq (wq 3 1 1) (wq 3 1 2) []).LinksIdle ∧
    (∀ x ∈ (inq (wq 3 1 1) (wq 3 1 2) []).fab.inq, x.2.type ≠ PType.mcast ∧ x.2.type ≠ PType.notice ∧ x.2.phase < 2 ∧
      x.2.cls < 4 ∧ x.2.hops < 8 ∧ (inq (wq 3 1 1) (wq 3 1 2) []).withholds x.1 = false ∧ target ((inq (wq 3 1 1) (wq
      3 1 2) []).turned x.2) ≠ (inq (wq 3 1 1) (wq 3 1 2) []).pkg ∧ (inq (wq 3 1 1) (wq 3 1 2) []).bankState x.2.epoch
      = Bank.active ∧ (inq (wq 3 1 1) (wq 3 1 2) []).outputs ((inq (wq 3 1 1) (wq 3 1 2) []).turned x.2) (some x.1) =
      [2] ∧ (inq (wq 3 1 1) (wq 3 1 2) []).portUsable 2 = true ∧ (inq (wq 3 1 1) (wq 3 1 2) []).creditFor ((inq (wq 3
      1 1) (wq 3 1 2) []).turned x.2) 2 = true) ∧
    (inq (wq 3 1 1) (wq 3 1 2) []).trap = none ∧
    (wq 3 1 1).cls = (wq 3 1 2).cls ∧
    ((inq (wq 3 1 1) (wq 3 1 2) []).turned (wq 3 1 2)).phase ≤ ((inq (wq 3 1 1) (wq 3 1 2) []).turned (wq 3 1 1)).phase ∧
    (wq 3 1 1).cls ≠ 0 ∧
    (wq 3 1 2).cls ≠ 0 ∧
    (inq (wq 3 0 1) (wq 3 1 2) []).fab.inq = [(46, wq 3 0 1), (47, wq 3 1 2)] ∧
    (inq (wq 3 0 1) (wq 3 1 2) []).fab.outq = [] ∧
    wq 3 0 1 ≠ wq 3 1 2 ∧
    (inq (wq 3 0 1) (wq 3 1 2) []).LinksIdle ∧
    (∀ x ∈ (inq (wq 3 0 1) (wq 3 1 2) []).fab.inq, x.2.type ≠ PType.mcast ∧ x.2.type ≠ PType.notice ∧ x.2.phase < 2 ∧
      x.2.cls < 4 ∧ x.2.hops < 8 ∧ (inq (wq 3 0 1) (wq 3 1 2) []).withholds x.1 = false ∧ target ((inq (wq 3 0 1) (wq
      3 1 2) []).turned x.2) ≠ (inq (wq 3 0 1) (wq 3 1 2) []).pkg ∧ (inq (wq 3 0 1) (wq 3 1 2) []).bankState x.2.epoch
      = Bank.active ∧ (inq (wq 3 0 1) (wq 3 1 2) []).outputs ((inq (wq 3 0 1) (wq 3 1 2) []).turned x.2) (some x.1) =
      [2] ∧ (inq (wq 3 0 1) (wq 3 1 2) []).portUsable 2 = true ∧ (inq (wq 3 0 1) (wq 3 1 2) []).creditFor ((inq (wq 3
      0 1) (wq 3 1 2) []).turned x.2) 2 = true) ∧
    (inq (wq 3 0 1) (wq 3 1 2) []).trap = none ∧
    (wq 3 0 1).cls = (wq 3 1 2).cls ∧
    ((inq (wq 3 0 1) (wq 3 1 2) []).turned (wq 3 0 1)).phase < ((inq (wq 3 0 1) (wq 3 1 2) []).turned (wq 3 1 2)).phase ∧
    (wq 3 0 1).cls ≠ 0 ∧
    (inq (wq 0 1 1) (wq 3 1 2) []).fab.inq = [(46, wq 0 1 1), (47, wq 3 1 2)] ∧
    (inq (wq 0 1 1) (wq 3 1 2) []).fab.outq = [] ∧
    wq 0 1 1 ≠ wq 3 1 2 ∧
    (inq (wq 0 1 1) (wq 3 1 2) []).LinksIdle ∧
    (∀ x ∈ (inq (wq 0 1 1) (wq 3 1 2) []).fab.inq, x.2.type ≠ PType.mcast ∧ x.2.type ≠ PType.notice ∧ x.2.phase < 2 ∧
      x.2.cls < 4 ∧ x.2.hops < 8 ∧ (inq (wq 0 1 1) (wq 3 1 2) []).withholds x.1 = false ∧ target ((inq (wq 0 1 1) (wq
      3 1 2) []).turned x.2) ≠ (inq (wq 0 1 1) (wq 3 1 2) []).pkg ∧ (inq (wq 0 1 1) (wq 3 1 2) []).bankState x.2.epoch
      = Bank.active ∧ (inq (wq 0 1 1) (wq 3 1 2) []).outputs ((inq (wq 0 1 1) (wq 3 1 2) []).turned x.2) (some x.1) =
      [2] ∧ (inq (wq 0 1 1) (wq 3 1 2) []).portUsable 2 = true ∧ (inq (wq 0 1 1) (wq 3 1 2) []).creditFor ((inq (wq 0
      1 1) (wq 3 1 2) []).turned x.2) 2 = true) ∧
    (inq (wq 0 1 1) (wq 3 1 2) []).trap = none ∧
    (wq 0 1 1).cls = 0 ∧
    (inq (wq 3 1 1) (wq 0 1 2) []).fab.inq = [(46, wq 3 1 1), (47, wq 0 1 2)] ∧
    (inq (wq 3 1 1) (wq 0 1 2) []).fab.outq = [] ∧
    wq 3 1 1 ≠ wq 0 1 2 ∧
    (inq (wq 3 1 1) (wq 0 1 2) []).LinksIdle ∧
    (∀ x ∈ (inq (wq 3 1 1) (wq 0 1 2) []).fab.inq, x.2.type ≠ PType.mcast ∧ x.2.type ≠ PType.notice ∧ x.2.phase < 2 ∧
      x.2.cls < 4 ∧ x.2.hops < 8 ∧ (inq (wq 3 1 1) (wq 0 1 2) []).withholds x.1 = false ∧ target ((inq (wq 3 1 1) (wq
      0 1 2) []).turned x.2) ≠ (inq (wq 3 1 1) (wq 0 1 2) []).pkg ∧ (inq (wq 3 1 1) (wq 0 1 2) []).bankState x.2.epoch
      = Bank.active ∧ (inq (wq 3 1 1) (wq 0 1 2) []).outputs ((inq (wq 3 1 1) (wq 0 1 2) []).turned x.2) (some x.1) =
      [2] ∧ (inq (wq 3 1 1) (wq 0 1 2) []).portUsable 2 = true ∧ (inq (wq 3 1 1) (wq 0 1 2) []).creditFor ((inq (wq 3
      1 1) (wq 0 1 2) []).turned x.2) 2 = true) ∧
    (inq (wq 3 1 1) (wq 0 1 2) []).trap = none ∧
    (wq 0 1 2).cls = 0 ∧
    (inq (wq 2 1 1) (wq 3 1 2) [(2, 3, 1)]).fab.inq = [(46, wq 2 1 1), (47, wq 3 1 2)] ∧
    (inq (wq 2 1 1) (wq 3 1 2) [(2, 3, 1)]).fab.outq = [] ∧
    wq 2 1 1 ≠ wq 3 1 2 ∧
    (inq (wq 2 1 1) (wq 3 1 2) [(2, 3, 1)]).LinksIdle ∧
    (∀ x ∈ (inq (wq 2 1 1) (wq 3 1 2) [(2, 3, 1)]).fab.inq, x.2.type ≠ PType.mcast ∧ x.2.type ≠ PType.notice ∧ x.2.phase <
      2 ∧ x.2.cls < 4 ∧ x.2.hops < 8 ∧ (inq (wq 2 1 1) (wq 3 1 2) [(2, 3, 1)]).withholds x.1 = false ∧ target ((inq
      (wq 2 1 1) (wq 3 1 2) [(2, 3, 1)]).turned x.2) ≠ (inq (wq 2 1 1) (wq 3 1 2) [(2, 3, 1)]).pkg ∧ (inq (wq 2 1 1)
      (wq 3 1 2) [(2, 3, 1)]).bankState x.2.epoch = Bank.active ∧ (inq (wq 2 1 1) (wq 3 1 2) [(2, 3, 1)]).outputs
      ((inq (wq 2 1 1) (wq 3 1 2) [(2, 3, 1)]).turned x.2) (some x.1) = [2] ∧ (inq (wq 2 1 1) (wq 3 1 2) [(2, 3,
      1)]).portUsable 2 = true ∧ (inq (wq 2 1 1) (wq 3 1 2) [(2, 3, 1)]).creditFor ((inq (wq 2 1 1) (wq 3 1 2) [(2, 3,
      1)]).turned x.2) 2 = true) ∧
    (inq (wq 2 1 1) (wq 3 1 2) [(2, 3, 1)]).trap = none ∧
    (wq 2 1 1).cls ≠ 0 ∧
    (wq 2 1 1).cls ≠ (wq 3 1 2).cls ∧
    (Tab.get firstTurn (inq (wq 2 1 1) (wq 3 1 2) [(2, 3, 1)]).fab.turns 2).1 = (wq 3 1 2).cls ∧
    (Tab.get firstTurn (inq (wq 2 1 1) (wq 3 1 2) [(2, 3, 1)]).fab.turns 2).2 ≠ 0 ∧
    (inq (wq 2 1 1) (wq 3 1 2) []).fab.inq = [(46, wq 2 1 1), (47, wq 3 1 2)] ∧
    (inq (wq 2 1 1) (wq 3 1 2) []).fab.outq = [] ∧
    (inq (wq 2 1 1) (wq 3 1 2) []).LinksIdle ∧
    (∀ x ∈ (inq (wq 2 1 1) (wq 3 1 2) []).fab.inq, x.2.type ≠ PType.mcast ∧ x.2.type ≠ PType.notice ∧ x.2.phase < 2 ∧
      x.2.cls < 4 ∧ x.2.hops < 8 ∧ (inq (wq 2 1 1) (wq 3 1 2) []).withholds x.1 = false ∧ target ((inq (wq 2 1 1) (wq
      3 1 2) []).turned x.2) ≠ (inq (wq 2 1 1) (wq 3 1 2) []).pkg ∧ (inq (wq 2 1 1) (wq 3 1 2) []).bankState x.2.epoch
      = Bank.active ∧ (inq (wq 2 1 1) (wq 3 1 2) []).outputs ((inq (wq 2 1 1) (wq 3 1 2) []).turned x.2) (some x.1) =
      [2] ∧ (inq (wq 2 1 1) (wq 3 1 2) []).portUsable 2 = true ∧ (inq (wq 2 1 1) (wq 3 1 2) []).creditFor ((inq (wq 2
      1 1) (wq 3 1 2) []).turned x.2) 2 = true) ∧
    (inq (wq 2 1 1) (wq 3 1 2) []).trap = none ∧
    (Tab.get firstTurn (inq (wq 2 1 1) (wq 3 1 2) []).fab.turns 2).1 = (wq 3 1 2).cls ∧
    Tab.get firstTurn (inq (wq 2 1 1) (wq 3 1 2) []).fab.turns 2 = ((wq 3 1 2).cls, 0) ∧
    (inq (wq 1 1 1) (wq 2 1 2) [(2, 2, 0)]).fab.inq = [(46, wq 1 1 1), (47, wq 2 1 2)] ∧
    (inq (wq 1 1 1) (wq 2 1 2) [(2, 2, 0)]).fab.outq = [] ∧
    wq 1 1 1 ≠ wq 2 1 2 ∧
    (inq (wq 1 1 1) (wq 2 1 2) [(2, 2, 0)]).LinksIdle ∧
    (∀ x ∈ (inq (wq 1 1 1) (wq 2 1 2) [(2, 2, 0)]).fab.inq, x.2.type ≠ PType.mcast ∧ x.2.type ≠ PType.notice ∧ x.2.phase <
      2 ∧ x.2.cls < 4 ∧ x.2.hops < 8 ∧ (inq (wq 1 1 1) (wq 2 1 2) [(2, 2, 0)]).withholds x.1 = false ∧ target ((inq
      (wq 1 1 1) (wq 2 1 2) [(2, 2, 0)]).turned x.2) ≠ (inq (wq 1 1 1) (wq 2 1 2) [(2, 2, 0)]).pkg ∧ (inq (wq 1 1 1)
      (wq 2 1 2) [(2, 2, 0)]).bankState x.2.epoch = Bank.active ∧ (inq (wq 1 1 1) (wq 2 1 2) [(2, 2, 0)]).outputs
      ((inq (wq 1 1 1) (wq 2 1 2) [(2, 2, 0)]).turned x.2) (some x.1) = [2] ∧ (inq (wq 1 1 1) (wq 2 1 2) [(2, 2,
      0)]).portUsable 2 = true ∧ (inq (wq 1 1 1) (wq 2 1 2) [(2, 2, 0)]).creditFor ((inq (wq 1 1 1) (wq 2 1 2) [(2, 2,
      0)]).turned x.2) 2 = true) ∧
    (inq (wq 1 1 1) (wq 2 1 2) [(2, 2, 0)]).trap = none ∧
    (wq 1 1 1).cls ≠ 0 ∧
    (wq 2 1 2).cls ≠ 0 ∧
    (wq 1 1 1).cls ≠ (wq 2 1 2).cls ∧
    (Tab.get firstTurn (inq (wq 1 1 1) (wq 2 1 2) [(2, 2, 0)]).fab.turns 2).1 = (wq 2 1 2).cls ∧
    Tab.get firstTurn (inq (wq 1 1 1) (wq 2 1 2) [(2, 2, 0)]).fab.turns 2 = ((wq 2 1 2).cls, 0)) ∧
  -- the clause at h.2.2.2.1
  (47 < 48 ∧
    (rtc 4 4).portUsable 47 = true ∧
    brokenWord (wp 6 1) = none ∧
    (wp 6 1).phase = 1 ∧
    ((wp 6 1).type = PType.write ∨ (wp 6 1).type = PType.request) ∧
    (wp 6 1).dst < 4096 ∧
    (wp 6 1).via < 4096 ∧
    (wp 6 1).dst ≠ (rtc 4 4).pkg ∧
    (wp 6 1).hops ≤ 8 ∧
    (rtc 4 4).trap = none ∧
    (rtc 4 4).hasBuffer 47 (wp 6 1) = true ∧
    (47, wp 6 1) ∉ (rtc 4 4).fab.inq ∧
    (rtc 4 4).LinksIdle ∧
    (rtc 4 4).withholds 47 = false ∧
    (entryValid ((rtc 4 4).uniEntry (wp 6 1).epoch (wp 6 1).dst) = false ∨ (wp 6 1).hops = 8 ∨ (rtc 4 4).bankState (wp 6
      1).epoch ≤ Bank.loading) ∧
    brokenWord (wp 7 8) = none ∧
    (wp 7 8).phase = 1 ∧
    ((wp 7 8).type = PType.write ∨ (wp 7 8).type = PType.request) ∧
    (wp 7 8).dst < 4096 ∧
    (wp 7 8).via < 4096 ∧
    (wp 7 8).dst ≠ (rtc 4 4).pkg ∧
    (wp 7 8).hops ≤ 8 ∧
    (rtc 4 4).hasBuffer 47 (wp 7 8) = true ∧
    (47, wp 7 8) ∉ (rtc 4 4).fab.inq ∧
    (entryValid ((rtc 4 4).uniEntry (wp 7 8).epoch (wp 7 8).dst) = false ∨ (wp 7 8).hops = 8 ∨ (rtc 4 4).bankState (wp 7
      8).epoch ≤ Bank.loading)) ∧
  -- the clause at h.2.2.2.2.1
  (47 < 48 ∧
    full.portUsable 47 = true ∧
    full.Calm ∧
    full.LinksIdle ∧
    (List.filter (fun (x : ℕ × Pkt) => x.1 == 47 && 2 * x.2.cls + x.2.phase % 2 == (wq 0 1 3).phase % 2)
      full.fab.inq).length = 2 ∧
    (wq 0 1 3).cls = 0 ∧
    rt.portUsable 47 = true ∧
    rt.Calm ∧
    rt.LinksIdle ∧
    rt.hasBuffer 47 (wp 3 8) = true ∧
    brokenWord (wp 3 8) = none ∧
    (wp 3 8).type = PType.write ∧
    (wp 3 8).phase = 1 ∧
    (wp 3 8).dst = rt.pkg ∧
    (wp 3 8).dst < 4096 ∧
    (wp 3 8).via < 4096 ∧
    (wp 3 8).hops ≤ 8 ∧
    (47, wp 3 8) ∉ rt.fab.inq ∧
    Bank.standby ≤ rt.bankState (wp 3 8).epoch ∧
    rt.bankState (wp 3 8).epoch ≠ Bank.idle ∧
    (pktPayload (wp 3 8)).length ≤ 2048 ∧
    (wp 3 8).crc = pktCrc (wp 3 8) ∧
    (∀ k ∈ rt.fab.ackDue, k.1 ≠ (wp 3 8).src) ∧
    rt.hasBuffer 47 v2 = true ∧
    brokenWord v2 = none ∧
    v2.type = PType.write ∧
    v2.phase = 1 ∧
    v2.dst = rt.pkg ∧
    v2.dst < 4096 ∧
    v2.via < 4096 ∧
    v2.hops ≤ 8 ∧
    (47, v2) ∉ rt.fab.inq ∧
    Bank.standby ≤ rt.bankState v2.epoch ∧
    rt.bankState v2.epoch ≠ Bank.idle ∧
    (pktPayload v2).length ≤ 2048 ∧
    v2.crc ≠ pktCrc v2 ∧
    rt.hasBuffer 47 v3 = true ∧
    brokenWord v3 = some ((brokenWord v3).getD 0) ∧
    rt.hasBuffer 47 v4 = true ∧
    brokenWord v4 = some ((brokenWord v4).getD 0)) ∧
  -- the clause at h.2.2.2.2.2
  (one2.fab.outq = [op] ∧
    one2.fab.inq = [] ∧
    one2.trap = none ∧
    one2.LinksIdle ∧
    op.type = PType.write ∧
    op.cls = 3 ∧
    op.fence = false ∧
    one2.quenches op = false ∧
    one2.routable = true ∧
    one2.flag F.adaptive = false ∧
    one2.quenchedSender op = none ∧
    op.hops = 0 ∧
    v5.fab.outq = [op3] ∧
    v5.fab.inq = [] ∧
    v5.trap = none ∧
    v5.LinksIdle ∧
    op3.type = PType.write ∧
    op3.cls = 3 ∧
    op3.fence = false ∧
    v5.quenches op3 = false ∧
    v5.routable = true ∧
    v5.flag F.adaptive = false ∧
    v5.quenchedSender op3 = none ∧
    op3.hops = 0 ∧
    op3.dst = v5.pkg ∧
    (pktPayload op3).length ≤ 2048 ∧
    (∀ k ∈ v5.fab.ackDue, k.1 ≠ op3.src)) := by
  refine ⟨?_, ?_, ?_, ?_, ?_, ?_⟩ <;> first
    | decide +kernel
    | (simp only [State.Calm, State.LogIn, State.LinksIdle]
       decide +kernel)

theorem witness_FabricAnswersReachTheirCommand :
  -- the clause at h.1
  (ackd.trap = none ∧
    List.find? (fun (q : ℕ × ℕ × ℕ) => q.1 == 7) ackd.fab.ackDue = some (7, 3, 9)) ∧
  -- the clause at h.2.1
  (ackd.trap = none ∧
    (∀ q ∈ ackd.fab.ackDue, q.1 ≠ 6)) ∧
  -- the clause at h.2.2.1
  ((ap 3).body = Body.ack 3 ∧
    List.filter (fun (m : Cmd) => m.opcode == 147 && m.phase == Phase.running && m.aux.getD 0 0 == 2 && m.bits 6 31 16 ==
      (ap 3).src) (sent 3).cmds = [snd [2, 0, 64]] ∧
    (sent 3).findCmd (snd [2, 0, 64]).id = some (snd [2, 0, 64]) ∧
    (sent 3).CanEnd (snd [2, 0, 64]).id ∧
    (∀ q ∈ (sent 3).fab.outq, q.ring = (snd [2, 0, 64]).id.ring → q.seq ≠ (snd [2, 0, 64]).id.seq) ∧
    (List.filter (fun (q : Unacked) => decide (q.cmd = (snd [2, 0, 64]).id)) (dropSent (ap 3).src 3 (sent
      3).fab.unacked)).length = 0 ∧
    List.filter (fun (m : Cmd) => m.opcode == 147 && m.phase == Phase.running && m.aux.getD 0 0 == 2 && m.bits 6 31 16 ==
      (ap 3).src) (sent 20).cmds = [snd [2, 0, 64]] ∧
    (sent 20).findCmd (snd [2, 0, 64]).id = some (snd [2, 0, 64]) ∧
    (sent 20).CanEnd (snd [2, 0, 64]).id ∧
    (∀ q ∈ (sent 20).fab.outq, q.ring = (snd [2, 0, 64]).id.ring → q.seq ≠ (snd [2, 0, 64]).id.seq) ∧
    (List.filter (fun (q : Unacked) => decide (q.cmd = (snd [2, 0, 64]).id)) (dropSent (ap 3).src 3 (sent
      20).fab.unacked)).length ≠ 0) ∧
  -- the clause at h.2.2.2.1
  ((nt 1879048201 327680 458754).body = Body.notice 1879048201 327680 458754 0 ∧
    (sent 3).trap = none ∧
    ((sent 3).findCmd { ring := bits 327680 11 0, seq := bits 327680 31 16 }).isSome = true ∧
    ({ ring := bits 327680 11 0, seq := bits 327680 31 16 }, bits 458754 31 16, bits 458754 15 0) ∉ (sent 3).fab.prunes ∧
    (nt 1879048201 393216 458754).body = Body.notice 1879048201 393216 458754 0 ∧
    ((sent 3).findCmd { ring := bits 393216 11 0, seq := bits 393216 31 16 } = none ∨ ({ ring := bits 393216 11 0, seq := bits 393216 31 16 }, bits 458754 31 16, bits 458754 15 0) ∈ (sent 3).fab.prunes) ∧
    v6.trap = none ∧
    (v6.findCmd { ring := bits 327680 11 0, seq := bits 327680 31 16 }).isSome = true ∧
    (v6.findCmd { ring := bits 327680 11 0, seq := bits 327680 31 16 } = none ∨ ({ ring := bits 327680 11 0, seq := bits 327680 31 16 }, bits 458754 31 16, bits 458754 15 0) ∈ v6.fab.prunes)) ∧
  -- the clause at h.2.2.2.2
  ((nb 2164260873 327680 2 (some (7, 0))).body = Body.notice 2164260873 327680 2 0 ∧
    (sent 3).findCmd { ring := bits 327680 11 0, seq := bits 327680 31 16 } = some (snd [2, 0, 64]) ∧
    (snd [2, 0, 64]).job = (nb 2164260873 327680 2 (some (7, 0))).job ∧
    (snd [2, 0, 64]).ops = [] ∧
    unsentSteps (snd [2, 0, 64]) = [] ∧
    (sent 3).CanEnd { ring := bits 327680 11 0, seq := bits 327680 31 16 } ∧
    (sent 3).ck.stream = none ∧
    (∀ a ∈ (sent 3).red.applies, a.cmd.id ≠ { ring := bits 327680 11 0, seq := bits 327680 31 16 }) ∧
    (nb 2449473545 327680 2 (some (7, 5))).body = Body.notice 2449473545 327680 2 0 ∧
    (snd [2, 0, 64]).job = (nb 2449473545 327680 2 (some (7, 5))).job ∧
    (nb 2449473545 327680 2 none).body = Body.notice 2449473545 327680 2 0 ∧
    (snd [2, 0, 64]).job = (nb 2449473545 327680 2 none).job ∧
    (nb 2449473545 327680 2 none).about = none) := by
  refine ⟨?_, ?_, ?_, ?_, ?_⟩ <;> first
    | decide +kernel
    | (simp only [State.CanEnd, State.Sound, State.EndsBare]
       decide +kernel)

end Sys2Proof.Tests.W14

/-! ### Checkpoints -/

namespace Sys2Proof.Tests.W15
open Sys2Proof Sys2Proof.Machine Sys2Proof.Tests

def stE {α} (e : Except Status α) : Status := match e with | .ok _ => okStatus | .error e => e
def okP (e : Except Status CkPlan) : CkPlan := match e with | .ok x => x | .error _ => ⟨[],[],[]⟩
def ckb : State := put up [(F.restoreOk, 1), (F.package, 3), (F.portState 47, 2), (F.pdom, 4), (F.ward, 7), (F.buddy, 9)]
def bs (w : W) : Cmd := cmd 0x70 [w]
def rst : CkRestore := { cmd := ⟨1, 2⟩, ward := 3, holder := 4 }
def v1 := { ckb with cmds := [bs 3] }
def v2 := { ckb with cmds := [bs 9] }
def v3 := { ckb with cmds := [bs 9], ck := { restore := some rst } }
def bq : Pkt := { type := .request, cls := 2, dst := 3, src := 9, job := 0, ring := 0, seq := 5, sink := 6, body := .buddyQuery }
def ba (w p : Nat) : Pkt := { type := .response, cls := 3, dst := 3, src := 9, job := 0, ring := 0, seq := 5, sink := 6, len := 16, body := .buddyAnswer w p }
def bsR (w : W) : Cmd := { bs w with phase := .running, start := 1 }
def ask (w : W) : State := { ckb with cmds := [bsR w], ck := { asking := some c0 } }
def plw (cursor : W) : List W := [0xC0000009, 0x500, 0x40000000, 1, 0, 0, cursor, 0, 0, 0, 0, 0, 0, 0, 0, 0]
def shard (n : W) : List W := [0x90000000 + n, 7, 1, 2, 0x10000, 0, 0x20000, 0, 0x30000, 0, 0x40000, 0, 0, 0, 0, 0]
def pc (cursor : W) : Cmd := caps (cmd 0x71 (ptr 0x400)) [(0x400, plw cursor), (0x500, shard 1)]
def v4 := { ckb with cmds := [pc 0x90000] }
def v5 := { ckb with cmds := [pc 0x90010] }
def v6 := { ckb with cmds := [pc 0x90000], ck := { restore := some rst } }
def plan : CkPlan := { words := plw 0x90000, shards := [shard 1], efs := [] }
def sc (full : W) (step : W) : Cmd := cmd 0x72 [full, step]
/-- boundary region at 0x1000000 whose slot 0 is committed for step 6. -/
def bnd (s : State) : State := place (put s [(⟨Reg.ckptBndLo, 31, 0⟩, 0x1000000)]) 3 0x1000000 [0xF8000009, 6, 11]
def sts (m : Cmd) : State := { put (bnd { ckb with cmds := [m] }) [(F.buddyValid, 1)] with ck := { plan := some plan } }
def v7 := { ckb with cmds := [sc 0 6] }
def v8 := { sts (sc 0 6) with ck := { plan := some plan, restore := some rst } }
def scR : Cmd := { sc 0 6 with phase := .running, start := 1, total := 2 }
def strm (todo : List CkSeg) : CkStream := { cmd := some c0, full := false, step := 6, job := 9, nextMb := 11, stime := 99, share := 1, todo := todo }
def g2 : CkSeg := ⟨2, 0, 4, 12⟩
def sending : State := { place (sts scR) 3 0x20000 [0x3F800000, 1] with ck := { plan := some plan, stream := some (strm [g2]) } }
def g1 : CkSeg := ⟨1, 0, 0, 64⟩
def v9 := { sending with ck := { plan := some plan, stream := some (strm [g1, g2]) } }
def e2 : CkEntry := { type := 2, item := 0, off := 4, len := 2, sha := [] }
def v10 := { strm [] with sent := [e2] }
def v11 := { sending with ck := { plan := some plan, stream := some { strm [] with sent := [e2] } } }
def cseg : Pkt := { type := .write, cls := 3, dst := 3, src := 7, job := 9, ring := 1, seq := 2, len := 16, body := .ckptSeg 2 2 0 4 [0xAA, 0xBB] }
def hold (es : List CkEntry) (n : Nat) : State := { put ckb [(⟨Reg.ckptImgSize, 15, 0⟩, n)] with ck := { held := [⟨9, 1, 5, 7, 0, 0, es, 4096⟩] } }
def v12 := hold [{ e2 with len := 2, addr := 128, sha := sha256 [0xAA, 0xBB] }] 1
def v13 := hold [{ e2 with len := 100, addr := 0 }] 1
def e3 : CkEntry := { e2 with sha := List.replicate 32 7 }
def man (t : PType) (gen : Nat) : Pkt := { type := t, cls := 3, dst := 3, src := if t = .write then 7 else 9, job := 9, ring := 1, seq := 2, len := 16, body := .manifest 9 gen 6 11 99 [if t = .write then e3 else e2] }
def v14 := hold [{ e3 with addr := 128 }] 1
def v15 := hold [{ e3 with addr := 128 }] 0
def ended : State := { put (sts scR) [(F.ckptActive, 1)] with ck := { gens := 4, plan := some plan, stream := some { strm [] with closed := true, sent := [e2] } } }
def v16 := { strm [] with closed := true, sent := [e2] }
def rc : Cmd := cmd 0x73 [0x00070009, 0xFFFFFFFF]
def v17 := { ckb with cmds := [rc] }
def v18 := { ckb with cmds := [rc], ck := { stream := some (strm []) } }
def rq (seg : Nat) (st : W) : Pkt := { type := .request, cls := 2, dst := 3, src := 9, job := 9, ring := 1, seq := 2, body := .restoreReq 7 st seg }
def v19 := hold [{ e2 with addr := 128 }] 1
def rcR : Cmd := { rc with phase := .running, start := 1, total := 5, done := 0 }
def rr : CkRestore := { cmd := c0, ward := 7, holder := 9 }
def rsp (seg : Nat) (f : Bool) (b : List Byte) : Pkt := { type := .response, cls := 3, dst := 3, src := 9, job := 0, ring := 0, seq := 5, len := 16, body := .restoreResp seg f b }
def rsg (r : CkRestore) : State := { ckb with cmds := [rcR], ck := { restore := some r } }
def gn (es : List CkEntry) (mb : Nat) : CkGen := ⟨9, 1, 5, 7, mb, 0, es, 0⟩
def z32 : List Byte := List.replicate 32 0
def mb1 : List Byte := manifestBytes (gn [{ e2 with sha := z32 }] 0)
def rm (es : List CkEntry) (mb : Nat) (todo : List Nat) : CkRestore := { rr with man := some (gn es mb), todo := todo, plan := some plan }
def okE : CkEntry := { e2 with len := 2, sha := sha256 [1, 2] }
def bE : CkEntry := { e2 with type := 1, len := 0, sha := sha256 [] }

theorem witness_BuddiesAndPlansAreSet :
  -- the clause at h.1
  (v1.Runs c0 112 (bs 3) ∧
    (bs 3).bits 4 15 0 = v1.pkg ∧
    v1.ck.asking ≠ some c0 ∧
    v2.Runs c0 112 (bs 9) ∧
    (bs 9).bits 4 15 0 ≠ v2.pkg ∧
    v2.ck.asking = none ∧
    v3.Runs c0 112 (bs 9) ∧
    (bs 9).bits 4 15 0 ≠ v3.pkg ∧
    v3.ck.asking = none) ∧
  -- the clause at h.2.1
  (ckb.trap = none) ∧
  -- the clause at h.2.2.1
  ((ba 3 5).body = Body.buddyAnswer 3 5 ∧
    (ba 3 5).src < 2 ^ 16 ∧
    (ask 9).findCmd { ring := (ba 3 5).ring, seq := (ba 3 5).seq } = some (bsR 9) ∧
    (ask 9).ck.asking = some { ring := (ba 3 5).ring, seq := (ba 3 5).seq } ∧
    (bsR 9).bits 4 15 0 = (ba 3 5).src ∧
    (ask 9).CanEnd { ring := (ba 3 5).ring, seq := (ba 3 5).seq } ∧
    3 = (ask 9).pkg ∧
    ((bsR 9).bits 4 31 31 = 1 ∨ (ask 9).fld F.pdom ≠ 5 ∧ (ask 9).fld F.pdom ≠ 65535 ∧ 5 ≠ 65535) ∧
    (bsR 9).bits 4 31 31 = 0 ∧
    (ask 9).fld F.pdom ≠ 5 ∧
    (ask 9).fld F.pdom ≠ 65535 ∧
    5 ≠ 65535 ∧
    (ask 9).ckBusy = none ∧
    ((ask 9).flag F.buddyValid = false ∨ (ask 9).fld F.buddy ≠ (ba 3 5).src) ∧
    (ba 4 5).body = Body.buddyAnswer 4 5 ∧
    (ba 4 5).src < 2 ^ 16 ∧
    (ask 9).findCmd { ring := (ba 4 5).ring, seq := (ba 4 5).seq } = some (bsR 9) ∧
    (ask 9).ck.asking = some { ring := (ba 4 5).ring, seq := (ba 4 5).seq } ∧
    (bsR 9).bits 4 15 0 = (ba 4 5).src ∧
    (ask 9).CanEnd { ring := (ba 4 5).ring, seq := (ba 4 5).seq } ∧
    (4 ≠ (ask 9).pkg ∨ (bsR 9).bits 4 31 31 = 0 ∧ ((ask 9).fld F.pdom = 5 ∨ (ask 9).fld F.pdom = 65535 ∨ 5 = 65535)) ∧
    (ba 3 4).body = Body.buddyAnswer 3 4 ∧
    (ba 3 4).src < 2 ^ 16 ∧
    (ask 9).findCmd { ring := (ba 3 4).ring, seq := (ba 3 4).seq } = some (bsR 9) ∧
    (ask 9).ck.asking = some { ring := (ba 3 4).ring, seq := (ba 3 4).seq } ∧
    (bsR 9).bits 4 15 0 = (ba 3 4).src ∧
    (ask 9).CanEnd { ring := (ba 3 4).ring, seq := (ba 3 4).seq } ∧
    (3 ≠ (ask 9).pkg ∨ (bsR 9).bits 4 31 31 = 0 ∧ ((ask 9).fld F.pdom = 4 ∨ (ask 9).fld F.pdom = 65535 ∨ 4 = 65535)) ∧
    (put (ask 9) [(F.buddyValid, 1)]).findCmd { ring := (ba 3 5).ring, seq := (ba 3 5).seq } = some (bsR 9) ∧
    (put (ask 9) [(F.buddyValid, 1)]).ck.asking = some { ring := (ba 3 5).ring, seq := (ba 3 5).seq } ∧
    (put (ask 9) [(F.buddyValid, 1)]).CanEnd { ring := (ba 3 5).ring, seq := (ba 3 5).seq } ∧
    3 = (put (ask 9) [(F.buddyValid, 1)]).pkg ∧
    ((bsR 9).bits 4 31 31 = 1 ∨ (put (ask 9) [(F.buddyValid, 1)]).fld F.pdom ≠ 5 ∧ (put (ask 9) [(F.buddyValid, 1)]).fld
      F.pdom ≠ 65535 ∧ 5 ≠ 65535) ∧
    (put (ask 9) [(F.buddyValid, 1)]).fld F.pdom ≠ 5 ∧
    (put (ask 9) [(F.buddyValid, 1)]).fld F.pdom ≠ 65535 ∧
    (put (ask 9) [(F.buddyValid, 1)]).ckBusy = none ∧
    (put (ask 9) [(F.buddyValid, 1)]).flag F.buddyValid = true ∧
    (put (ask 9) [(F.buddyValid, 1)]).fld F.buddy = (ba 3 5).src) ∧
  -- the clause at h.2.2.2
  (v4.Runs c0 113 (pc 589824) ∧
    v5.Runs c0 113 (pc 589840) ∧
    v6.Runs c0 113 (pc 589824)) := by
  refine ⟨?_, ?_, ?_, ?_⟩ <;> first
    | decide +kernel
    | (simp only [State.Runs, State.CanEnd, State.Sound, State.EndsBare]
       decide +kernel)

theorem witness_CheckpointStreamsReachTheBuddy :
  -- the clause at h.1
  (v7.Runs c0 114 (sc 0 6) ∧
    (v7.bndBase ≠ 0 → v7.clearOf c0 (v7.bndSlot 0) 12 ∧ v7.clearOf c0 (v7.bndSlot 1) 12) ∧
    v7.streamReady = none ∧
    (sts (sc 0 6)).Runs c0 114 (sc 0 6) ∧
    ((sts (sc 0 6)).bndBase ≠ 0 → (sts (sc 0 6)).clearOf c0 ((sts (sc 0 6)).bndSlot 0) 12 ∧ (sts (sc 0 6)).clearOf c0
      ((sts (sc 0 6)).bndSlot 1) 12) ∧
    (sts (sc 1 4294967295)).Runs c0 114 (sc 1 4294967295) ∧
    ((sts (sc 1 4294967295)).bndBase ≠ 0 → (sts (sc 1 4294967295)).clearOf c0 ((sts (sc 1 4294967295)).bndSlot 0) 12 ∧
      (sts (sc 1 4294967295)).clearOf c0 ((sts (sc 1 4294967295)).bndSlot 1) 12) ∧
    (sts (sc 0 5)).Runs c0 114 (sc 0 5) ∧
    ((sts (sc 0 5)).bndBase ≠ 0 → (sts (sc 0 5)).clearOf c0 ((sts (sc 0 5)).bndSlot 0) 12 ∧ (sts (sc 0 5)).clearOf c0
      ((sts (sc 0 5)).bndSlot 1) 12) ∧
    v8.Runs c0 114 (sc 0 6) ∧
    (v8.bndBase ≠ 0 → v8.clearOf c0 (v8.bndSlot 0) 12 ∧ v8.clearOf c0 (v8.bndSlot 1) 12)) ∧
  -- the clause at h.2.1
  (sending.ck.stream = some (strm [g2]) ∧
    sending.ck.plan = some plan ∧
    (strm [g2]).closed = false ∧
    (strm [g2]).todo = [g2] ∧
    (strm [g2]).got = [] ∧
    (g2.type = 1 ∨ g2.type = 2) ∧
    sending.Sound ∧
    (∀ o ∈ sending.cmds, o.opcode ≠ 51 ∧ o.opcode ≠ 55) ∧
    sending.hasRange 3 (if g2.type = 1 then sending.bndSlot ((sending.bndIn 2).getD 0) else shardByte (plan.shards.getD
      g2.item []) g2.off) g2.len = true ∧
    0 < g2.len ∧
    (strm [g2]).cmd = some ((strm [g2]).cmd.getD c0) ∧
    sending.findCmd ((strm [g2]).cmd.getD c0) = some ((sending.findCmd ((strm [g2]).cmd.getD c0)).getD scR) ∧
    v9.ck.stream = some (strm [g1, g2]) ∧
    v9.ck.plan = some plan ∧
    (strm [g1, g2]).closed = false ∧
    (strm [g1, g2]).todo = [g1, g2] ∧
    (strm [g1, g2]).got = [] ∧
    (g1.type = 1 ∨ g1.type = 2) ∧
    v9.Sound ∧
    (∀ o ∈ v9.cmds, o.opcode ≠ 51 ∧ o.opcode ≠ 55) ∧
    v9.hasRange 3 (if g1.type = 1 then v9.bndSlot ((v9.bndIn 2).getD 0) else shardByte (plan.shards.getD g1.item [])
      g1.off) g1.len = true ∧
    0 < g1.len ∧
    (strm [g1, g2]).cmd = some ((strm [g1, g2]).cmd.getD c0) ∧
    v9.findCmd ((strm [g1, g2]).cmd.getD c0) = some ((v9.findCmd ((strm [g1, g2]).cmd.getD c0)).getD scR)) ∧
  -- the clause at h.2.2.1
  (v11.ck.stream = some v10 ∧
    v11.ck.plan = some plan ∧
    v10.closed = false ∧
    v10.todo = [] ∧
    plan.handles = [] ∧
    (∀ e ∈ v10.sent, e.type ≠ 4) ∧
    v11.trap = none) ∧
  -- the clause at h.2.2.2.1
  (cseg.type = PType.write ∧
    cseg.body = Body.ckptSeg 2 2 0 4 [170, 187] ∧
    cseg.src = v12.fld F.ward ∧
    v12.Sound ∧
    2 ≠ 1 ∧
    v12.imageFree [170, 187].length = some ((v12.imageFree [170, 187].length).getD 0) ∧
    v12.sameSegment cseg.src 2 0 4 [170, 187].length (sha256 [170, 187]) = some ((v12.sameSegment cseg.src 2 0 4 [170,
      187].length (sha256 [170, 187])).getD e2) ∧
    cseg.src = v13.fld F.ward ∧
    v13.Sound ∧
    v13.imageFree [170, 187].length = some ((v13.imageFree [170, 187].length).getD 0) ∧
    v13.sameSegment cseg.src 2 0 4 [170, 187].length (sha256 [170, 187]) = none ∧
    cseg.src = (hold [] 0).fld F.ward ∧
    (hold [] 0).Sound ∧
    (hold [] 0).imageFree [170, 187].length = none) ∧
  -- the clause at h.2.2.2.2.1
  ((man PType.write 2).type = PType.write ∧
    (man PType.write 2).body = Body.manifest 9 2 6 11 99 [e3] ∧
    (man PType.write 2).src = v14.fld F.ward ∧
    v14.Sound ∧
    (∀ e ∈ [e3], (v14.placeEntry (man PType.write 2).src e).isSome = true ∧ e.sha.length = 32) ∧
    96 + 64 * [e3].length ≤ 67108864 ∧ v14.reg64 Reg.ckptImgLo Reg.ckptImgHi + 67108864 * (2 % 3) + 67108864 ≤
      v14.imageRegion.2 ∧
    (man PType.write 2).src = v15.fld F.ward ∧
    v15.Sound ∧
    (∀ e ∈ [e3], (v15.placeEntry (man PType.write 2).src e).isSome = true ∧ e.sha.length = 32) ∧
    ¬(96 + 64 * [e3].length ≤ 67108864 ∧ v15.reg64 Reg.ckptImgLo Reg.ckptImgHi + 67108864 * (2 % 3) + 67108864 ≤
      v15.imageRegion.2)) ∧
  -- the clause at h.2.2.2.2.2
  ((man PType.response 4).type = PType.response ∧
    (man PType.response 4).body = Body.manifest 9 4 6 11 99 [e2] ∧
    ended.ck.stream = some v16 ∧
    v16.closed = true ∧
    4 = ended.ck.gens ∧
    (man PType.response 4).src = ended.fld F.buddy ∧
    v16.cmd = some c0 ∧
    ended.findCmd c0 = some scR ∧
    ended.CanEnd c0 ∧
    ended.flag F.logEnable = false ∧
    v16.step < 2 ^ 32) := by
  refine ⟨?_, ?_, ?_, ?_, ?_, ?_⟩ <;> first
    | decide +kernel
    | (simp only [State.Runs, State.CanEnd, State.Sound, State.clearOf, State.EndsBare]
       decide +kernel)

theorem witness_RestoreReadsItsImage :
  -- the clause at h.1
  (v17.Runs c0 115 rc ∧
    v17.ckBusy = none ∧
    v18.Runs c0 115 rc ∧
    v18.ckBusy = some (v18.ckBusy.getD okStatus)) ∧
  -- the clause at h.2.1
  ((rq 0 4294967295).body = Body.restoreReq 7 4294967295 0 ∧
    v19.Sound ∧
    v19.genAt 7 4294967295 = some ((v19.genAt 7 4294967295).getD (gn [] 0)) ∧
    v19.hasRange 4 ((v19.genAt 7 4294967295).getD (gn [] 0)).at_ (manifestLen ((v19.genAt 7 4294967295).getD (gn [] 0))) =
      true ∧
    (rq 1 5).body = Body.restoreReq 7 5 1 ∧
    v19.genAt 7 5 = some ((v19.genAt 7 5).getD (gn [] 0)) ∧
    1 ≠ 0 ∧
    ((v19.genAt 7 5).getD (gn [] 0)).entries[1 - 1]? = some (((v19.genAt 7 5).getD (gn [] 0)).entries[1 - 1]?.getD e2) ∧
    v19.hasRange 4 (((v19.genAt 7 5).getD (gn [] 0)).entries[1 - 1]?.getD e2).addr (((v19.genAt 7 5).getD (gn []
      0)).entries[1 - 1]?.getD e2).len = true ∧
    (rq 1 6).body = Body.restoreReq 7 6 1 ∧
    v19.genAt 7 6 = none) ∧
  -- the clause at h.2.2
  ((rsp 0 false []).body = Body.restoreResp 0 false [] ∧
    (rsg rr).ck.restore = some rr ∧
    rr.cmd = { ring := (rsp 0 false []).ring, seq := (rsp 0 false []).seq } ∧
    rr.holder = (rsp 0 false []).src ∧
    (rsg rr).findCmd rr.cmd = some rcR ∧
    (rsg rr).CanEnd rr.cmd ∧
    (rsp 0 true []).body = Body.restoreResp 0 true [] ∧
    rr.cmd = { ring := (rsp 0 true []).ring, seq := (rsp 0 true []).seq } ∧
    rr.holder = (rsp 0 true []).src ∧
    manifestOf [] = none ∧
    (rsp 0 true mb1).body = Body.restoreResp 0 true mb1 ∧
    rr.cmd = { ring := (rsp 0 true mb1).ring, seq := (rsp 0 true mb1).seq } ∧
    rr.holder = (rsp 0 true mb1).src ∧
    manifestOf mb1 = some ((manifestOf mb1).getD (gn [] 0)) ∧
    0 < ((manifestOf mb1).getD (gn [] 0)).entries.length ∧
    (∀ e ∈ ((manifestOf mb1).getD (gn [] 0)).entries, e.type ≠ 5) ∧
    (rsp 1 true [1, 2]).body = Body.restoreResp 1 true [1, 2] ∧
    (rsg (rm [okE, okE] 0 [1, 2])).ck.restore = some (rm [okE, okE] 0 [1, 2]) ∧
    (rm [okE, okE] 0 [1, 2]).cmd = { ring := (rsp 1 true [1, 2]).ring, seq := (rsp 1 true [1, 2]).seq } ∧
    (rm [okE, okE] 0 [1, 2]).holder = (rsp 1 true [1, 2]).src ∧
    (rsg (rm [okE, okE] 0 [1, 2])).findCmd (rm [okE, okE] 0 [1, 2]).cmd = some rcR ∧
    (rsg (rm [okE, okE] 0 [1, 2])).CanEnd (rm [okE, okE] 0 [1, 2]).cmd ∧
    (rsp 1 true [1, 3]).body = Body.restoreResp 1 true [1, 3] ∧
    (rm [okE, okE] 0 [1, 2]).cmd = { ring := (rsp 1 true [1, 3]).ring, seq := (rsp 1 true [1, 3]).seq } ∧
    (rm [okE, okE] 0 [1, 2]).holder = (rsp 1 true [1, 3]).src) := by
  refine ⟨?_, ?_, ?_⟩ <;> first
    | decide +kernel
    | (simp only [State.Runs, State.CanEnd, State.Sound, State.EndsBare]
       decide +kernel)

theorem bytesWords_nil (n : Nat) : bytesWords n [] = List.replicate n 0 := by
  induction n with
  | zero => rfl
  | succ n ih => rw [bytesWords, List.take_nil, List.drop_nil, ih, List.replicate_succ]; rfl

theorem lanes_pass (s : State) (n : Nat) : s.badLane (List.replicate n 0) 1 = none := by
  simp only [State.badLane, Option.map_eq_none_iff, List.find?_eq_none]
  intro q hq
  have h0 : q.1 = 0 := List.eq_of_mem_replicate (List.fst_mem_of_mem_zipIdx hq)
  simp [h0]

/-- The boundary's segment, taken as empty. -/
def boundE : CkEntry := { e2 with type := 1, len := 0, sha := sha256 [] }

/-- A restore that waits for the boundary alone, of a generation with the given next micro-batch. -/
def rb (mb : Nat) : CkRestore := rm [boundE] mb [1]

/-- The last clause's boundary cases: every lane passes, or the first fails. -/
theorem witness_RestoreReadsItsImage_boundary :
    (rsp 1 true []).body = .restoreResp 1 true [] ∧ (rsg (rb 1)).ck.restore = some (rb 1) ∧ (rsg (rb 0)).ck.restore = some (rb 0) ∧
    (rb 1).cmd = ⟨(rsp 1 true []).ring, (rsp 1 true []).seq⟩ ∧ (rb 1).holder = (rsp 1 true []).src ∧
    (rsg (rb 1)).findCmd (rb 1).cmd = some rcR ∧ (rsg (rb 0)).findCmd (rb 0).cmd = some rcR ∧
    (rsg (rb 1)).CanEnd (rb 1).cmd ∧ (rsg (rb 0)).CanEnd (rb 0).cmd ∧
    (rb 1).man = some (gn [boundE] 1) ∧ (gn [boundE] 1).entries[1 - 1]? = some boundE ∧ (rb 1).todo = [1] ∧
    (rb 0).man = some (gn [boundE] 0) ∧ ([] : List Byte).length = boundE.len ∧ sha256 [] = boundE.sha ∧ boundE.type = 1 ∧
    (rsg (rb 1)).bndBase = 0 ∧ (rsg (rb 0)).bndBase = 0 ∧
    (rsg (rb 1)).badLane (bytesWords (64 * (rsg (rb 1)).tileCount) (([] : List Byte).drop (64 + (rsg (rb 1)).imageBytes))) 1 = none ∧
    (rsg (rb 0)).badLane (bytesWords (64 * (rsg (rb 0)).tileCount) (([] : List Byte).drop (64 + (rsg (rb 0)).imageBytes))) 0 =
      some (0, 0) := by
  have lanes : (rsg (rb 1)).badLane (bytesWords (64 * (rsg (rb 1)).tileCount)
      (([] : List Byte).drop (64 + (rsg (rb 1)).imageBytes))) 1 = none := by
    rw [List.drop_nil, bytesWords_nil]; exact lanes_pass _ _
  have first : (rsg (rb 0)).badLane (bytesWords (64 * (rsg (rb 0)).tileCount)
      (([] : List Byte).drop (64 + (rsg (rb 0)).imageBytes))) 0 = some (0, 0) := by
    rw [List.drop_nil, bytesWords_nil, show 64 * (rsg (rb 0)).tileCount = 655359 + 1 by decide +kernel, List.replicate_succ]
    rfl
  and_intros <;> first
    | with_reducible exact lanes
    | with_reducible exact first
    | decide +kernel
    | (simp only [State.CanEnd, State.EndsBare, State.Sound]
       decide +kernel)

end Sys2Proof.Tests.W15

/-! ### Checkpoint rows -/

namespace Sys2Proof.Tests.W16
open Sys2Proof Sys2Proof.Machine Sys2Proof.Tests

def ckb : State := put up [(F.restoreOk, 1), (F.package, 3), (F.portState 47, 2), (F.pdom, 4), (F.ward, 7), (F.buddy, 9)]
def plw (cursor : W) : List W := [0xC0000009, 0x500, 0x40000000, 1, 0, 0, cursor, 0, 0, 0, 0, 0, 0, 0, 0, 0]
def shard (n : W) : List W := [0x90000000 + n, 7, 1, 2, 0x10000, 0, 0x20000, 0, 0x30000, 0, 0x40000, 0, 0, 0, 0, 0]
def plan : CkPlan := { words := plw 0x90000, shards := [shard 1], efs := [] }
def sc (full : W) (step : W) : Cmd := cmd 0x72 [full, step]
/-- boundary region at 0x1000000 whose slot 0 is committed for step 6. -/
def bnd (s : State) : State := place (put s [(⟨Reg.ckptBndLo, 31, 0⟩, 0x1000000)]) 3 0x1000000 [0xF8000009, 6, 11]
def sts (m : Cmd) : State := { put (bnd { ckb with cmds := [m] }) [(F.buddyValid, 1)] with ck := { plan := some plan } }
def scR : Cmd := { sc 0 6 with phase := .running, start := 1, total := 2 }
def strm (todo : List CkSeg) : CkStream := { cmd := some c0, full := false, step := 6, job := 9, nextMb := 11, stime := 99, share := 1, todo := todo }
def e2 : CkEntry := { type := 2, item := 0, off := 4, len := 2, sha := [] }
def hold (es : List CkEntry) (n : Nat) : State := { put ckb [(⟨Reg.ckptImgSize, 15, 0⟩, n)] with ck := { held := [⟨9, 1, 5, 7, 0, 0, es, 4096⟩] } }
def e3 : CkEntry := { e2 with sha := List.replicate 32 7 }
def man (t : PType) (gen : Nat) : Pkt := { type := t, cls := 3, dst := 3, src := if t = .write then 7 else 9, job := 9, ring := 1, seq := 2, len := 16, body := .manifest 9 gen 6 11 99 [if t = .write then e3 else e2] }
def ended : State := { put (sts scR) [(F.ckptActive, 1)] with ck := { gens := 4, plan := some plan, stream := some { strm [] with closed := true, sent := [e2] } } }

def g5 : CkSeg := ⟨5, 0, 0, 64⟩
def planH : CkPlan := { plan with words := [0xC0000009, 0x500, 0x40000000, 1, 0, 0, 0x90000, 0, 8, 0, 0, 0, 0, 0, 0, 0] }
def sending5 : State := { sts scR with ck := { plan := some planH, stream := some (strm [g5]) } }
def cseg1 : Pkt := { type := .write, cls := 3, dst := 3, src := 7, job := 9, ring := 1, seq := 2, len := 16, body := .ckptSeg 1 2 0 4 [0xAA, 0xBB] }
def v1 := (State.imageFree { hold [e2] 1 with ck := { (hold [e2] 1).ck with coming := [] } } 2).getD 0
def manE : Pkt := { (man .write 2) with body := .manifest 9 2 6 11 99 [] }
def kH : CkStream := { strm [] with closed := true, sent := [e2], cmd := none }
def endedH : State := { ended with cmds := [], ck := { ended.ck with stream := some kH } }

theorem witness_CheckpointRowsComplete :
  -- the clause at h.1
  ((sts (sc 0 6)).Runs c0 114 (sc 0 6) ∧
    (sts (sc 0 6)).flag F.buddyValid = true ∧
    (sts (sc 0 6)).ck.plan = some plan ∧
    (sts (sc 0 6)).bndIn 2 = some 0 ∧
    ((sc 0 6).word 5 = (sts (sc 0 6)).bndHead 0 1 ∨ (sc 0 6).word 5 = 4294967295) ∧
    (sts (sc 0 6)).ck.stream = none ∧
    (sts (sc 0 6)).ck.restore = none ∧
    ((sts (sc 0 6)).bndBase ≠ 0 → (sts (sc 0 6)).clearOf c0 ((sts (sc 0 6)).bndSlot 0) 12 ∧ (sts (sc 0 6)).clearOf c0
      ((sts (sc 0 6)).bndSlot 1) 12) ∧
    (sts (sc 0 4294967295)).Runs c0 114 (sc 0 4294967295) ∧
    (sts (sc 0 4294967295)).flag F.buddyValid = true ∧
    (sts (sc 0 4294967295)).ck.plan = some plan ∧
    (sts (sc 0 4294967295)).bndIn 2 = some 0 ∧
    ((sc 0 4294967295).word 5 = (sts (sc 0 4294967295)).bndHead 0 1 ∨ (sc 0 4294967295).word 5 = 4294967295) ∧
    (sts (sc 0 4294967295)).ck.stream = none ∧
    (sts (sc 0 4294967295)).ck.restore = none ∧
    ((sts (sc 0 4294967295)).bndBase ≠ 0 → (sts (sc 0 4294967295)).clearOf c0 ((sts (sc 0 4294967295)).bndSlot 0) 12 ∧
      (sts (sc 0 4294967295)).clearOf c0 ((sts (sc 0 4294967295)).bndSlot 1) 12)) ∧
  -- the clause at h.2.1
  (sending5.ck.stream = some (strm [g5]) ∧
    sending5.ck.plan = some planH ∧
    (strm [g5]).closed = false ∧
    (strm [g5]).todo = [g5] ∧
    (strm [g5]).got = [] ∧
    g5.type = 5 ∧
    sending5.trap = none ∧
    (∀ o ∈ sending5.cmds, o.opcode ≠ 51 ∧ o.opcode ≠ 55)) ∧
  -- the clause at h.2.2.1
  (cseg1.type = PType.write ∧
    cseg1.body = Body.ckptSeg 1 2 0 4 [170, 187] ∧
    cseg1.src = (hold [e2] 1).fld F.ward ∧
    (hold [e2] 1).Sound ∧
    State.imageFree { pending := (hold [e2] 1).pending, trap := (hold [e2] 1).trap, free := (hold [e2] 1).free, out := (hold [e2] 1).out, fuses := (hold [e2] 1).fuses, regs := (hold [e2] 1).regs, portRegs := (hold [e2] 1).portRegs, mem := (hold [e2] 1).mem, errs := (hold [e2] 1).errs, zeroAt := (hold [e2] 1).zeroAt, wear := (hold [e2] 1).wear, scrubAge := (hold [e2] 1).scrubAge, loads := (hold [e2] 1).loads, moved := (hold [e2] 1).moved, cmds := (hold [e2] 1).cmds, spent := (hold [e2] 1).spent, spentRun := (hold [e2] 1).spentRun, rings := (hold [e2] 1).rings, cqs := (hold [e2] 1).cqs, arb := (hold [e2] 1).arb, tb := (hold [e2] 1).tb, halls := (hold [e2] 1).halls, safe := (hold [e2] 1).safe, rst := (hold [e2] 1).rst, board := (hold [e2] 1).board, fab := (hold [e2] 1).fab, seed := (hold [e2] 1).seed, gens := (hold [e2] 1).gens, lastMb := (hold [e2] 1).lastMb, red := (hold [e2] 1).red, erm := (hold [e2] 1).erm, ck := have __src := (hold [e2] 1).ck; { plan := __src.plan, stream := __src.stream, gens := __src.gens, last := __src.last, restore := __src.restore, asking := __src.asking, held := __src.held } } ([170, 187].length) = some v1) ∧
  -- the clause at h.2.2.2.1
  (manE.type = PType.write ∧
    manE.body = Body.manifest 9 2 6 11 99 [] ∧
    manE.src = (hold [e2] 1).fld F.ward ∧
    (hold [e2] 1).Sound ∧
    (hold [e2] 1).reg64 Reg.ckptImgLo Reg.ckptImgHi + 67108864 * (2 % 3) + 67108864 ≤ (hold [e2] 1).imageRegion.2) ∧
  -- the clause at h.2.2.2.2
  ((man PType.response 4).type = PType.response ∧
    (man PType.response 4).body = Body.manifest 9 4 6 11 99 [e2] ∧
    endedH.ck.stream = some kH ∧
    kH.closed = true ∧
    4 = endedH.ck.gens ∧
    (man PType.response 4).src = endedH.fld F.buddy ∧
    kH.cmd = none ∧
    endedH.Calm ∧
    endedH.flag F.logEnable = false ∧
    kH.step < 2 ^ 32) := by
  refine ⟨?_, ?_, ?_, ?_, ?_⟩ <;> first
    | decide +kernel
    | (simp only [State.Runs, State.CanEnd, State.Sound, State.Calm, State.LogIn, State.clearOf, State.EndsBare]
       decide +kernel)

end Sys2Proof.Tests.W16

namespace Sys2Proof.Tests
open Sys2Proof Sys2Proof.Machine

theorem witness_StepRunsFrontCommand : ({ up with pending := .nop c0 :: [] } : State).pending = .nop c0 :: [] := rfl

theorem witness_EveryStepKeepsInvariant : State.reset.Inv ∧ ∃ t, step State.reset = .next t := by
  refine ⟨?_, _, rfl⟩
  simp only [State.Inv]
  decide +kernel

/-- The descriptor of a line of 1,310,736 words of the Deep Cellar: a generator image of a grade A package. -/
def image : List W := tens 7 4 0x100000 [(1310736, 1)]

def gen (op : Nat) : Cmd := caps (cmd op (ptr 0x400)) [(0x400, image)]

/-- The image's header. -/
def imaged : State := place (one (gen 0x51)) 4 0x100000 [0x80000000, 10240, 7, 0]

theorem image_plain (s : State) : s.plain (tensorOf image 0x400) :=
  State.plain_of_line _ _ (by decide +kernel) (by decide +kernel) (by decide +kernel) (by decide +kernel) (by decide +kernel)

theorem witness_GeneratorImageIsSavedAndLoaded :
    ((one (gen 0x52)).Runs c0 0x52 (gen 0x52) ∧ (one (gen 0x52)).genWaits (gen 0x52) = false ∧
      (one (gen 0x52)).imageArg (gen 0x52) = .ok (tensorOf image 0x400) ∧ (one (gen 0x52)).apart c0 (tensorOf image 0x400) ∧
      (one (gen 0x52)).plain (tensorOf image 0x400)) ∧
    (imaged.Runs c0 0x51 (gen 0x51) ∧ imaged.genWaits (gen 0x51) = false ∧ imaged.imageArg (gen 0x51) = .ok (tensorOf image 0x400) ∧
      imaged.apart c0 (tensorOf image 0x400) ∧ imaged.elemBits (tensorOf image 0x400) [0] = 8 * 2 ^ 28 ∧
      imaged.elemBits (tensorOf image 0x400) [1] = imaged.tileCount ∧
      ∀ i, i < 10 → imaged.elemBits (tensorOf image 0x400) [6 + i] = 0) ∧
    ((one (gen 0x51)).Runs c0 0x51 (gen 0x51) ∧ (one (gen 0x51)).imageArg (gen 0x51) = .ok (tensorOf image 0x400) ∧
      (one (gen 0x51)).elemBits (tensorOf image 0x400) [0] ≠ 8 * 2 ^ 28) := by
  and_intros <;> first
    | exact image_plain _
    | decide +kernel
    | (simp only [State.Runs, State.CanEnd, State.EndsBare, State.Sound, State.apart]
       decide +kernel)

end Sys2Proof.Tests

end
end

section
/-! PROOFS. Writes of a Hall's registers, the start of a supply's move, and PP_CTL.target (R28, R29, R31). -/

namespace Sys2Proof.Machine

/-! ### The answer of a meaning, and the frame of register writes -/

theorem fin_of_trap_none {s : State} (h : s.trap = none) : fin s = .next s := by
  rw [fin, h]

theorem OnlyRegs.refl (s : State) (offs : List Nat) : OnlyRegs s s offs := ⟨rfl, fun _ _ => rfl⟩

theorem OnlyRegs.trans {s t u : State} {offs : List Nat} (hst : OnlyRegs s t offs) (htu : OnlyRegs t u offs) :
    OnlyRegs s u offs := by
  obtain ⟨rest, same⟩ := hst
  obtain ⟨rest', same'⟩ := htu
  refine ⟨?_, fun o ho => (same' o ho).trans (same o ho)⟩
  calc { u with regs := s.regs }
      = { ({ u with regs := t.regs } : State) with regs := s.regs } := rfl
    _ = { t with regs := s.regs } := by rw [rest']
    _ = s := rest

theorem OnlyRegs.setFld (s : State) {f : Fld} {offs : List Nat} (v : Nat) (h : f.off ∈ offs) :
    OnlyRegs s (s.setFld f v) offs :=
  ⟨rfl, fun _ ho => State.reg_setFld_other s v fun e => ho (e ▸ h)⟩

theorem OnlyRegs.halls_eq {s t : State} {offs : List Nat} (h : OnlyRegs s t offs) : t.halls = s.halls :=
  by
  simpa using congrArg State.halls h.1

theorem OnlyRegs.trap_eq {s t : State} {offs : List Nat} (h : OnlyRegs s t offs) : t.trap = s.trap :=
  by
  simpa using congrArg State.trap h.1

/-! ### Writes of a register without RWL fields -/

/-- In a state that opens BAR0, a write of a register that holds no RWL field is its effect alone (R554, R479). -/
theorem State.regWrite_of_open {s : State} {off : Nat} (v : W) (f : State → State) (ho : s.bar0Open = true)
    (hr : holdsRwl off = false) : s.regWrite off v f = f s := by
  simp [State.regWrite, State.reaches, ho, hr]

/-- The layout of a Hall's register does not depend on the Hall (R573). -/
theorem regSpec_hall {h o : Nat} (hh : h < 16) (ho : o < 0x10000) (h4 : o % 4 = 0) :
    regSpec (Reg.hall h o) = findSpec hallRegs o := by
  have aligned : ¬ Reg.hall h o % 4 ≠ 0 := by unfold Reg.hall; omega
  have window : Reg.hall h o / 0x10000 = 0x100 + h := by unfold Reg.hall; omega
  have place : Reg.hall h o % 0x10000 = o := by unfold Reg.hall; omega
  rw [regSpec, if_neg aligned]
  simp only [window, place]
  split
  case h_16 => rw [if_pos (by omega)]
  all_goals omega

theorem holdsRwl_ppCtl {h : Nat} (hh : h < 16) : holdsRwl (Reg.hall h 0x10) = false := by
  have noFwCtl : (Reg.hall h 0x10 == Reg.fwCtl) = false := by
    have : Reg.hall h 0x10 ≠ Reg.fwCtl := by simp only [Reg.hall, Reg.fwCtl]; omega
    simpa using this
  have layout : regSpec (Reg.hall h 0x10) = some { off := 0x10, reset := 0x11, rw := 3 } := by
    rw [regSpec_hall hh (by decide) (by decide)]; rfl
  simp [holdsRwl, noFwCtl, layout]

/-! ### The start of a supply's move -/

section Steer
variable (s : State) (h : Nat)

/-- All that steering a supply can do: nothing where it moves already or stands at its goal, else it sets slewing. -/
theorem State.steerSupply_cases :
    (s.steerSupply h = s ∧
      (s.flag (F.slewing h) = true ∨ (s.halls.getD h {}).supply = pointVolts (s.pointGoal h))) ∨
    (s.steerSupply h = s.setFld (F.slewing h) 1 ∧ s.flag (F.slewing h) = false ∧
      (s.halls.getD h {}).supply ≠ pointVolts (s.pointGoal h)) := by
  unfold State.steerSupply
  by_cases moving : s.flag (F.slewing h) = true
  · exact .inl ⟨if_pos moving, .inl moving⟩
  · by_cases atGoal : (s.halls.getD h {}).supply = pointVolts (s.pointGoal h)
    · exact .inl ⟨by rw [if_neg moving, if_pos atGoal], .inr atGoal⟩
    · exact .inr ⟨by rw [if_neg moving, if_neg atGoal], by simpa using moving, atGoal⟩

theorem State.onlyRegs_steerSupply : OnlyRegs s (s.steerSupply h) [Reg.hall h 0x10] := by
  obtain ⟨e, -⟩ | ⟨e, -⟩ := s.steerSupply_cases h <;> rw [e]
  · exact OnlyRegs.refl s _
  · exact OnlyRegs.setFld s 1 (List.mem_singleton_self _)

theorem State.flag_slewing_steerSupply : (s.steerSupply h).flag (F.slewing h) =
    (s.flag (F.slewing h) || decide ((s.halls.getD h {}).supply ≠ pointVolts (s.pointGoal h))) := by
  obtain ⟨e, moving | atGoal⟩ | ⟨e, -, apart⟩ := s.steerSupply_cases h <;> rw [e]
  · simp [moving]
  · rw [decide_eq_false (not_not.2 atGoal), Bool.or_false]
  · have raised : (s.setFld (F.slewing h) 1).fld (F.slewing h) = 1 :=
      State.fld_setFld_same s (F.slewing h) 1 (Nat.le_refl 8) (by simp [F.slewing])
    rw [decide_eq_true apart, Bool.or_true, State.flag, raised, beq_self_eq_true]

/-- Steering touches no field of PP_CTL but slewing. -/
theorem State.fld_steerSupply_beside {f : Fld} (ho : f.off = Reg.hall h 0x10) (hf : f.lo ≤ f.hi)
    (hb : f.hi < 8 ∨ 8 < f.lo) : (s.steerSupply h).fld f = s.fld f := by
  obtain ⟨e, -⟩ | ⟨e, -⟩ := s.steerSupply_cases h <;> rw [e]
  exact State.fld_setFld_beside s (F.slewing h) f 1 (Nat.le_refl 8) (by simp [F.slewing]) hf ho hb

@[simp] theorem State.fld_ppTarget_steerSupply : (s.steerSupply h).fld (F.ppTarget h) = s.fld (F.ppTarget h) :=
  s.fld_steerSupply_beside h rfl (by simp [F.ppTarget]) (by simp [F.ppTarget])

@[simp] theorem State.fld_ppCurrent_steerSupply : (s.steerSupply h).fld (F.ppCurrent h) = s.fld (F.ppCurrent h) :=
  s.fld_steerSupply_beside h rfl (by simp [F.ppCurrent]) (by simp [F.ppCurrent])

@[simp] theorem State.fld_thermalHold_steerSupply : (s.steerSupply h).fld (F.thermalHold h) = s.fld (F.thermalHold h) :=
  s.fld_steerSupply_beside h rfl (by simp [F.thermalHold]) (by simp [F.thermalHold])

@[simp] theorem State.pointGoal_steerSupply : (s.steerSupply h).pointGoal h = s.pointGoal h := by
  simp [State.pointGoal, State.flag]

end Steer

/-! ### The write of target -/

section Target
variable (s : State) (h : Nat) (v : W)

theorem State.fld_ppTarget_setFld : (s.setFld (F.ppTarget h) (bits v 1 0)).fld (F.ppTarget h) = bits v 1 0 := by
  rw [State.fld_setFld_same s (F.ppTarget h) _ (Nat.zero_le 1) (by simp [F.ppTarget])]
  exact Nat.mod_eq_of_lt (bits_lt v 1 0)

/-- Writing target touches no field of PP_CTL above it. -/
theorem State.fld_setFld_ppTarget_above {f : Fld} (n : Nat) (ho : f.off = Reg.hall h 0x10) (hf : f.lo ≤ f.hi)
    (hb : 1 < f.lo) : (s.setFld (F.ppTarget h) n).fld f = s.fld f :=
  State.fld_setFld_beside s (F.ppTarget h) f n (Nat.zero_le 1) (by simp [F.ppTarget]) hf ho (.inr hb)

theorem State.fld_thermalHold_setFld_ppTarget (n : Nat) :
    (s.setFld (F.ppTarget h) n).fld (F.thermalHold h) = s.fld (F.thermalHold h) :=
  s.fld_setFld_ppTarget_above h n rfl (by simp [F.thermalHold]) (by simp [F.thermalHold])

theorem State.fld_slewing_setFld_ppTarget (n : Nat) :
    (s.setFld (F.ppTarget h) n).fld (F.slewing h) = s.fld (F.slewing h) :=
  s.fld_setFld_ppTarget_above h n rfl (by simp [F.slewing]) (by simp [F.slewing])

theorem State.fld_ppCurrent_setFld_ppTarget (n : Nat) :
    (s.setFld (F.ppTarget h) n).fld (F.ppCurrent h) = s.fld (F.ppCurrent h) :=
  s.fld_setFld_ppTarget_above h n rfl (by simp [F.ppCurrent]) (by simp [F.ppCurrent])

/-- Once target is written, the goal is the written point, or PP0 under the thermal hold (R32). -/
theorem State.pointGoal_setFld_ppTarget : (s.setFld (F.ppTarget h) (bits v 1 0)).pointGoal h =
    if s.flag (F.thermalHold h) then 0 else bits v 1 0 := by
  have held : (s.setFld (F.ppTarget h) (bits v 1 0)).flag (F.thermalHold h) = s.flag (F.thermalHold h) := by
    rw [State.flag, State.flag, s.fld_thermalHold_setFld_ppTarget]
  rw [State.pointGoal, held, s.fld_ppTarget_setFld]

theorem onlyRegs_ppCtl : OnlyRegs s (ppCtl h v s) [Reg.hall h 0x10] :=
  (OnlyRegs.setFld s (f := F.ppTarget h) _ (List.mem_singleton_self _)).trans (State.onlyRegs_steerSupply _ h)

theorem fld_ppTarget_ppCtl : (ppCtl h v s).fld (F.ppTarget h) = bits v 1 0 := by
  rw [ppCtl, State.fld_ppTarget_steerSupply, State.fld_ppTarget_setFld]

theorem fld_ppCurrent_ppCtl : (ppCtl h v s).fld (F.ppCurrent h) = s.fld (F.ppCurrent h) := by
  rw [ppCtl, State.fld_ppCurrent_steerSupply, State.fld_ppCurrent_setFld_ppTarget]

theorem fld_thermalHold_ppCtl : (ppCtl h v s).fld (F.thermalHold h) = s.fld (F.thermalHold h) := by
  rw [ppCtl, State.fld_thermalHold_steerSupply, State.fld_thermalHold_setFld_ppTarget]

theorem pointGoal_ppCtl : (ppCtl h v s).pointGoal h = if s.flag (F.thermalHold h) then 0 else bits v 1 0 := by
  rw [ppCtl, State.pointGoal_steerSupply, State.pointGoal_setFld_ppTarget]

/-- A supply in move keeps moving; one at rest begins to move unless it stands at the new goal (R29, R31). -/
theorem flag_slewing_ppCtl : (ppCtl h v s).flag (F.slewing h) = (s.flag (F.slewing h) ||
    decide ((s.halls.getD h {}).supply ≠ pointVolts (if s.flag (F.thermalHold h) then 0 else bits v 1 0))) := by
  have kept : (s.setFld (F.ppTarget h) (bits v 1 0)).flag (F.slewing h) = s.flag (F.slewing h) := by
    rw [State.flag, State.flag, s.fld_slewing_setFld_ppTarget]
  rw [ppCtl, State.flag_slewing_steerSupply, kept, State.pointGoal_setFld_ppTarget, State.setFld_halls]

end Target

/-- Where BAR0 is open, the command is the effect of `ppCtl` and ends without a fault. -/
theorem exec_ppCtlWrite {s : State} {h : Nat} (path : Path) (v : W) (hh : h < 16) (ht : s.trap = none)
    (ho : s.bar0Open = true) : exec (.ppCtlWrite path h v) s = .next (ppCtl h v s) := by
  have noFault : (ppCtl h v s).trap = none := (onlyRegs_ppCtl s h v).trap_eq.trans ht
  calc exec (.ppCtlWrite path h v) s
      = fin (s.regWrite (Reg.hall h 0x10) v (ppCtl h v)) := rfl
    _ = fin (ppCtl h v s) := by rw [State.regWrite_of_open v _ ho (holdsRwl_ppCtl hh)]
    _ = .next (ppCtl h v s) := fin_of_trap_none noFault

/-- Settles O7: outside the refusals of R479 and R554 the write is `ppCtl`, whose laws give each clause. -/
theorem ppCtlWriteTakesTarget : Obligations.PpCtlWriteTakesTarget := by
  unfold Obligations.PpCtlWriteTakesTarget
  intro path h v s hh ht ho
  exact ⟨ppCtl h v s, exec_ppCtlWrite path v hh ht ho, fld_ppTarget_ppCtl s h v, pointGoal_ppCtl s h v,
    (onlyRegs_ppCtl s h v).halls_eq, flag_slewing_ppCtl s h v, fld_ppCurrent_ppCtl s h v, fld_thermalHold_ppCtl s h v,
    onlyRegs_ppCtl s h v⟩

end Sys2Proof.Machine
end

section
/-! PROOFS. Writes of read-only registers (R7), and the reads and writes of TB.STIME_LO and TB.STIME_HI (R90). -/

namespace Sys2Proof.Machine

/-! ### Writes of a read-only register -/

/-- A register whose every bit is RO: software changes none of it. -/
def RegSpec.ReadOnly (r : RegSpec) : Prop := r.rw = 0 ∧ r.rwl = 0 ∧ r.w1c = 0

/-- Taking no bits away leaves a word. -/
theorem and_not_zero (w : W) : w &&& ~~~0#32 = w := by
  rw [BitVec.not_zero, BitVec.and_allOnes]

/-- Under the empty mask the old word stays. -/
theorem merge_zero (old new : W) : merge 0 old new = old := by
  rw [merge, and_not_zero, BitVec.and_zero, BitVec.or_zero]

/-- No mode of the device lets a write into a read-only register (R7). -/
theorem State.written_of_readOnly (s : State) {r : RegSpec} (old v : W) (ro : r.ReadOnly) : s.written r old v = old := by
  obtain ⟨hrw, hrwl, hw1c⟩ := ro
  rw [State.written, hrw, hrwl, hw1c, Nat.or_self, ite_self, merge_zero, BitVec.and_zero, and_not_zero]

theorem holdsRwl_of_readOnly {off : Nat} {r : RegSpec} (layout : regSpec off = some r) (ro : r.ReadOnly)
    (notFwCtl : off ≠ Reg.fwCtl) : holdsRwl off = false := by
  obtain ⟨-, hrwl, -⟩ := ro
  simp [holdsRwl, layout, hrwl, notFwCtl]

theorem State.plainWrite_of_readOnly (s : State) (path : Path) {off : Nat} {r : RegSpec} (v : W)
    (layout : regSpec off = some r) (ro : r.ReadOnly) (shared : perPort off = false) :
    s.plainWrite path off v = s.setReg off (s.reg off) := by
  simp [State.plainWrite, layout, shared, s.written_of_readOnly _ _ ro]

/-- Writing back the word a register holds changes no register. -/
theorem State.reg_setReg_self (s : State) (off o : Nat) : (s.setReg off (s.reg off)).reg o = s.reg o := by
  by_cases h : o = off
  · rw [h, State.reg_setReg_same]
  · exact State.reg_setReg_other s _ h

/-! ### TB.STIME_LO and TB.STIME_HI -/

section Stime
variable {s : State} {off : Nat} (half : off = 0x10008 ∨ off = 0x1000C)
include half

theorem regSpec_stime : ∃ r, regSpec off = some r ∧ r.ReadOnly := by
  rcases half with rfl | rfl
  · exact ⟨{ off := 8 }, rfl, rfl, rfl, rfl⟩
  · exact ⟨{ off := 0xC }, rfl, rfl, rfl, rfl⟩

/-- No row of its own gives a write of either half an effect, so the access type decides (R7). -/
theorem State.writeReg_stime (path : Path) (v : W) :
    s.writeReg path off v = s.regWrite off v fun s => s.plainWrite path off v := by
  rcases half with rfl | rfl <;> rfl

theorem State.writeReg_stime_of_open (path : Path) (v : W) (ho : s.bar0Open = true) :
    s.writeReg path off v = s.setReg off (s.reg off) := by
  obtain ⟨r, layout, ro⟩ := regSpec_stime half
  have noFwCtl : off ≠ Reg.fwCtl := by rcases half with rfl | rfl <;> decide
  have shared : perPort off = false := by rcases half with rfl | rfl <;> decide
  rw [State.writeReg_stime half, State.regWrite_of_open v _ ho (holdsRwl_of_readOnly layout ro noFwCtl),
    s.plainWrite_of_readOnly path v layout ro shared]

/-- Where BAR0 is open, a write of either half stores the word it held, and ends without a fault. -/
theorem exec_registerWrite_stime (path : Path) (v : W) (ht : s.trap = none) (ho : s.bar0Open = true) :
    exec (.registerWrite path off v) s = .next (s.setReg off (s.reg off)) := by
  calc exec (.registerWrite path off v) s
      = fin (s.writeReg path off v) := rfl
    _ = fin (s.setReg off (s.reg off)) := by rw [State.writeReg_stime_of_open half path v ho]
    _ = .next (s.setReg off (s.reg off)) := fin_of_trap_none (by rw [State.setReg_trap, ht])

end Stime

/-- A read of TB.STIME_HI gives the stored word: no count of the device stands in for it (R90). -/
theorem State.readReg_stimeHi {s : State} (path : Path) (ho : s.bar0Open = true) :
    s.readReg path 0x1000C = (s.reg 0x1000C).toNat := by
  have occupied : (regSpec 0x1000C).isNone = false := rfl
  have plain : s.readPlain path 0x1000C = (s.reg 0x1000C).toNat := rfl
  simp [State.readReg, ho, occupied, plain]

/-- What a read of TB.STIME_LO leaves where BAR0 is open: STIME's high half latched, its low half given off (R90). -/
def State.latchStime (s : State) : State :=
  (s.setReg 0x1000C (BitVec.ofNat 32 (s.tb.stime / 2 ^ 32))).emit (.readData (BitVec.ofNat 32 s.tb.stime))

section Latch
variable (s : State)

theorem State.out_latchStime : s.latchStime.out = .readData (BitVec.ofNat 32 s.tb.stime) :: s.out := by
  rw [State.latchStime, State.emit_out, State.setReg_out]

theorem State.trap_latchStime : s.latchStime.trap = s.trap := by
  rw [State.latchStime, State.emit_trap, State.setReg_trap]

theorem State.reg_latchStime_same : s.latchStime.reg 0x1000C = BitVec.ofNat 32 (s.tb.stime / 2 ^ 32) := by
  rw [State.latchStime, State.reg_of_regs (State.emit_regs _ _), State.reg_setReg_same]

theorem State.reg_latchStime_other {o : Nat} (h : o ≠ 0x1000C) : s.latchStime.reg o = s.reg o := by
  rw [State.latchStime, State.reg_of_regs (State.emit_regs _ _), State.reg_setReg_other s _ h]

theorem State.onlyOut_latchStime : OnlyOut s s.latchStime [0x1000C] :=
  ⟨rfl, fun _ ho => s.reg_latchStime_other (List.ne_of_not_mem_cons ho)⟩

/-- The latch lies apart from the device state, which alone opens BAR0 (R554). -/
theorem State.bar0Open_latchStime : s.latchStime.bar0Open = s.bar0Open := by
  have devState : s.latchStime.fld F.devState = s.fld F.devState := by
    rw [State.fld, State.fld, s.reg_latchStime_other (by decide : F.devState.off ≠ 0x1000C)]
  rw [State.bar0Open, State.bar0Open, devState]

theorem State.readReg_stimeHi_latchStime (path : Path) (ho : s.bar0Open = true) :
    s.latchStime.readReg path 0x1000C = s.tb.stime / 2 ^ 32 % 2 ^ 32 := by
  rw [State.readReg_stimeHi path (s.bar0Open_latchStime.trans ho), s.reg_latchStime_same, BitVec.toNat_ofNat]

end Latch

/-- Where BAR0 is open, the command is the latch and ends without a fault. -/
theorem exec_tbStimeLoRead {s : State} (path : Path) (ht : s.trap = none) (ho : s.bar0Open = true) :
    exec (.tbStimeLoRead path) s = .next s.latchStime := by
  calc exec (.tbStimeLoRead path) s
      = fin (stimeLoRead s) := rfl
    _ = fin s.latchStime := by rw [stimeLoRead, if_pos ho, State.latchStime]
    _ = .next s.latchStime := fin_of_trap_none (s.trap_latchStime.trans ht)

/-- Settles O13: the read is `State.latchStime`, and a write of either half puts back the word the register holds. -/
theorem stimeReadLatchesHighHalf : Obligations.StimeReadLatchesHighHalf := by
  unfold Obligations.StimeReadLatchesHighHalf
  constructor
  · intro path s ht ho
    exact ⟨s.latchStime, exec_tbStimeLoRead path ht ho, s.out_latchStime, s.readReg_stimeHi_latchStime path ho,
      s.onlyOut_latchStime⟩
  · intro path v s off half ht ho
    exact ⟨s.setReg off (s.reg off), exec_registerWrite_stime half path v ht ho, s.reg_setReg_self off, rfl⟩

end Sys2Proof.Machine
end

section
/-! PROOFS. A page of BAR2 (R94), the doorbell of a command ring (R95) and that of a completion ring (R587). -/

namespace Sys2Proof.Machine

/-! ### What lies beside a ring's doorbell value -/

@[simp] theorem State.ringx_setRingx_same (s : State) (n : Nat) (x : RingX) : (s.setRingx n x).ringx n = x := by
  rw [State.ringx, State.setRingx_rings, Tab.get_put_same]

theorem State.ringx_setRingx_other (s : State) {n k : Nat} (x : RingX) (h : k ≠ n) :
    (s.setRingx n x).ringx k = s.ringx k := by
  rw [State.ringx, State.setRingx_rings, Tab.get_put_other _ _ h, State.ringx]

theorem State.ringx_of_rings {s t : State} (h : t.rings = s.rings) (k : Nat) : t.ringx k = s.ringx k := by
  rw [State.ringx, h, State.ringx]

@[simp] theorem State.cqx_setCqx_same (s : State) (q : Nat) (x : CqX) : (s.setCqx q x).cqx q = x := by
  rw [State.cqx, State.setCqx_cqs, Tab.get_put_same]

theorem State.cqx_setCqx_other (s : State) {q k : Nat} (x : CqX) (h : k ≠ q) : (s.setCqx q x).cqx k = s.cqx k := by
  rw [State.cqx, State.setCqx_cqs, Tab.get_put_other _ _ h, State.cqx]

@[simp] theorem State.fld_ringBadDoorbell_setFld (s : State) (n : Nat) :
    (s.setFld (F.ringBadDoorbell n) 1).fld (F.ringBadDoorbell n) = 1 :=
  s.fld_setFld_same (F.ringBadDoorbell n) 1 (Nat.le_refl 14) (by simp [F.ringBadDoorbell])

@[simp] theorem State.fld_cqBadDoorbell_setFld (s : State) (q : Nat) :
    (s.setFld (F.cqBadDoorbell q) 1).fld (F.cqBadDoorbell q) = 1 :=
  s.fld_setFld_same (F.cqBadDoorbell q) 1 (Nat.le_refl 29) (by simp [F.cqBadDoorbell])

/-! ### A page of BAR2 (R94) -/

section Page
variable {s : State} (n : Nat) {off : Nat} (v : W)

/-- Both instructions are an access to page n: which ring's doorbell it is, the offset alone decides. -/
theorem exec_commandRingDoorbell (a : PageAccess) :
    exec (.commandRingDoorbell n a) s = fin (bar2Access n a.off a.value s) := rfl

theorem exec_completionRingDoorbell (a : PageAccess) :
    exec (.completionRingDoorbell n a) s = fin (bar2Access n a.off a.value s) := rfl

theorem bar2Access_commandBell : bar2Access n 0 (some v) s = commandDoorbell n v s := rfl

theorem bar2Access_completionBell : bar2Access n 4 (some v) s = completionDoorbell n v s := rfl

theorem bar2Access_read : bar2Access n off none s = s.emit (.readData 0) := rfl

theorem bar2Access_reserved (h0 : off ≠ 0) (h4 : off ≠ 4) : bar2Access n off (some v) s = s := by
  rw [bar2Access, if_neg h0, if_neg h4]

theorem fin_bar2Access_reserved (ht : s.trap = none) (h0 : off ≠ 0) (h4 : off ≠ 4) :
    fin (bar2Access n off (some v) s) = .next s := by
  rw [bar2Access_reserved n v h0 h4, fin_of_trap_none ht]

theorem fin_bar2Access_read (ht : s.trap = none) :
    fin (bar2Access n off none s) = .next (s.emit (.readData 0)) := by
  rw [bar2Access_read, fin_of_trap_none ((State.emit_trap s _).trans ht)]

/-- A doorbell of a command ring that leaves no fault ends in the state its treatment gives. -/
theorem exec_commandRingDoorbell_of {t : State} (h : commandDoorbell n v s = t) (ht : t.trap = none) :
    exec (.commandRingDoorbell n ⟨0, some v⟩) s = .next t := by
  rw [exec_commandRingDoorbell, bar2Access_commandBell, h, fin_of_trap_none ht]

theorem exec_completionRingDoorbell_of {t : State} (h : completionDoorbell n v s = t) (ht : t.trap = none) :
    exec (.completionRingDoorbell n ⟨4, some v⟩) s = .next t := by
  rw [exec_completionRingDoorbell, bar2Access_completionBell, h, fin_of_trap_none ht]

end Page

/-! ### What a reply does (R106, R107, R108) -/

section Reply
variable {s : State} {q ring seq opcode arith progress : Nat} {st : Status} {irq : Bool}

/-- Of the state, the words of a reply show STIME alone. -/
theorem replyWords_of_tb {s t : State} (h : t.tb = s.tb) : replyWords t = replyWords s := by
  funext
  simp only [replyWords, h]

variable (hs : s.Sound)
  (hr : s.cqOpen q = true → s.hasRange (if s.fld (F.cqTier q) = 1 then 3 else 5) (s.cqSlot q) 32 = true)
include hs hr

theorem State.trap_postReply : (s.postReply q ring seq opcode arith progress st irq).trap = none := by
  by_cases ho : s.cqOpen q = true
  · exact (s.postReply_open q ring seq opcode arith progress st irq hs ho (hr ho)).1
  · exact (s.postReply_closed q ring seq opcode arith progress st irq (by simpa using ho)).1.trans hs.1

/-- A reply leaves what the command rings hold. -/
theorem State.rings_postReply : (s.postReply q ring seq opcode arith progress st irq).rings = s.rings := by
  obtain ⟨-, -, noErrs, unarmed⟩ := hs
  obtain ⟨_, _, _, _, _, _, e⟩ | e := s.postReply_only q ring seq opcode arith progress st irq noErrs unarmed hr
  · rw [e]
  · rw [e, State.bump_rings, State.setFld_rings]

/-- A reply leaves every register but the status of its completion ring. -/
theorem State.reg_postReply {o : Nat} (ho : o ≠ Reg.cq q + 0xC) :
    (s.postReply q ring seq opcode arith progress st irq).reg o = s.reg o := by
  obtain ⟨-, -, noErrs, unarmed⟩ := hs
  obtain ⟨_, _, _, _, _, _, e⟩ | e := s.postReply_only q ring seq opcode arith progress st irq noErrs unarmed hr
  · rw [e]; rfl
  · rw [e, State.reg_bump_other _ 1 ho, State.reg_setFld_other _ 1 ho]

theorem State.bytes_postReply (ho : s.cqOpen q = true) :
    (s.postReply q ring seq opcode arith progress st irq).bytes (if s.fld (F.cqTier q) = 1 then 3 else 5) (s.cqSlot q) 32 =
      wordBytes (replyWords s ring seq opcode arith progress st
        (1 - (s.cqx q).prod.toNat / 2 ^ s.fld (F.cqLog2 q) % 2)) := by
  obtain ⟨-, -, -, stored⟩ := s.postReply_open q ring seq opcode arith progress st irq hs ho (hr ho)
  rw [State.bytes, stored]
  exact Tab.gets_puts_same _ _ _ (wordBytes (replyWords ..))

/-- Outside the entry of a ring that takes the reply, memory reads as before. -/
theorem State.get_mem_postReply_apart (k : Nat)
    (apart : ¬ (s.cqOpen q = true ∧ memKey (if s.fld (F.cqTier q) = 1 then 3 else 5) (s.cqSlot q) ≤ k ∧
      k < memKey (if s.fld (F.cqTier q) = 1 then 3 else 5) (s.cqSlot q) + 32)) :
    Tab.get memDefault (s.postReply q ring seq opcode arith progress st irq).mem k = Tab.get memDefault s.mem k := by
  by_cases ho : s.cqOpen q = true
  · obtain ⟨-, -, -, stored⟩ := s.postReply_open q ring seq opcode arith progress st irq hs ho (hr ho)
    rw [stored, Tab.get_puts, dif_neg]
    rw [wordBytes_length]
    exact fun inside => apart ⟨ho, inside⟩
  · obtain ⟨-, -, -, kept⟩ := s.postReply_closed q ring seq opcode arith progress st irq (by simpa using ho)
    rw [kept]

end Reply

/-! ### Which case of R95 and R587 a doorbell value falls in -/

/-- The guard of both treatments passes a doorbell of an existing ring in a state that takes doorbells. -/
theorem bell_passes {s : State} {n : Nat} (hn : n < 4096) (hb : s.takesBells = true) :
    (!s.takesBells || decide (4096 ≤ n)) = false := by
  simp [hb, hn]

/-- What refuses a doorbell that would overfill its ring: bad_doorbell, and a reply on the ring's completion ring (R95). -/
def State.overfullAnswer (s : State) (n : Nat) (v : W) : State :=
  (s.setFld (F.ringBadDoorbell n) 1).postReply (s.fld (F.ringCq n)) n (s.fld (F.ringExpected n)) 0xFF 0 0
    ⟨St.badDoorbell, v.toNat, s.fld (F.ringCons n)⟩ false

/-- What an accepted doorbell leaves: its producer index, and its arrival in the order of arrivals (R95, R96). -/
def State.produced (s : State) (n : Nat) (v : W) : State :=
  ({ s with arb := { s.arb with arrivals := s.arb.arrivals + 1 } }).setRingx n
    { s.ringx n with
      prod := v
      bells := if v = (s.ringx n).prod then (s.ringx n).bells else (s.ringx n).bells ++ [(s.arb.arrivals, v)] }

section CommandBell
variable {s : State} {n : Nat} (v : W) (hn : n < 4096) (hb : s.takesBells = true)
include hn hb

theorem commandDoorbell_disabled (disabled : s.flag (F.ringEnable n) = false) :
    commandDoorbell n v s = s.setFld (F.ringBadDoorbell n) 1 := by
  simp [commandDoorbell, bell_passes hn hb, disabled]

variable (enabled : s.flag (F.ringEnable n) = true)
include enabled

theorem commandDoorbell_management (mgmt : s.fld (F.ringSource n) = 2) : commandDoorbell n v s = s := by
  simp [commandDoorbell, bell_passes hn hb, enabled, mgmt]

variable (inMemory : s.fld (F.ringSource n) ≠ 2)
include inMemory

theorem commandDoorbell_stale (stale : 2 ^ 31 < (v - (s.ringx n).prod).toNat) : commandDoorbell n v s = s := by
  simp only [commandDoorbell, bell_passes hn hb, enabled, inMemory, stale, Bool.not_true,
    Bool.false_eq_true, if_false, if_true]

variable (fresh : (v - (s.ringx n).prod).toNat ≤ 2 ^ 31)
include fresh

theorem commandDoorbell_overfull (overfull : 2 ^ s.fld (F.ringLog2 n) < (v - s.reg (Reg.ring n + 0x10)).toNat) :
    commandDoorbell n v s = s.overfullAnswer n v := by
  simp only [commandDoorbell, bell_passes hn hb, enabled, inMemory, fresh.not_gt, overfull, Bool.not_true,
    Bool.false_eq_true, if_false, if_true, State.overfullAnswer]

theorem commandDoorbell_accepted (fits : (v - s.reg (Reg.ring n + 0x10)).toNat ≤ 2 ^ s.fld (F.ringLog2 n)) :
    commandDoorbell n v s = s.produced n v := by
  simp only [commandDoorbell, bell_passes hn hb, enabled, inMemory, fresh.not_gt, fits.not_gt, Bool.not_true,
    Bool.false_eq_true, if_false, State.produced]

end CommandBell

section CompletionBell
variable {s : State} {q : Nat} (v : W) (hq : q < 4096) (hb : s.takesBells = true)
include hq hb

theorem completionDoorbell_disabled (disabled : s.flag (F.cqEnable q) = false) :
    completionDoorbell q v s = s.setFld (F.cqBadDoorbell q) 1 := by
  simp [completionDoorbell, bell_passes hq hb, disabled]

variable (enabled : s.flag (F.cqEnable q) = true)
include enabled

theorem completionDoorbell_stale (stale : 2 ^ 31 < (v - (s.cqx q).cons).toNat) : completionDoorbell q v s = s := by
  simp only [completionDoorbell, bell_passes hq hb, enabled, stale, Bool.not_true,
    Bool.false_eq_true, if_false, if_true]

variable (fresh : (v - (s.cqx q).cons).toNat ≤ 2 ^ 31)
include fresh

theorem completionDoorbell_past (past : 2 ^ 31 < ((s.cqx q).prod - v).toNat) :
    completionDoorbell q v s = s.setFld (F.cqBadDoorbell q) 1 := by
  simp only [completionDoorbell, bell_passes hq hb, enabled, fresh.not_gt, past, Bool.not_true,
    Bool.false_eq_true, if_false, if_true]

theorem completionDoorbell_accepted (within : ((s.cqx q).prod - v).toNat ≤ 2 ^ 31) :
    completionDoorbell q v s = s.setCqx q { s.cqx q with cons := v } := by
  simp only [completionDoorbell, bell_passes hq hb, enabled, fresh.not_gt, within.not_gt, Bool.not_true,
    Bool.false_eq_true, if_false]

end CompletionBell

/-! ### What the refusal of an overfull ring does -/

theorem State.Sound.setFld_ringBadDoorbell {s : State} {n : Nat} (hs : s.Sound) :
    (s.setFld (F.ringBadDoorbell n) 1).Sound := by
  obtain ⟨noFault, noRun, noErrs, unarmed⟩ := hs
  have apart : F.eccArm.off ≠ (F.ringBadDoorbell n).off := by
    simp only [F.eccArm, F.ringBadDoorbell, Reg.testEccInj, Reg.ring]
    omega
  refine ⟨by simpa using noFault, by simpa using noRun, by simpa using noErrs, ?_⟩
  rw [State.flag, s.fld_setFld_other 1 apart]
  exact unarmed

section Overfull
variable (s : State) {n : Nat} (hn : n < 4096)
include hn

/-- A command ring's status lies apart from every register of a completion ring (R119, R122). -/
theorem cq_ne_ringStatus (q k : Nat) : Reg.cq q + k ≠ Reg.ring n + 0xC := by
  simp only [Reg.cq, Reg.ring]
  omega

theorem State.fld_cq_setFld_ringBadDoorbell (q : Nat) {f : Fld} (k : Nat) (hf : f.off = Reg.cq q + k) :
    (s.setFld (F.ringBadDoorbell n) 1).fld f = s.fld f :=
  s.fld_setFld_other 1 (hf ▸ cq_ne_ringStatus hn q k)

theorem State.cqOpen_setFld_ringBadDoorbell (q : Nat) :
    (s.setFld (F.ringBadDoorbell n) 1).cqOpen q = s.cqOpen q := by
  simp only [State.cqOpen, State.flag, State.cqx_of_cqs (State.setFld_cqs s _ _),
    s.fld_cq_setFld_ringBadDoorbell hn q (f := F.cqEnable q) 8 rfl,
    s.fld_cq_setFld_ringBadDoorbell hn q (f := F.cqLog2 q) 8 rfl]

theorem State.cqSlot_setFld_ringBadDoorbell (q : Nat) :
    (s.setFld (F.ringBadDoorbell n) 1).cqSlot q = s.cqSlot q := by
  have lo : (s.setFld (F.ringBadDoorbell n) 1).reg (Reg.cq q) = s.reg (Reg.cq q) :=
    s.reg_setFld_other 1 (cq_ne_ringStatus hn q 0)
  have hi : (s.setFld (F.ringBadDoorbell n) 1).reg (Reg.cq q + 4) = s.reg (Reg.cq q + 4) :=
    s.reg_setFld_other 1 (cq_ne_ringStatus hn q 4)
  simp only [State.cqSlot, State.reg64, State.cqx_of_cqs (State.setFld_cqs s _ _), lo, hi,
    s.fld_cq_setFld_ringBadDoorbell hn q (f := F.cqLog2 q) 8 rfl]

theorem State.fld_cqTier_setFld_ringBadDoorbell (q : Nat) :
    (s.setFld (F.ringBadDoorbell n) 1).fld (F.cqTier q) = s.fld (F.cqTier q) :=
  s.fld_cq_setFld_ringBadDoorbell hn q 8 rfl

variable {s} (v : W) (hr : s.replyOpen n = true → s.hasRange (s.replyTier n) (s.replyAt n) 32 = true)
include hr

/-- The room for the reply is the same once bad_doorbell is set. -/
theorem State.hasRange_setFld_ringBadDoorbell :
    (s.setFld (F.ringBadDoorbell n) 1).cqOpen (s.fld (F.ringCq n)) = true →
      (s.setFld (F.ringBadDoorbell n) 1).hasRange
        (if (s.setFld (F.ringBadDoorbell n) 1).fld (F.cqTier (s.fld (F.ringCq n))) = 1 then 3 else 5)
        ((s.setFld (F.ringBadDoorbell n) 1).cqSlot (s.fld (F.ringCq n))) 32 = true := by
  rw [s.cqOpen_setFld_ringBadDoorbell hn, s.fld_cqTier_setFld_ringBadDoorbell hn, s.cqSlot_setFld_ringBadDoorbell hn,
    State.hasRange_of_fuses (s.setFld_fuses _ _)]
  exact hr

variable (hs : s.Sound)
include hs

theorem State.trap_overfullAnswer : (s.overfullAnswer n v).trap = none :=
  State.trap_postReply hs.setFld_ringBadDoorbell (State.hasRange_setFld_ringBadDoorbell hn hr)

theorem State.fld_ringBadDoorbell_overfullAnswer : (s.overfullAnswer n v).fld (F.ringBadDoorbell n) = 1 := by
  have status : (s.overfullAnswer n v).reg (Reg.ring n + 0xC) = (s.setFld (F.ringBadDoorbell n) 1).reg (Reg.ring n + 0xC) :=
    State.reg_postReply hs.setFld_ringBadDoorbell (State.hasRange_setFld_ringBadDoorbell hn hr)
      (cq_ne_ringStatus hn _ 0xC).symm
  exact (congrArg (bits · 14 14) status).trans (s.fld_ringBadDoorbell_setFld n)

theorem State.rings_overfullAnswer : (s.overfullAnswer n v).rings = s.rings :=
  (State.rings_postReply hs.setFld_ringBadDoorbell (State.hasRange_setFld_ringBadDoorbell hn hr)).trans (s.setFld_rings _ _)

theorem State.bytes_overfullAnswer (ho : s.replyOpen n = true) :
    (s.overfullAnswer n v).bytes (s.replyTier n) (s.replyAt n) 32 =
      wordBytes (replyWords s n (s.fld (F.ringExpected n)) 0xFF 0 0 ⟨St.badDoorbell, v.toNat, s.fld (F.ringCons n)⟩
        (s.replyPhase n)) := by
  have opened := (s.cqOpen_setFld_ringBadDoorbell hn (s.fld (F.ringCq n))).trans ho
  have written := State.bytes_postReply (ring := n) (seq := s.fld (F.ringExpected n)) (opcode := 0xFF) (arith := 0)
    (progress := 0) (st := ⟨St.badDoorbell, v.toNat, s.fld (F.ringCons n)⟩) (irq := false)
    hs.setFld_ringBadDoorbell (State.hasRange_setFld_ringBadDoorbell hn hr) opened
  rwa [s.fld_cqTier_setFld_ringBadDoorbell hn, s.cqSlot_setFld_ringBadDoorbell hn,
    State.cqx_of_cqs (s.setFld_cqs _ _), s.fld_cq_setFld_ringBadDoorbell hn (s.fld (F.ringCq n)) (f := F.cqLog2 _) 8 rfl,
    replyWords_of_tb (s.setFld_tb _ _)] at written

theorem State.get_mem_overfullAnswer_apart (k : Nat) (apart : ¬ s.inReply n k) :
    Tab.get memDefault (s.overfullAnswer n v).mem k = Tab.get memDefault s.mem k := by
  refine (State.get_mem_postReply_apart hs.setFld_ringBadDoorbell (State.hasRange_setFld_ringBadDoorbell hn hr) k ?_).trans
    (by rw [s.setFld_mem])
  rw [s.cqOpen_setFld_ringBadDoorbell hn, s.fld_cqTier_setFld_ringBadDoorbell hn, s.cqSlot_setFld_ringBadDoorbell hn]
  exact apart

end Overfull

/-! ### What an accepted doorbell does -/

section Accepted
variable (s : State) (n : Nat) (v : W)

theorem State.prod_ringx_produced : ((s.produced n v).ringx n).prod = v := by
  rw [State.produced, State.ringx_setRingx_same]

theorem State.ringx_produced_other {k : Nat} (h : k ≠ n) : (s.produced n v).ringx k = s.ringx k :=
  State.ringx_setRingx_other _ _ h

theorem State.produced_only : { s.produced n v with rings := s.rings, arb := s.arb } = s := rfl

end Accepted

/-- Settles O9: the cases of R95 are those of `commandDoorbell`, and the answer to an overfull ring is a reply. -/
theorem commandDoorbellSetsProducer : Obligations.CommandDoorbellSetsProducer := by
  unfold Obligations.CommandDoorbellSetsProducer
  constructor
  · intro n off v s ht
    exact ⟨rfl, fin_bar2Access_reserved n v ht, fin_bar2Access_read n ht⟩
  intro n v s hn ht hb
  refine ⟨?management, ?disabled, ?stale, ?overfull, ?accepted⟩
  case management =>
    intro enabled mgmt
    exact exec_commandRingDoorbell_of n v (commandDoorbell_management v hn hb enabled mgmt) ht
  case disabled =>
    intro disabled
    exact ⟨_, exec_commandRingDoorbell_of n v (commandDoorbell_disabled v hn hb disabled) ((s.setFld_trap _ _).trans ht),
      s.fld_ringBadDoorbell_setFld n, State.ringx_of_rings (s.setFld_rings _ _) n,
      OnlyRegs.setFld s 1 (List.mem_singleton_self _)⟩
  case stale =>
    intro enabled inMemory stale
    exact exec_commandRingDoorbell_of n v (commandDoorbell_stale v hn hb enabled inMemory stale) ht
  case overfull =>
    intro enabled inMemory fresh overfull hs hr
    exact ⟨_, exec_commandRingDoorbell_of n v (commandDoorbell_overfull v hn hb enabled inMemory fresh overfull)
        (State.trap_overfullAnswer hn v hr hs),
      State.fld_ringBadDoorbell_overfullAnswer hn v hr hs,
      congrArg RingX.prod (State.ringx_of_rings (State.rings_overfullAnswer hn v hr hs) n),
      State.bytes_overfullAnswer hn v hr hs, State.get_mem_overfullAnswer_apart hn v hr hs⟩
  case accepted =>
    intro enabled inMemory fresh fits
    exact ⟨_, exec_commandRingDoorbell_of n v (commandDoorbell_accepted v hn hb enabled inMemory fresh fits) ht,
      s.prod_ringx_produced n v, fun _ other => s.ringx_produced_other n v other, s.produced_only n v⟩

/-- Settles O10: the cases of R587 are those of `completionDoorbell`; those refused set bad_doorbell alone. -/
theorem completionDoorbellSetsConsumer : Obligations.CompletionDoorbellSetsConsumer := by
  unfold Obligations.CompletionDoorbellSetsConsumer
  constructor
  · intro n off v s ht
    exact ⟨rfl, fin_bar2Access_reserved n v ht, fin_bar2Access_read n ht⟩
  intro q v s hq ht hb
  have refused (h : completionDoorbell q v s = s.setFld (F.cqBadDoorbell q) 1) :
      ∃ t, exec (.completionRingDoorbell q ⟨4, some v⟩) s = .next t ∧ t.fld (F.cqBadDoorbell q) = 1 ∧ t.cqx q = s.cqx q ∧
        OnlyRegs s t [Reg.cq q + 0xC] :=
    ⟨_, exec_completionRingDoorbell_of q v h ((s.setFld_trap _ _).trans ht), s.fld_cqBadDoorbell_setFld q,
      State.cqx_of_cqs (s.setFld_cqs _ _) q, OnlyRegs.setFld s 1 (List.mem_singleton_self _)⟩
  refine ⟨?disabled, ?stale, ?past, ?accepted⟩
  case disabled =>
    intro disabled
    exact refused (completionDoorbell_disabled v hq hb disabled)
  case stale =>
    intro enabled stale
    exact exec_completionRingDoorbell_of q v (completionDoorbell_stale v hq hb enabled stale) ht
  case past =>
    intro enabled fresh past
    exact refused (completionDoorbell_past v hq hb enabled fresh past)
  case accepted =>
    intro enabled fresh within
    have taken : (s.setCqx q { s.cqx q with cons := v }).cqx q = ⟨(s.cqx q).prod, v⟩ := s.cqx_setCqx_same q _
    exact ⟨_, exec_completionRingDoorbell_of q v (completionDoorbell_accepted v hq hb enabled fresh within) ht,
      (congrArg CqX.cons taken :), (congrArg CqX.prod taken :), fun _ other => s.cqx_setCqx_other _ other, rfl⟩

end Sys2Proof.Machine
end
